-- ==== Sys2Proof/Word.lean ====
section
/-!
DEFINITION. Word.lean: the word types of the ZBX-9C (R5, R11) and nothing else.
-/
namespace Sys2Proof

/-- One byte of memory (R5). -/
abbrev Byte := BitVec 8
/-- A vector register word of one lane (R11). -/
abbrev W32 := BitVec 32
/-- A scalar, team or special register (R11). -/
abbrev W64 := BitVec 64
/-- A mask over the 32 lanes of a warp (R22). -/
abbrev Mask := BitVec 32
/-- A 9-bit register specifier (R11). -/
abbrev Spec := BitVec 9
/-- The 96 bits of one instruction slot (R86). -/
abbrev Slot96 := BitVec 96

end Sys2Proof
end

