-- ==== Sys2Proof/Syntax.lean ====
section
/-!
DEFINITION. Syntax.lean: the instructions of the ZBX-9C (the seven formats of R97 to R105), and the events of the
machine that the opcode table lists, one constructor per row. Format fields are kept as the bits of the slot: a
value that a field may not hold is a fault the instruction raises when it is executed (R96), not a thing that
cannot be written.
-/
namespace Sys2Proof

/-- The common slot header but for the opcode (R95): NEG, GUARD, ROLE. -/
structure Hdr where
  neg : BitVec 1
  guard : BitVec 4
  role : BitVec 3
deriving DecidableEq, Repr

/-- Format A (R97). -/
structure FA where
  imm : BitVec 32
  rnd : BitVec 3
  sat : BitVec 1
  sub : BitVec 4
  ty : BitVec 4
  sc : BitVec 9
  sb : BitVec 9
  sa : BitVec 9
  dst : BitVec 9
deriving DecidableEq, Repr

/-- Format A with LX and LY in place of SC (R97): `z51` is bit [51]. -/
structure FL where
  imm : BitVec 32
  rnd : BitVec 3
  sat : BitVec 1
  sub : BitVec 4
  ty : BitVec 4
  z51 : BitVec 1
  ly : BitVec 4
  lx : BitVec 4
  sb : BitVec 9
  sa : BitVec 9
  dst : BitVec 9
deriving DecidableEq, Repr

/-- Format M (R99). -/
structure FM where
  ofs : BitVec 32
  sub : BitVec 5
  cls : BitVec 2
  cache : BitVec 3
  scope : BitVec 3
  order : BitVec 2
  size : BitVec 3
  space : BitVec 3
  index : BitVec 9
  base : BitVec 9
  data : BitVec 9
deriving DecidableEq, Repr

/-- Format B (R101). -/
structure FB where
  timeout : BitVec 16
  reg : BitVec 9
  cneg : BitVec 1
  cond : BitVec 4
  jofs : BitVec 22
  jslot : BitVec 3
  tofs : BitVec 22
  tslot : BitVec 3
deriving DecidableEq, Repr

/-- Format X (R102). -/
structure FX where
  ximm : BitVec 32
  sub : BitVec 4
  shape : BitVec 4
  seten : BitVec 1
  setslot : BitVec 3
  wait : BitVec 8
  rowidx : BitVec 9
  acc : BitVec 3
  ld : BitVec 4
  lc : BitVec 4
  lb : BitVec 4
  la : BitVec 4
deriving DecidableEq, Repr

/-- Format C (R103). -/
structure FC where
  imm : BitVec 32
  zero : BitVec 4
  cmod : BitVec 8
  ctgt : BitVec 1
  noreply : BitVec 1
  reply : BitVec 9
  fn : BitVec 7
  srcb : BitVec 9
  srca : BitVec 9
deriving DecidableEq, Repr

/-- Format H (R104). -/
structure FH where
  himm : BitVec 32
  zero : BitVec 7
  sub : BitVec 4
  drift : BitVec 7
  qreg : BitVec 4
  rdst : BitVec 9
  sdata : BitVec 9
  ren : BitVec 1
  sen : BitVec 1
  rring : BitVec 3
  sring : BitVec 3
deriving DecidableEq, Repr

/-- Format S (R105). -/
structure FS where
  imm : BitVec 32
  zero : BitVec 14
  sub : BitVec 4
  csr : BitVec 12
  src : BitVec 9
  dst : BitVec 9
deriving DecidableEq, Repr

/-- A member of a resident workgroup: `wu` names the workgroup (context key times 2^32 plus WGID, R342), `mem` is
the member's `%warp` (R17). -/
structure MRef where
  wu : Nat
  mem : Nat
deriving DecidableEq, Repr

/-- A task-graph node: context key (partition times 65,536 plus CTXID), near die, slot (R270). -/
structure NRef where
  ctx : Nat
  die : Nat
  slot : Nat
deriving DecidableEq, Repr

/-- Where a storage error strikes (R314): a backing, a scratchpad, or a cache: its kind (0 L1, 1 instruction cache, 2 cluster cache, 3 L2)
and its core, quad, or slice (192 times the die plus the slice of R337). -/
inductive ErrPlace where
  | global | scratch (core : Nat) | cache (kind unit : Nat)
deriving DecidableEq, Repr

/-- A fabric message on its way to its receiver (R357): its TYPE, source and destination package, transaction tag, line
number (pod physical address over 128), poison bit, byte-masked data, the atomic's operation and operands, and the SEQ of its first flit:
none while its sender holds it. -/
structure FabMsg where
  kind : Nat := 0
  src : Nat := 0
  dst : Nat := 0
  tag : Nat := 0
  line : Nat := 0
  psn : Bool := false
  data : List (Nat × Byte) := []
  op : Nat := 0
  size : Nat := 0
  opa : W64 := 0
  opb : W64 := 0
  seq : Option Nat := none
deriving DecidableEq, Repr

/-- A pod-barrier message (R358): identity (the kernel node's package, die, partition, context and node id, and
the barrier number), phase, arrivals, expected count, the package
it comes from or goes to, its OP (0 increment, 1 completion, 2 resent increment), and the SEQ of its flit. -/
structure BarMsg where
  pkg : Nat := 0
  die : Nat := 0
  part : Nat := 0
  ctxid : Nat := 0
  node : Nat := 0
  bar : Nat := 0
  phase : Nat := 0
  n : Nat := 0
  expect : Nat := 0
  src : Nat := 0
  dst : Nat := 0
  op : Nat := 0
  seq : Option Nat := none
deriving DecidableEq, Repr

/-- How the physical side of one start step turns out (R396, R399): whether its primary and its alternate way
pass, and what the step finds (untrained stacks, port capacities, present packages). -/
structure StepRes where
  primary : Bool := true
  alternate : Bool := true
  found : List Nat := []
deriving DecidableEq, Repr

/-- Every instruction and event of the opcode table. -/
inductive Instr where
  /-- `TRAP_ILL` (R108): Opcode 0x00, including an all-zero slot, raises ILLOP precisely whatever its other bits hold. -/
  | trapIll (h : Hdr) (f : FB)
  /-- `BRA` (R116): Divergent branch: splits the path on guard and condition, creates a join record and fills slot B or pushes a path entry. -/
  | bra (h : Hdr) (f : FB)
  /-- `BRU` (R117): Uniform branch: moves the whole path on the guard and condition of its lowest lane. -/
  | bru (h : Hdr) (f : FB)
  /-- `BRX` (R127): Moves the whole path to the code pointer held in an s register and keeps the path's record. -/
  | brx (h : Hdr) (f : FB)
  /-- `CALL` (R124): Checks the function header, creates a return record and moves the path to the function. -/
  | call (h : Hdr) (f : FB)
  /-- `CALLI` (R125): Indirect call: groups the lanes by target pointer and places the groups in slots and path entries under one return record. -/
  | calli (h : Hdr) (f : FB)
  /-- `RET` (R126): Parks the path's lanes in their return record and settles it, resuming at the return point once the record completes. -/
  | ret (h : Hdr) (f : FB)
  /-- `EXIT` (R122): Moves the path's lanes into the exited-lane mask, frees the slot and settles the path's record. -/
  | iexit (h : Hdr) (f : FB)
  /-- `JOIN` (R118): Parks the path at its join record and settles the record, completing the join when no path belongs to it any longer. -/
  | ijoin (h : Hdr) (f : FB)
  /-- `FUSE` (R120): Parks the path, and once every non-exited lane is parked at the same fuse, resumes all of them as one path and prunes the records. -/
  | fuse (h : Hdr) (f : FB)
  /-- `LOOP` (R128): Decrements an s register and branches the whole path to the target while the result is non-zero. -/
  | iloop (h : Hdr) (f : FB)
  /-- `YIELD` (R129): Ends the warp's greedy run at the group scheduler. -/
  | yield (h : Hdr) (f : FB)
  /-- `NOP` (R129): Does nothing. -/
  | nop (h : Hdr) (f : FB)
  /-- `FUNCTION_HEADER` (R123): The nop.fn slot that heads a function and carries its register budget; it acts as nop when executed. -/
  | fnHeader (h : Hdr) (f : FB)
  /-- `TRAP` (R130): Raises PROGTRAP precisely with n as detail, and the fault policy then applies. -/
  | trap (h : Hdr) (f : FB)
  /-- `BRK` (R131): Acts as nop unless debug is enabled; with debug enabled it stops the workgroup and posts a breakpoint record. -/
  | brk (h : Hdr) (f : FB)
  /-- `WDOG_RD` (R133): Writes the remaining watchdog count to an s register. -/
  | wdogRd (h : Hdr) (f : FB)
  /-- `WDOG_KICK` (R133): Restarts the member's watchdog count. -/
  | wdogKick (h : Hdr) (f : FB)
  /-- `WDOG_LIM` (R133): Lowers the member's watchdog budget to min(budget, sN) and restarts the count. -/
  | wdogLim (h : Hdr) (f : FB)
  /-- `IADD` (R139): Integer add, wrapping or saturating. -/
  | iadd (h : Hdr) (f : FA)
  /-- `IADD3` (R139): Three-operand integer add, wrapping. -/
  | iadd3 (h : Hdr) (f : FA)
  /-- `IADC` (R139): Add with carry-in predicate, optionally writing the carry-out to a predicate. -/
  | iadc (h : Hdr) (f : FA)
  /-- `ISUB` (R139): Integer subtract, wrapping or saturating. -/
  | isub (h : Hdr) (f : FA)
  /-- `IMUL` (R139): Low half of the integer product. -/
  | imul (h : Hdr) (f : FA)
  /-- `IMULH` (R139): High half of the integer product. -/
  | imulh (h : Hdr) (f : FA)
  /-- `IMAD` (R139): Integer multiply-add, wrapping. -/
  | imad (h : Hdr) (f : FA)
  /-- `IMADW` (R139): Widening 32x32 multiply plus a 64-bit addend, modulo 2^64. -/
  | imadw (h : Hdr) (f : FA)
  /-- `IDIV` (R140): Integer divide truncating toward zero, with the defined edge cases, setting %istat or raising an integer trap. -/
  | idiv (h : Hdr) (f : FA)
  /-- `IREM` (R140): Integer remainder, with the defined edge cases, setting %istat or raising an integer trap. -/
  | irem (h : Hdr) (f : FA)
  /-- `INEG` (R139): Integer negate, wrapping or saturating. -/
  | ineg (h : Hdr) (f : FA)
  /-- `IABS` (R139): Integer absolute value, wrapping or saturating. -/
  | iabs (h : Hdr) (f : FA)
  /-- `IMIN` (R139): The smaller integer, compared by the type. -/
  | imin (h : Hdr) (f : FA)
  /-- `IMAX` (R139): The larger integer, compared by the type. -/
  | imax (h : Hdr) (f : FA)
  /-- `AND` (R142): Bitwise AND. -/
  | iand (h : Hdr) (f : FA)
  /-- `OR` (R142): Bitwise OR. -/
  | ior (h : Hdr) (f : FA)
  /-- `XOR` (R142): Bitwise XOR. -/
  | ixor (h : Hdr) (f : FA)
  /-- `ANDN` (R142): a AND NOT b. -/
  | andn (h : Hdr) (f : FA)
  /-- `NOT` (R142): Bitwise NOT. -/
  | inot (h : Hdr) (f : FA)
  /-- `LGC3` (R142): Three-input logic function selected by an 8-bit map. -/
  | lgc3 (h : Hdr) (f : FA)
  /-- `SHL` (R142): Logical shift left. -/
  | shl (h : Hdr) (f : FA)
  /-- `SHR` (R142): Logical shift right. -/
  | shr (h : Hdr) (f : FA)
  /-- `SAR` (R142): Arithmetic shift right. -/
  | sar (h : Hdr) (f : FA)
  /-- `ROL` (R142): Rotate left. -/
  | rol (h : Hdr) (f : FA)
  /-- `ROR` (R142): Rotate right. -/
  | ror (h : Hdr) (f : FA)
  /-- `BFE` (R142): Bit-field extract, zero- or sign-extended. -/
  | bfe (h : Hdr) (f : FA)
  /-- `BFI` (R142): Bit-field insert. -/
  | bfi (h : Hdr) (f : FA)
  /-- `BREV` (R142): Bit reverse. -/
  | brev (h : Hdr) (f : FA)
  /-- `POPC` (R142): Population count. -/
  | popc (h : Hdr) (f : FA)
  /-- `CLZ` (R142): Count leading zeros. -/
  | clz (h : Hdr) (f : FA)
  /-- `CTZ` (R142): Count trailing zeros. -/
  | ctz (h : Hdr) (f : FA)
  /-- `BYTX` (R142): Byte permute of an 8-byte pool under a control word. -/
  | bytx (h : Hdr) (f : FA)
  /-- `LEA` (R143): 64-bit address: base plus a shifted, extended index. -/
  | lea (h : Hdr) (f : FA)
  /-- `ICMP` (R143): Integer compare into a predicate or a mask. -/
  | icmp (h : Hdr) (f : FA)
  /-- `SEL` (R143): Selects a or b by a predicate. -/
  | sel (h : Hdr) (f : FA)
  /-- `PAND` (R143): Predicate AND. -/
  | pand (h : Hdr) (f : FA)
  /-- `POR` (R143): Predicate OR. -/
  | por (h : Hdr) (f : FA)
  /-- `PXOR` (R143): Predicate XOR. -/
  | pxor (h : Hdr) (f : FA)
  /-- `PNOT` (R143): Predicate NOT. -/
  | pnot (h : Hdr) (f : FA)
  /-- `MOV` (R143): Register move, including writes of %istat, %fstat and send registers. -/
  | mov (h : Hdr) (f : FA)
  /-- `MOVI` (R143): Moves an immediate into the register, or into its upper half with .hi. -/
  | movi (h : Hdr) (f : FA)
  /-- `MOVS` (R144): Moves one lane's vector value into an s register. -/
  | movs (h : Hdr) (f : FA)
  /-- `LXCH` (R146): Lane exchange within groups by index, back, forward or mirror. -/
  | lxch (h : Hdr) (f : FA)
  /-- `BCAST` (R146): Broadcasts one source lane's value. -/
  | bcast (h : Hdr) (f : FA)
  /-- `VOTE` (R146): all, any or same vote over the source lanes. -/
  | vote (h : Hdr) (f : FA)
  /-- `BALLOT` (R146): Mask of the source lanes whose predicate is set. -/
  | ballot (h : Hdr) (f : FA)
  /-- `MATCH` (R147): Mask of the source lanes whose key matches the lane's own, by bits or by value. -/
  | imatch (h : Hdr) (f : FA)
  /-- `PERM4` (R146): Permutes the lanes within each group of four. -/
  | perm4 (h : Hdr) (f : FA)
  /-- `ICVT` (R148): Converts between integer types, truncating or saturating. -/
  | icvt (h : Hdr) (f : FA)
  /-- `FADD` (R153): Floating-point add, rounded once. -/
  | fadd (h : Hdr) (f : FA)
  /-- `FSUB` (R153): Floating-point subtract, rounded once. -/
  | fsub (h : Hdr) (f : FA)
  /-- `FMUL` (R153): Floating-point multiply, rounded once. -/
  | fmul (h : Hdr) (f : FA)
  /-- `FFMA` (R153): Fused multiply-add with one rounding. -/
  | ffma (h : Hdr) (f : FA)
  /-- `FMIN` (R65): Minimum, returning NaN when either operand is a NaN. -/
  | fmin (h : Hdr) (f : FA)
  /-- `FMAX` (R65): Maximum, returning NaN when either operand is a NaN. -/
  | fmax (h : Hdr) (f : FA)
  /-- `FMINN` (R65): Minimum that returns the non-NaN operand. -/
  | fminn (h : Hdr) (f : FA)
  /-- `FMAXN` (R65): Maximum that returns the non-NaN operand. -/
  | fmaxn (h : Hdr) (f : FA)
  /-- `FABS` (R153): Clears the sign bit. -/
  | fabs (h : Hdr) (f : FA)
  /-- `FNEG` (R153): Inverts the sign bit. -/
  | fneg (h : Hdr) (f : FA)
  /-- `FCMP` (R155): Floating-point compare into a predicate or a mask. -/
  | fcmp (h : Hdr) (f : FA)
  /-- `FDIV` (R153): Correctly rounded division. -/
  | fdiv (h : Hdr) (f : FA)
  /-- `FSQRT` (R153): Correctly rounded square root. -/
  | fsqrt (h : Hdr) (f : FA)
  /-- `FRCP` (R157): Approximate reciprocal within 1 ulp. -/
  | frcp (h : Hdr) (f : FA)
  /-- `FRSQ` (R157): Approximate reciprocal square root. -/
  | frsq (h : Hdr) (f : FA)
  /-- `FEX2` (R157): Approximate 2^a, exact for integral a. -/
  | fex2 (h : Hdr) (f : FA)
  /-- `FLG2` (R157): Approximate log2 a. -/
  | flg2 (h : Hdr) (f : FA)
  /-- `FSIN` (R157): Approximate sine. -/
  | fsin (h : Hdr) (f : FA)
  /-- `FCOS` (R157): Approximate cosine. -/
  | fcos (h : Hdr) (f : FA)
  /-- `FTANH` (R157): Approximate hyperbolic tangent. -/
  | ftanh (h : Hdr) (f : FA)
  /-- `FRND` (R155): Rounds to an integral value in the same format. -/
  | frnd (h : Hdr) (f : FA)
  /-- `FSCL` (R155): Scales by 2^b, rounded. -/
  | fscl (h : Hdr) (f : FA)
  /-- `FCLS` (R155): Writes the operand's class mask. -/
  | fcls (h : Hdr) (f : FA)
  /-- `FCVT` (R158): Converts between floating-point formats, E8M0 included. -/
  | fcvt (h : Hdr) (f : FA)
  /-- `F2I` (R158): Converts a float to an integer. -/
  | f2i (h : Hdr) (f : FA)
  /-- `I2F` (R158): Converts an integer to a float. -/
  | i2f (h : Hdr) (f : FA)
  /-- `PACK` (R159): Packs 16-bit or 8-bit fields into one word. -/
  | pack (h : Hdr) (f : FA)
  /-- `UNPK` (R159): Extracts one field of a word, zero-extended. -/
  | unpk (h : Hdr) (f : FA)
  /-- `DOT2` (R159): Two-term dot product plus an f32 addend, rounded once. -/
  | dot2 (h : Hdr) (f : FA)
  /-- `HQT` (R70): Signed Hadamard transform of a tensor along one dimension, from LX into LY. -/
  | hqt (h : Hdr) (f : FL)
  /-- `QFP8` (R162): Quantises a tensor to E4M3 or E5M2 with block scales. -/
  | qfp8 (h : Hdr) (f : FL)
  /-- `QCB4` (R71): Quantises a tensor to CB4 codes with E8M0 block scales. -/
  | qcb4 (h : Hdr) (f : FL)
  /-- `DQCB4` (R72): Dequantises a CB4 tensor through its codebook and scales. -/
  | dqcb4 (h : Hdr) (f : FL)
  /-- `ROPE` (R162): Rotates adjacent element pairs by the angles of a table tensor. -/
  | rope (h : Hdr) (f : FL)
  /-- `RED` (R163): Tree reduction across the source lanes into an s register. -/
  | red (h : Hdr) (f : FA)
  /-- `SCAN` (R164): Inclusive tree prefix across the source lanes. -/
  | scan (h : Hdr) (f : FA)
  /-- `LD` (R172): Per-lane load, relaxed or acquire, counted in its class. -/
  | ld (h : Hdr) (f : FM)
  /-- `ST` (R172): Per-lane store, relaxed or release, counted in its class. -/
  | st (h : Hdr) (f : FM)
  /-- `LDX` (R175): Element-indexed load through a layout register or a handle. -/
  | ldx (h : Hdr) (f : FM)
  /-- `STX` (R175): Element-indexed store through a layout register or a handle. -/
  | stx (h : Hdr) (f : FM)
  /-- `LDS` (R172): Scalar load into an s register. -/
  | lds (h : Hdr) (f : FM)
  /-- `STS` (R172): Scalar store from an s register. -/
  | sts (h : Hdr) (f : FM)
  /-- `LDK` (R173): Reads the kernel's constant segment. -/
  | ldk (h : Hdr) (f : FM)
  /-- `PREF` (R174): Prefetches lines toward the core, up to the named level. -/
  | pref (h : Hdr) (f : FM)
  /-- `ATOM` (R176): Per-lane atomic read-modify-write that returns the old value. -/
  | atom (h : Hdr) (f : FM)
  /-- `ARED` (R176): Per-lane atomic reduction without a returned value. -/
  | ared (h : Hdr) (f : FM)
  /-- `FENCE` (R180): Release and/or acquire ordering of the member's accesses at a scope. -/
  | fence (h : Hdr) (f : FM)
  /-- `CFLUSH` (R181): Writes back modified copies of a line to the memory of the scope. -/
  | cflush (h : Hdr) (f : FM)
  /-- `CINV` (R181): Writes back, then invalidates a line in the quad, including fetch buffers. -/
  | cinv (h : Hdr) (f : FM)
  /-- `WCNT` (R183): Stalls until the class counters fall to their bounds, and raises the oldest pending report. -/
  | wcnt (h : Hdr) (f : FM)
  /-- `WTVAL` (R185): Polls a memory value until a comparison holds or a timeout passes. -/
  | wtval (h : Hdr) (f : FM)
  /-- `BAR` (R186): Arrives at and/or waits on a barrier phase at a scope. -/
  | bar (h : Hdr) (f : FM)
  /-- `SND` (R189): Sends the payload of a send register to a receive queue of the cluster group. -/
  | snd (h : Hdr) (f : FM)
  /-- `RCV` (R192): Pops a receive queue, or with .cnt reads its count. -/
  | rcv (h : Hdr) (f : FM)
  /-- `LYLD` (R197): Loads a 256-byte layout record into a layout register after checking it. -/
  | lyld (h : Hdr) (f : FL)
  /-- `LYST` (R198): Stores a layout register's image to memory bit for bit. -/
  | lyst (h : Hdr) (f : FL)
  /-- `LYSET` (R200): Replaces one field of a layout image, keeping it well-formed. -/
  | lyset (h : Hdr) (f : FL)
  /-- `LYGET` (R201): Reads one field of a layout image. -/
  | lyget (h : Hdr) (f : FL)
  /-- `LYCOL_RD` (R202): Reads one matrix column of a layout. -/
  | lycolRd (h : Hdr) (f : FL)
  /-- `LYCOL_WR` (R202): Replaces one matrix column of a layout, keeping it well-formed. -/
  | lycolWr (h : Hdr) (f : FL)
  /-- `LYCHK` (R203): Tests a record, or a relayout between two registers, and writes a defect code. -/
  | lychk (h : Hdr) (f : FL)
  /-- `LYCP` (R204): Copies one layout register to another. -/
  | lycp (h : Hdr) (f : FL)
  /-- `LYH` (R205): Loads a handle's image, and optionally its codebook, into layout and codebook registers. -/
  | lyh (h : Hdr) (f : FL)
  /-- `LYLOC` (R206): Maps an index vector to a location or a storage address. -/
  | lyloc (h : Hdr) (f : FL)
  /-- `LYIDX` (R206): Maps a location back to its index vector. -/
  | lyidx (h : Hdr) (f : FL)
  /-- `CBLD` (R207): Loads 16 BF16 entries into a codebook register. -/
  | cbld (h : Hdr) (f : FL)
  /-- `MMA` (R220): Tile multiply-accumulate into an accumulator, rounded per k-block. -/
  | mma (h : Hdr) (f : FX)
  /-- `MMAG` (R221): mma with the rows of A gathered by row indices. -/
  | mmag (h : Hdr) (f : FX)
  /-- `MMLD` (R222): Loads a tile into an accumulator and sets its kind. -/
  | mmld (h : Hdr) (f : FX)
  /-- `MMST` (R223): Stores an accumulator through a layout, converted to its format. -/
  | mmst (h : Hdr) (f : FX)
  /-- `MMZ` (R224): Zeroes an accumulator and sets its kind. -/
  | mmz (h : Hdr) (f : FX)
  /-- `MMDR` (R223): Drains an accumulator into register-space storage. -/
  | mmdr (h : Hdr) (f : FX)
  /-- `MMFL` (R224): Fills an accumulator with a raw 32-bit value. -/
  | mmfl (h : Hdr) (f : FX)
  /-- `MMIA` (R225): Widening integer accumulate, with row or column prefixes. -/
  | mmia (h : Hdr) (f : FX)
  /-- `MMSCL` (R226): Scales the rows or columns of an F32 tile. -/
  | mmscl (h : Hdr) (f : FX)
  /-- `MMCB` (R227): Combines two accumulator tiles element by element. -/
  | mmcb (h : Hdr) (f : FX)
  /-- `MMSL` (R228): No-op that joins dependency slots. -/
  | mmsl (h : Hdr) (f : FX)
  /-- `HAND` (R241): Sends on and/or receives from a conjunction ring. -/
  | hand (h : Hdr) (f : FH)
  /-- `TBRA` (R243): Team-common branch on a team register, decided once per line-buffer entry. -/
  | tbra (h : Hdr) (f : FB)
  /-- `TLOOP` (R243): Team-common loop that decrements a team register. -/
  | tloop (h : Hdr) (f : FB)
  /-- `TSYNC` (R244): Team barrier over every non-exited member. -/
  | tsync (h : Hdr) (f : FH)
  /-- `QSET` (R245): Writes a team register by its writer role. -/
  | qset (h : Hdr) (f : FH)
  /-- `QGET` (R245): Reads a team register. -/
  | qget (h : Hdr) (f : FH)
  /-- `DRIFT` (R246): Sets the team's drift bound, once per entry. -/
  | drift (h : Hdr) (f : FH)
  /-- `RDONE` (R242): Sends a marker stage on a ring. -/
  | rdone (h : Hdr) (f : FH)
  /-- `CPY` (R257): Counted copy of element codes over a box, from one layout to another. -/
  | cpy (h : Hdr) (f : FC)
  /-- `CPYX` (R259): Copies blocks chosen through a block table, staging TIERMISS events under .stage. -/
  | cpyx (h : Hdr) (f : FC)
  /-- `CPYR` (R258): Copy with a rotary re-encoding of element pairs. -/
  | cpyr (h : Hdr) (f : FC)
  /-- `RLY` (R263): Starts, resumes or stops at a pass an in-place relayout to a target layout. -/
  | rly (h : Hdr) (f : FC)
  /-- `RLYW` (R264): Waits until a relayout has committed a stated pass. -/
  | rlyw (h : Hdr) (f : FC)
  /-- `RLYP` (R265): Writes the relayout plan to memory without moving data. -/
  | rlyp (h : Hdr) (f : FC)
  /-- `GATH` (R262): Gathers list-indexed elements of a memory tensor into a rank-1 destination. -/
  | gath (h : Hdr) (f : FC)
  /-- `PGAL` (R266): Pops pages from a pool into block-table sequences. -/
  | pgal (h : Hdr) (f : FC)
  /-- `PGFR` (R267): Pushes pages back onto a pool. -/
  | pgfr (h : Hdr) (f : FC)
  /-- `PGSW` (R261): Swaps two block tables' entries indivisibly for engines. -/
  | pgsw (h : Hdr) (f : FC)
  /-- `MIG` (R268): Moves a range of pages into the near or the far tier. -/
  | mig (h : Hdr) (f : FC)
  /-- `TRES` (R269): Reports where a page resides, touching nothing. -/
  | tres (h : Hdr) (f : FC)
  /-- `TNODE` (R270): Creates a task-graph node in the HELD state. -/
  | tnode (h : Hdr) (f : FC)
  /-- `TEDGE` (R271): Adds a successor edge between two nodes. -/
  | tedge (h : Hdr) (f : FC)
  /-- `TLAUNCH` (R272): Arms a HELD node. -/
  | tlaunch (h : Hdr) (f : FC)
  /-- `TCANCEL` (R273): Withdraws every unlaunched node and queue entry carrying a tag, with their successors. -/
  | tcancel (h : Hdr) (f : FC)
  /-- `HNEW` (R274): Creates a handle-table entry and returns its handle. -/
  | hnew (h : Hdr) (f : FC)
  /-- `HDEL` (R275): Deletes a handle, clearing VALID and raising GEN. -/
  | hdel (h : Hdr) (f : FC)
  /-- `HCHK` (R276): Reports a handle's liveness, ownership and rights without faulting. -/
  | hchk (h : Hdr) (f : FC)
  /-- `CSRR` (R279): Reads a control and status register. -/
  | csrr (h : Hdr) (f : FS)
  /-- `CSRW` (R279): Writes a control and status register. -/
  | csrw (h : Hdr) (f : FS)
  /-- `SVC` (R280): Enters the system handler at level 1, or raises PROGTRAP when there is none. -/
  | svc (h : Hdr) (f : FS)
  /-- `ERET` (R280): Returns from the handler to level 0 at epc. -/
  | eret (h : Hdr) (f : FS)
  /-- `TLBI_ALL` (R281): Removes every TLB entry of the context in the package. -/
  | tlbiAll (h : Hdr) (f : FS)
  /-- `TLBI_PAGE` (R281): Removes the TLB entries of one page in the package. -/
  | tlbiPage (h : Hdr) (f : FS)
  /-- `CTXSV` (R282): Saves a stopped workgroup, or its whole cluster group, into a save area. -/
  | ctxsv (h : Hdr) (f : FS)
  /-- `CTXLD` (R282): Checks a save area and restores the saved workgroup or group. -/
  | ctxld (h : Hdr) (f : FS)
  /-- `HALT` (R283): Stops the workgroup and posts a halt record. -/
  | halt (h : Hdr) (f : FS)
  /-- `HINT` (R284): Gives a scheduling or cache hint with no architectural effect. -/
  | hint (h : Hdr) (f : FS)
  /-- `LINE_REFETCH` (R88): Refetch of a line whose parity failed; it continues, or raises MALLINE when the refetch also fails. -/
  | lineRefetch (r : MRef) (slotB : Bool)
  /-- `SLOT_PROMOTION` (R329): A slot left ready and unpicked for 64 cycles is promoted by the group scheduler. -/
  | slotPromotion (r : MRef) (slotB : Bool)
  /-- `JOIN_TIMEOUT` (R119): The join timer reaches zero and the parked lanes leave for the timeout target. -/
  | joinTimeout (r : MRef) (e : Nat)
  /-- `WATCHDOG` (R132): The watchdog count reaches its budget, raising WATCHDOG under the fault policy. -/
  | watchdog (r : MRef)
  /-- `WTVAL_TIMEOUT` (R185): The polling timeout of wtval expires and the last value read is written. -/
  | wtvalTimeout (r : MRef)
  /-- `LOAD_RETURN` (R182): A load's data is written to its destination and the ld-class operation retires. -/
  | loadReturn (r : MRef)
  /-- `STORE_RETIRE` (R290): A write reaches the memory of its scope and retires from the st class. -/
  | storeRetire (r : MRef)
  /-- `READ_PERFORM` (R291): A read takes its value from outbox, scratchpad or quad view at one step. -/
  | readPerform (r : MRef) (op piece : Nat)
  /-- `ATOMIC_PERFORM` (R296): A lane's read-modify-write is performed in one step at its place. -/
  | atomicPerform (r : MRef) (op : Nat) (lane : Nat)
  /-- `WRITE_DRAIN` (R288): A write leaves the outbox into scratchpad or the quad view. -/
  | writeDrain (w : Nat)
  /-- `WRITE_PUSH` (R288): A write in a quad view is copied to package memory. -/
  | writePush (w : Nat)
  /-- `WRITE_SEND` (R288): A write in package memory is copied into the pod in-flight set. -/
  | writeSend (w : Nat)
  /-- `WRITE_GRANT` (R288): A write leaves the pod in-flight set into pod memory. -/
  | writeGrant (w : Nat)
  /-- `WRITE_FILL` (R288): A write is filled from pod memory into a package memory, or from package memory into a quad view. -/
  | writeFill (toQuad : Option Nat) (line : Nat)
  /-- `MESSAGE_APPEND` (R191): A sent message reaches its receive queue and is appended, or refused with QFULL. -/
  | messageAppend (msg : Nat)
  /-- `RING_STAGE_WRITE` (R237): A send instance is written to its stage once every sender has arrived and room exists. -/
  | ringStageWrite (wu ring : Nat)
  /-- `MATRIX_START` (R214): A queued matrix instruction starts once its waited dependency slots have fallen. -/
  | matrixStart (core op : Nat)
  /-- `MATRIX_COMPLETE` (R214): A matrix instruction writes its results, lowers its set slot and retires in the tile class. -/
  | matrixComplete (core op : Nat) (elems : List Nat)
  /-- `MATRIX_WATCHDOG` (R333): A started matrix instruction exceeds 65,536 cycles, and the engine resets with MXRESET. -/
  | matrixWatchdog (core : Nat)
  /-- `ENGINE_WRITE_LAND` (R297): An engine write lands in its home, decrementing the byte counter of its target node. -/
  | engineWriteLand (op move : Nat)
  /-- `ENGINE_COMPLETION` (R252): A counted engine command completes and retires from the cpy class, writing its reply and any report. -/
  | engineCompletion (op : Nat)
  /-- `RELAYOUT_GROUP_COMMIT` (R52): An exchange group of a relayout pass commits atomically; the last commit completes the pass or the relayout. -/
  | relayoutGroupCommit (op group : Nat)
  /-- `PAGE_WALK` (R308): A walk of the page tables completes with a translation or XLATE. -/
  | pageWalk (ctx va : Nat)
  /-- `PAGE_MOVE` (R311): The migration engine finishes copying a page, switches its leaf and writes the freed frame to the released-frame queue. -/
  | pageMove (move : Nat)
  /-- `STORAGE_ERROR` (R314): An uncorrectable error marks its line poisoned; a correctable one is corrected and counted. -/
  | storageError (place : ErrPlace) (addr : Nat) (hard : Bool)
  /-- `LAUNCH_ENTRY_TAKE` (R319): The scheduler takes a launch-queue entry, checks its descriptor and arms it as a node, or posts a launch error. -/
  | launchEntryTake (ctx q : Nat)
  /-- `NODE_LAUNCH` (R272): An armed node with zero predecessor and byte counters launches. -/
  | nodeLaunch (n : NRef)
  /-- `NODE_FINISH` (R321): A node finishes, decrements its successors and frees its slot. -/
  | nodeFinish (n : NRef)
  /-- `CHUNK_DEAL` (R322): The master distributor deals a chunk of cluster groups to a near die. -/
  | chunkDeal (n : NRef)
  /-- `WORKGROUP_PLACE` (R324): A die's distributor places a waiting workgroup or cluster group on cores, which start with an acquire. -/
  | workgroupPlace (die : Nat)
  /-- `RESOURCE_RELEASE` (R122): An ended workgroup's resources are released once all its counters reach zero. -/
  | resourceRelease (wu : Nat)
  /-- `WORKGROUP_MIGRATION` (R325): A stress or starvation condition held for 2^16 cycles migrates a workgroup to another core. -/
  | workgroupMigration (wu core : Nat)
  /-- `SENDER_ACK` (R326): A sender acknowledges a workgroup's new location to its forwarding entry. -/
  | senderAck (fwd sender : Nat)
  /-- `FORWARD_RETIRE` (R326): A forwarding entry retires after every sender has acknowledged and 4,096 quiet cycles have passed. -/
  | forwardRetire (fwd : Nat)
  /-- `SAVE_COMPLETE` (R347): A workgroup stopped for save finishes its ld, st and matrix work and its state is saved. -/
  | saveComplete (wu : Nat)
  /-- `MATRIX_SAVE_LIMIT` (R346): A started matrix instruction not finished 256 cycles into a save is abandoned and requeued. -/
  | matrixSaveLimit (wu : Nat)
  /-- `DIEFENCE` (R354): A near die is fenced for a logic error, a link or a thermal trip; its work is re-dealt or stopped and records are posted. -/
  | diefence (die cause : Nat)
  /-- `DIE_LINK_RATE_STEP` (R335): Every 65,536 network cycles a die link steps its rate down or up by its use. -/
  | dieLinkRateStep (link use : Nat)
  /-- `DIE_LINK_RETRAIN` (R336): A die link's retraining window ends, and traffic resumes or, after three failures, a die is fenced. -/
  | dieLinkRetrain (link : Nat) (ok : Bool)
  /-- `LINK_CONTROL` (R361): A link-control flit naming the expected SEQ makes the sender replay from it. `way` is twice the plane,
  plus 1 where the sender is the switch. -/
  | linkControl (way seq : Nat)
  /-- `ACK_TIMEOUT` (R361): No acknowledgement for the scaled timeout makes the sender replay from its oldest flit. -/
  | ackTimeout (way : Nat)
  /-- `LINK_RETRAIN` (R361): An optical link's retraining ends; the link resumes and replays, or after three failures is down. -/
  | linkRetrain (plane : Nat) (ok : Bool)
  /-- `LINK_RATE_STEP` (R363): Every 65,536 controller cycles an optical link steps its rate by its use. -/
  | linkRateStep (plane use : Nat)
  /-- `LINE_RECALL` (R376): A lost update or a switch error makes the switch recall a line from its possible holders. -/
  | lineRecall (line cause : Nat)
  /-- `RECALL_WINDOW_EXPIRY` (R376): The recall window ends; silent holders are removed or the line is poisoned, and a RECALL record is posted. -/
  | recallWindowExpiry (line : Nat)
  /-- `WAVELENGTH_LOSS` (R364): A wavelength fails; every link carrying it retrains at a smaller W, replays and posts LASERLOSS. -/
  | wavelengthLoss (die : Nat) (waves : BitVec 16) (links : BitVec 24) (atMonitor : Bool)
  /-- `WAVELENGTH_RESTORE` (R365): Lost wavelengths show light for 2^20 cycles; the links regain width and post LASERLOSS with CAUSE 2. -/
  | wavelengthRestore (die : Nat) (waves : BitVec 16) (links : BitVec 24)
  /-- `LASERLOSS` (R384): A far die posts its LASERLOSS record once every listed link has resumed or is down. -/
  | laserloss (die : Nat)
  /-- `PLANEDOWN` (R378): A plane is lost; packages recover, rewrite REMAP and post PLANEDOWN records. -/
  | planedown (plane cause pkg : Nat)
  /-- `HOST_MEM_ACCESS` (R386): A host CXL.mem read or write is performed at package memory through the partition's HDM range. -/
  | hostMemAccess (part off : Nat) (wr : Option (List Byte)) (len : Nat)
  /-- `LQTAIL` (R388): A host write of a queue tail notifies new launch entries, or is ignored when out of range. -/
  | lqtail (ctx q : Nat) (v : W64)
  /-- `FEATACC` (R400): The driver writes the accepted feature subset, ignored while any context exists. -/
  | featacc (hi : Bool) (v : W64)
  /-- `HOST_REGISTER_WRITE` (R388): A host write of any other context or management register, ignored where the rules forbid it. -/
  | hostRegisterWrite (ctx : Option Nat) (off : Nat) (v : W64)
  /-- `THERMAL_TRIP` (R403): A core's temperature margin reaches 0 °C and its die is fenced. -/
  | thermalTrip (core : Nat)
  /-- `UNASSIGNED_OPCODE` (R107): A slot with an unassigned major opcode, or opcode 0xFF with any bit clear, raises ILLOP precisely and has no effect. -/
  | unassignedOpcode (opc : BitVec 8) (rest : BitVec 88)
  /-- `COP` (R110): A coprocessor-form slot whose function code names no command, including every code of group 0xCF, raises ENGFN precisely. -/
  | cop (grp : BitVec 3) (h : Hdr) (f : FC)
  /-- `DECLARE_UNHANDLED` (R343): The host declares a replayable fault unhandled, and the launch's fault policy is applied to the stopped workgroup. -/
  | declareUnhandled (wu : Nat)
  /-- `FLIT_CRC_FAILURE` (R361): A received flit fails its CRC, or carries a non-zero zero field; the receiver discards it and every later flit and requests a replay. `way` as for `linkControl`, by link; links 64
  to 77 are the die links (R336). -/
  | flitCrcFailure (way : Nat)
  /-- `POWER_LOSS` (R397): Power is lost without an orderly power-down, losing almanac counts since the last write and possibly interrupting a start-record write. -/
  | powerLoss (tornCopy : Option Nat)
  /-- `PLANE_READMISSION` (R376): A package whose link to a plane was down is admitted to the plane again, after dropping its clean peer lines of that plane. -/
  | planeReadmission (pkg plane : Nat)
  /-- `VOLTAGE_DROOP` (R324): A core records a voltage-droop event, raising its stress score and its die's droop histogram. -/
  | voltageDroop (core bin : Nat)
  /-- `POWER_GATING` (R34): A core's clock is stopped for power gating, or started again, which stops or resumes its cycle count. -/
  | powerGating (core : Nat) (stop : Bool)
  /-- `EMPTY_SLOT` (R108): The all-ones empty slot, executed as nop by every member that reaches it. -/
  | emptySlot
  /-- `READ_SHARED` (R371): A read-shared request reaches the switch and changes the line's directory entry. -/
  | readShared
  /-- `READ_EXCLUSIVE` (R371): A read-exclusive request reaches the switch, which invalidates or forwards and grants M. -/
  | readExclusive
  /-- `UPGRADE` (R371): An upgrade request reaches the switch, which invalidates the other sharers. -/
  | upgrade
  /-- `WRITE_BACK` (R371): A write-back, or an engine write to another package, reaches the switch and writes the line at home. -/
  | writeBack
  /-- `CLEAN_EVICTION` (R372): A clean eviction removes the package from the entry. -/
  | cleanEviction
  /-- `ATOMIC` (R374): A pod atomic reaches the switch, which invalidates the copies and has the home perform it once. -/
  | atomic
  /-- `FORWARD` (R371): A forward reaches an owner, which sends its data to the requester. -/
  | forward
  /-- `INVALIDATE` (R371): An invalidation reaches a holder, which drops its copy and acknowledges. -/
  | invalidate
  /-- `RECALL` (R376): A recall reaches a package, which answers with its state and data. -/
  | recallReq
  /-- `DATA` (R371): A line's data reaches the requester. -/
  | data
  /-- `ACKNOWLEDGEMENT` (R368): An acknowledgement reaches the switch and may end the transaction. -/
  | acknowledgement
  /-- `GRANT` (R371): A grant reaches the requester, which may then use the line. -/
  | grant
  /-- `UNCACHED_GRANT` (R375): A one-shot read granted during a set recall reaches the requester. -/
  | uncachedGrant
  /-- `BARRIER_INCREMENT` (R381): A pod-barrier increment, or a resent one, reaches the switch and is summed by identity. -/
  | barrierIncrement
  /-- `BARRIER_COMPLETION` (R381): A pod-barrier completion reaches a package, completing the phase there. -/
  | barrierCompletion
  /-- `CREATE` (R393): Creates a context from its descriptor and replies with CTXID. -/
  | create
  /-- `DESTROY` (R392): Stops a context under the CONTEXT policy and frees its resources. -/
  | destroy
  /-- `PREEMPT` (R346): Stops a workgroup, or all of a context's, for save. -/
  | preempt
  /-- `RESUME` (R343): Resumes a stopped workgroup. -/
  | resume
  /-- `SETPOOL` (R266): Sets up a page pool from a list. -/
  | setpool
  /-- `SETRESERVE` (R392): Appends frames to a partition's near or far reserve. -/
  | setreserve
  /-- `SETREMAP` (R392): Writes the plane REMAP table while no context exists. -/
  | setremap
  /-- `PARTNEW` (R392): Creates a partition's keys. -/
  | partnew
  /-- `PARTFREE` (R392): Zeroes a partition's HBM share and scratchpads, then destroys its keys. -/
  | partfree
  /-- `READSTART` (R397): Copies the valid start record to host memory. -/
  | readstart
  /-- `READALM` (R404): Copies a signed almanac snapshot to host memory. -/
  | readalm
  /-- `RESETCTX` (R392): Resets a context stopped under the CONTEXT policy so that new queue entries are taken. -/
  | resetctx
  /-- `GET_VERSION` (R395): SPDM request answered with the supported version. -/
  | getVersion
  /-- `GET_CAPABILITIES` (R395): SPDM request answered with the capabilities. -/
  | getCapabilities
  /-- `NEGOTIATE_ALGORITHMS` (R395): SPDM request that settles on ECDSA P-256 with SHA-256. -/
  | negotiateAlgorithms
  /-- `GET_DIGESTS` (R395): SPDM request answered with certificate-chain digests. -/
  | getDigests
  /-- `GET_CERTIFICATE` (R395): SPDM request answered with the slot 0 certificate chain. -/
  | getCertificate
  /-- `CHALLENGE` (R395): SPDM challenge signed with the identity key. -/
  | challenge
  /-- `GET_MEASUREMENTS` (R395): SPDM request answered with measurement blocks 1 to 9. -/
  | getMeasurements
  /-- `I3C_START_RECORD_READ` (R398): A sideband read of the start record, served by the security processor. -/
  | i3cStartRecordRead
  /-- `START` (R396): Power-on start: runs the start steps by the previous outcomes and records each outcome. -/
  | powerOn
  /-- `POWER_CAP` (R402): Every 2^16 network cycles, package power is measured and the core clock lowered or raised. -/
  | powerCap
  /-- `ALMANAC_WRITE` (R404): The almanac is written to flash every 2^20 cycles of the security processor. -/
  | almanacWrite
  /-- `POWER_DOWN` (R404): An orderly power-down, at which the almanac is written to flash. -/
  | powerDown
  /-- `MALFORMED_COMMAND` (R391): A mailbox command with an unknown OP or a malformed entry is taken and completed with error code 1. -/
  | malformedCommand
deriving DecidableEq, Repr

end Sys2Proof
end

