-- ==== Sys2Proof/WellFormed.lean ====
section
/-!
DEFINITION. WellFormed.lean: which terms of `Instr` a slot can be read as (the fields by which one opcode is shared
among several constructors, R106 to R112, R278), and which arguments an event of the machine can have (the ranges
of R2, R31, R305, R354, R356).
-/
namespace Sys2Proof

/-- R107: the opcodes that no instruction has. -/
def opcUnassigned (op : Nat) : Bool :=
  (0x10 ≤ op && op ≤ 0x1F) || (0x4E ≤ op && op ≤ 0x4F) || (0x74 ≤ op && op ≤ 0x77) || (0x8A ≤ op && op ≤ 0x97) ||
  (0xA3 ≤ op && op ≤ 0xA7) || (0xB3 ≤ op && op ≤ 0xB7) || (0xC0 ≤ op && op ≤ 0xC7) || (0xD9 ≤ op && op ≤ 0xFE)

/-- R110: how many function codes of a coprocessor group name a command. -/
def groupCommands (g : Nat) : Nat :=
  match g with
  | 0 => 3 | 1 => 3 | 2 => 1 | 3 => 3 | 4 => 2 | 5 => 4 | 6 => 3 | _ => 0

/-- The bits that choose this constructor among those sharing its opcode, and the ranges of an event's arguments. -/
def wellFormed : Instr → Bool
  | .trapIll .. => true
  | .bra .. => true
  | .bru .. => true
  | .brx .. => true
  | .call .. => true
  | .calli .. => true
  | .ret .. => true
  | .iexit .. => true
  | .ijoin .. => true
  | .fuse .. => true
  | .iloop .. => true
  | .yield .. => true
  | .nop _ f => f.reg != 511
  | .fnHeader _ f => f.reg == 511
  | .emptySlot => true
  | .trap .. => true
  | .brk .. => true
  | .wdogRd _ f => f.timeout != 1 && f.timeout != 2
  | .wdogKick _ f => f.timeout == 1
  | .wdogLim _ f => f.timeout == 2
  | .iadd .. => true
  | .iadd3 .. => true
  | .iadc .. => true
  | .isub .. => true
  | .imul .. => true
  | .imulh .. => true
  | .imad .. => true
  | .imadw .. => true
  | .idiv .. => true
  | .irem .. => true
  | .ineg .. => true
  | .iabs .. => true
  | .imin .. => true
  | .imax .. => true
  | .iand .. => true
  | .ior .. => true
  | .ixor .. => true
  | .andn .. => true
  | .inot .. => true
  | .lgc3 .. => true
  | .shl .. => true
  | .shr .. => true
  | .sar .. => true
  | .rol .. => true
  | .ror .. => true
  | .bfe .. => true
  | .bfi .. => true
  | .brev .. => true
  | .popc .. => true
  | .clz .. => true
  | .ctz .. => true
  | .bytx .. => true
  | .lea .. => true
  | .icmp .. => true
  | .sel .. => true
  | .pand _ f => f.sub != 1 && f.sub != 2 && f.sub != 3
  | .por _ f => f.sub == 1
  | .pxor _ f => f.sub == 2
  | .pnot _ f => f.sub == 3
  | .mov .. => true
  | .movi .. => true
  | .movs .. => true
  | .lxch .. => true
  | .bcast .. => true
  | .vote .. => true
  | .ballot .. => true
  | .imatch .. => true
  | .perm4 .. => true
  | .icvt .. => true
  | .fadd .. => true
  | .fsub .. => true
  | .fmul .. => true
  | .ffma .. => true
  | .fmin .. => true
  | .fmax .. => true
  | .fminn .. => true
  | .fmaxn .. => true
  | .fabs .. => true
  | .fneg .. => true
  | .fcmp .. => true
  | .fdiv .. => true
  | .fsqrt .. => true
  | .frcp .. => true
  | .frsq .. => true
  | .fex2 .. => true
  | .flg2 .. => true
  | .fsin .. => true
  | .fcos .. => true
  | .ftanh .. => true
  | .frnd .. => true
  | .fscl .. => true
  | .fcls .. => true
  | .fcvt .. => true
  | .f2i .. => true
  | .i2f .. => true
  | .pack .. => true
  | .unpk .. => true
  | .dot2 .. => true
  | .hqt .. => true
  | .qfp8 .. => true
  | .qcb4 .. => true
  | .dqcb4 .. => true
  | .rope .. => true
  | .red .. => true
  | .scan .. => true
  | .ld .. => true
  | .st .. => true
  | .ldx .. => true
  | .stx .. => true
  | .lds .. => true
  | .sts .. => true
  | .ldk .. => true
  | .pref .. => true
  | .atom .. => true
  | .ared .. => true
  | .fence .. => true
  | .cflush .. => true
  | .cinv .. => true
  | .wcnt .. => true
  | .wtval .. => true
  | .bar .. => true
  | .snd .. => true
  | .rcv .. => true
  | .lyld .. => true
  | .lyst .. => true
  | .lyset .. => true
  | .lyget .. => true
  | .lycolRd _ f => f.sub &&& 1 == 0
  | .lycolWr _ f => f.sub &&& 1 == 1
  | .lychk .. => true
  | .lycp .. => true
  | .lyh .. => true
  | .lyloc .. => true
  | .lyidx .. => true
  | .cbld .. => true
  | .mma .. => true
  | .mmag .. => true
  | .mmld .. => true
  | .mmst .. => true
  | .mmz .. => true
  | .mmdr .. => true
  | .mmfl .. => true
  | .mmia .. => true
  | .mmscl .. => true
  | .mmcb .. => true
  | .mmsl .. => true
  | .hand .. => true
  | .tbra .. => true
  | .tloop .. => true
  | .tsync .. => true
  | .qset .. => true
  | .qget .. => true
  | .drift .. => true
  | .rdone .. => true
  | .cpy _ f => f.fn == 0
  | .cpyx _ f => f.fn == 1
  | .cpyr _ f => f.fn == 2
  | .rly _ f => f.fn == 0
  | .rlyw _ f => f.fn == 1
  | .rlyp _ f => f.fn == 2
  | .gath _ f => f.fn == 0
  | .pgal _ f => f.fn == 0
  | .pgfr _ f => f.fn == 1
  | .pgsw _ f => f.fn == 2
  | .mig _ f => f.fn == 0
  | .tres _ f => f.fn == 1
  | .tnode _ f => f.fn == 0
  | .tedge _ f => f.fn == 1
  | .tlaunch _ f => f.fn == 2
  | .tcancel _ f => f.fn == 3
  | .hnew _ f => f.fn == 0
  | .hdel _ f => f.fn == 1
  | .hchk _ f => f.fn == 2
  | .csrr .. => true
  | .csrw .. => true
  | .svc .. => true
  | .eret .. => true
  | .tlbiAll _ f => f.sub != 1
  | .tlbiPage _ f => f.sub == 1
  | .ctxsv .. => true
  | .ctxld .. => true
  | .halt .. => true
  | .hint .. => true
  | .lineRefetch .. => true
  | .slotPromotion .. => true
  | .joinTimeout .. => true
  | .watchdog .. => true
  | .wtvalTimeout .. => true
  | .loadReturn .. => true
  | .storeRetire .. => true
  | .readPerform .. => true
  | .atomicPerform .. => true
  | .writeDrain .. => true
  | .writePush .. => true
  | .writeSend .. => true
  | .writeGrant .. => true
  | .writeFill .. => true
  | .messageAppend .. => true
  | .ringStageWrite .. => true
  | .matrixStart .. => true
  | .matrixComplete .. => true
  | .matrixWatchdog core => decide (core < 1024)
  | .engineWriteLand .. => true
  | .engineCompletion .. => true
  | .relayoutGroupCommit .. => true
  | .pageWalk .. => true
  | .pageMove .. => true
  | .storageError .. => true
  | .launchEntryTake .. => true
  | .nodeLaunch .. => true
  | .nodeFinish .. => true
  | .chunkDeal .. => true
  | .workgroupPlace die => decide (die < 4)
  | .resourceRelease .. => true
  | .workgroupMigration .. => true
  | .senderAck .. => true
  | .forwardRetire .. => true
  | .saveComplete .. => true
  | .matrixSaveLimit .. => true
  | .diefence die cause => decide (die < 4 ∧ 1 ≤ cause ∧ cause ≤ 3)
  | .dieLinkRateStep link use => decide (link < 14 ∧ use ≤ 100)
  | .dieLinkRetrain link _ => decide (link < 14)
  | .readShared => true
  | .readExclusive => true
  | .upgrade => true
  | .writeBack => true
  | .cleanEviction => true
  | .atomic => true
  | .forward => true
  | .invalidate => true
  | .recallReq => true
  | .data => true
  | .acknowledgement => true
  | .grant => true
  | .uncachedGrant => true
  | .barrierIncrement => true
  | .barrierCompletion => true
  | .linkControl way seq => decide (way < 96 ∧ seq < 4096)
  | .ackTimeout way => decide (way < 96)
  | .linkRetrain plane _ => decide (plane < 48)
  | .linkRateStep plane use => decide (plane < 48 ∧ use ≤ 100)
  | .lineRecall _ cause => decide (cause < 3)
  | .recallWindowExpiry .. => true
  | .wavelengthLoss die _ _ _ => decide (die < 2)
  | .wavelengthRestore die _ _ => decide (die < 2)
  | .laserloss die => decide (die < 2)
  | .planedown plane cause pkg => decide (plane < 48 ∧ cause < 3 ∧ pkg < 256)
  | .hostMemAccess .. => true
  | .lqtail _ q _ => decide (q < 4)
  | .featacc .. => true
  | .hostRegisterWrite .. => true
  | .create => true
  | .destroy => true
  | .preempt => true
  | .resume => true
  | .setpool => true
  | .setreserve => true
  | .setremap => true
  | .partnew => true
  | .partfree => true
  | .readstart => true
  | .readalm => true
  | .resetctx => true
  | .getVersion => true
  | .getCapabilities => true
  | .negotiateAlgorithms => true
  | .getDigests => true
  | .getCertificate => true
  | .challenge => true
  | .getMeasurements => true
  | .i3cStartRecordRead => true
  | .powerOn => true
  | .powerCap => true
  | .thermalTrip core => decide (core < 1024)
  | .almanacWrite => true
  | .powerDown => true
  | .unassignedOpcode opc rest => opcUnassigned opc.toNat || (opc == 0xFF && rest != BitVec.allOnes 88)
  | .cop g _ f => decide (groupCommands g.toNat ≤ f.fn.toNat)
  | .malformedCommand => true
  | .declareUnhandled .. => true
  | .flitCrcFailure way => decide (way < 96 ∨ (128 ≤ way ∧ way < 156))
  | .powerLoss .. => true
  | .planeReadmission pkg plane => decide (pkg < 256 ∧ plane < 48)
  | .voltageDroop core bin => decide (core < 1024 ∧ bin < 16)
  | .powerGating core _ => decide (core < 1024)

end Sys2Proof
end

