-- ==== Sys2Proof/Decode.lean ====
section
/-!
DEFINITION. Decode.lean: the decoder of one 96-bit slot (R86, R95 to R110), total on every slot, and the encoder
written from the same field tables. Reserved field values are not refused here: they decode to the instruction
whose opcode the slot carries, and that instruction raises the fault R96 gives it. What R107 leaves unassigned,
and a function code R110 leaves unassigned, decode to constructors of their own, `unassignedOpcode` and `cop`.
-/
namespace Sys2Proof

/-- Bits `[lo + n - 1 : lo]` of a slot (R5). -/
def fld (w : Slot96) (lo n : Nat) : BitVec n := w.extractLsb' lo n

/-- The header but for the opcode (R95). -/
def hdrOf (w : Slot96) : Hdr := { neg := fld w 15 1, guard := fld w 11 4, role := fld w 8 3 }

/-- The fields of format A, bits [95:16]. -/
def fAOf (w : Slot96) : FA :=
  { imm := fld w 64 32, rnd := fld w 61 3, sat := fld w 60 1, sub := fld w 56 4, ty := fld w 52 4, sc := fld w 43 9, sb := fld w 34 9, sa := fld w 25 9, dst := fld w 16 9 }

/-- A slot of format A from its opcode, header and fields. -/
def asmA (opc : BitVec 8) (h : Hdr) (f : FA) : Slot96 :=
  f.imm ++ f.rnd ++ f.sat ++ f.sub ++ f.ty ++ f.sc ++ f.sb ++ f.sa ++ f.dst ++ h.neg ++ h.guard ++ h.role ++ opc

/-- The fields of format L with LX and LY, bits [95:16]. -/
def fLOf (w : Slot96) : FL :=
  { imm := fld w 64 32, rnd := fld w 61 3, sat := fld w 60 1, sub := fld w 56 4, ty := fld w 52 4, z51 := fld w 51 1, ly := fld w 47 4, lx := fld w 43 4, sb := fld w 34 9, sa := fld w 25 9, dst := fld w 16 9 }

/-- A slot of format L with LX and LY from its opcode, header and fields. -/
def asmL (opc : BitVec 8) (h : Hdr) (f : FL) : Slot96 :=
  f.imm ++ f.rnd ++ f.sat ++ f.sub ++ f.ty ++ f.z51 ++ f.ly ++ f.lx ++ f.sb ++ f.sa ++ f.dst ++ h.neg ++ h.guard ++ h.role ++ opc

/-- The fields of format M, bits [95:16]. -/
def fMOf (w : Slot96) : FM :=
  { ofs := fld w 64 32, sub := fld w 59 5, cls := fld w 57 2, cache := fld w 54 3, scope := fld w 51 3, order := fld w 49 2, size := fld w 46 3, space := fld w 43 3, index := fld w 34 9, base := fld w 25 9, data := fld w 16 9 }

/-- A slot of format M from its opcode, header and fields. -/
def asmM (opc : BitVec 8) (h : Hdr) (f : FM) : Slot96 :=
  f.ofs ++ f.sub ++ f.cls ++ f.cache ++ f.scope ++ f.order ++ f.size ++ f.space ++ f.index ++ f.base ++ f.data ++ h.neg ++ h.guard ++ h.role ++ opc

/-- The fields of format B, bits [95:16]. -/
def fBOf (w : Slot96) : FB :=
  { timeout := fld w 80 16, reg := fld w 71 9, cneg := fld w 70 1, cond := fld w 66 4, jofs := fld w 44 22, jslot := fld w 41 3, tofs := fld w 19 22, tslot := fld w 16 3 }

/-- A slot of format B from its opcode, header and fields. -/
def asmB (opc : BitVec 8) (h : Hdr) (f : FB) : Slot96 :=
  f.timeout ++ f.reg ++ f.cneg ++ f.cond ++ f.jofs ++ f.jslot ++ f.tofs ++ f.tslot ++ h.neg ++ h.guard ++ h.role ++ opc

/-- The fields of format X, bits [95:16]. -/
def fXOf (w : Slot96) : FX :=
  { ximm := fld w 64 32, sub := fld w 60 4, shape := fld w 56 4, seten := fld w 55 1, setslot := fld w 52 3, wait := fld w 44 8, rowidx := fld w 35 9, acc := fld w 32 3, ld := fld w 28 4, lc := fld w 24 4, lb := fld w 20 4, la := fld w 16 4 }

/-- A slot of format X from its opcode, header and fields. -/
def asmX (opc : BitVec 8) (h : Hdr) (f : FX) : Slot96 :=
  f.ximm ++ f.sub ++ f.shape ++ f.seten ++ f.setslot ++ f.wait ++ f.rowidx ++ f.acc ++ f.ld ++ f.lc ++ f.lb ++ f.la ++ h.neg ++ h.guard ++ h.role ++ opc

/-- The fields of format C, bits [95:16]. -/
def fCOf (w : Slot96) : FC :=
  { imm := fld w 64 32, zero := fld w 60 4, cmod := fld w 52 8, ctgt := fld w 51 1, noreply := fld w 50 1, reply := fld w 41 9, fn := fld w 34 7, srcb := fld w 25 9, srca := fld w 16 9 }

/-- A slot of format C from its opcode, header and fields. -/
def asmC (opc : BitVec 8) (h : Hdr) (f : FC) : Slot96 :=
  f.imm ++ f.zero ++ f.cmod ++ f.ctgt ++ f.noreply ++ f.reply ++ f.fn ++ f.srcb ++ f.srca ++ h.neg ++ h.guard ++ h.role ++ opc

/-- The fields of format H, bits [95:16]. -/
def fHOf (w : Slot96) : FH :=
  { himm := fld w 64 32, zero := fld w 57 7, sub := fld w 53 4, drift := fld w 46 7, qreg := fld w 42 4, rdst := fld w 33 9, sdata := fld w 24 9, ren := fld w 23 1, sen := fld w 22 1, rring := fld w 19 3, sring := fld w 16 3 }

/-- A slot of format H from its opcode, header and fields. -/
def asmH (opc : BitVec 8) (h : Hdr) (f : FH) : Slot96 :=
  f.himm ++ f.zero ++ f.sub ++ f.drift ++ f.qreg ++ f.rdst ++ f.sdata ++ f.ren ++ f.sen ++ f.rring ++ f.sring ++ h.neg ++ h.guard ++ h.role ++ opc

/-- The fields of format S, bits [95:16]. -/
def fSOf (w : Slot96) : FS :=
  { imm := fld w 64 32, zero := fld w 50 14, sub := fld w 46 4, csr := fld w 34 12, src := fld w 25 9, dst := fld w 16 9 }

/-- A slot of format S from its opcode, header and fields. -/
def asmS (opc : BitVec 8) (h : Hdr) (f : FS) : Slot96 :=
  f.imm ++ f.zero ++ f.sub ++ f.csr ++ f.src ++ f.dst ++ h.neg ++ h.guard ++ h.role ++ opc

/-- A slot whose opcode R107 leaves unassigned, or 0xFF in a slot that is not the empty slot (R108). -/
def unassigned (w : Slot96) : Instr := .unassignedOpcode (fld w 0 8) (fld w 8 88)

/-- Opcodes 0x00 to 0x0F (R106, R111). -/
def decodeCtl (w : Slot96) : Instr :=
  match (fld w 0 8).toNat with
  | 0x00 => .trapIll (hdrOf w) (fBOf w)
  | 0x01 => .bra (hdrOf w) (fBOf w)
  | 0x02 => .bru (hdrOf w) (fBOf w)
  | 0x03 => .brx (hdrOf w) (fBOf w)
  | 0x04 => .call (hdrOf w) (fBOf w)
  | 0x05 => .calli (hdrOf w) (fBOf w)
  | 0x06 => .ret (hdrOf w) (fBOf w)
  | 0x07 => .iexit (hdrOf w) (fBOf w)
  | 0x08 => .ijoin (hdrOf w) (fBOf w)
  | 0x09 => .fuse (hdrOf w) (fBOf w)
  | 0x0A => .iloop (hdrOf w) (fBOf w)
  | 0x0B => .yield (hdrOf w) (fBOf w)
  | 0x0C => (if fld w 71 9 = 511 then .fnHeader (hdrOf w) (fBOf w) else .nop (hdrOf w) (fBOf w))
  | 0x0D => .trap (hdrOf w) (fBOf w)
  | 0x0E => .brk (hdrOf w) (fBOf w)
  | 0x0F => (if fld w 80 16 = 1 then .wdogKick (hdrOf w) (fBOf w) else if fld w 80 16 = 2 then .wdogLim (hdrOf w) (fBOf w)
    else .wdogRd (hdrOf w) (fBOf w))
  | _ => unassigned w

/-- Opcodes 0x20 to 0x4D (R106, R139 to R148). -/
def decodeInt (w : Slot96) : Instr :=
  match (fld w 0 8).toNat with
  | 0x20 => .iadd (hdrOf w) (fAOf w)
  | 0x21 => .iadd3 (hdrOf w) (fAOf w)
  | 0x22 => .iadc (hdrOf w) (fAOf w)
  | 0x23 => .isub (hdrOf w) (fAOf w)
  | 0x24 => .imul (hdrOf w) (fAOf w)
  | 0x25 => .imulh (hdrOf w) (fAOf w)
  | 0x26 => .imad (hdrOf w) (fAOf w)
  | 0x27 => .imadw (hdrOf w) (fAOf w)
  | 0x28 => .idiv (hdrOf w) (fAOf w)
  | 0x29 => .irem (hdrOf w) (fAOf w)
  | 0x2A => .ineg (hdrOf w) (fAOf w)
  | 0x2B => .iabs (hdrOf w) (fAOf w)
  | 0x2C => .imin (hdrOf w) (fAOf w)
  | 0x2D => .imax (hdrOf w) (fAOf w)
  | 0x2E => .iand (hdrOf w) (fAOf w)
  | 0x2F => .ior (hdrOf w) (fAOf w)
  | 0x30 => .ixor (hdrOf w) (fAOf w)
  | 0x31 => .andn (hdrOf w) (fAOf w)
  | 0x32 => .inot (hdrOf w) (fAOf w)
  | 0x33 => .lgc3 (hdrOf w) (fAOf w)
  | 0x34 => .shl (hdrOf w) (fAOf w)
  | 0x35 => .shr (hdrOf w) (fAOf w)
  | 0x36 => .sar (hdrOf w) (fAOf w)
  | 0x37 => .rol (hdrOf w) (fAOf w)
  | 0x38 => .ror (hdrOf w) (fAOf w)
  | 0x39 => .bfe (hdrOf w) (fAOf w)
  | 0x3A => .bfi (hdrOf w) (fAOf w)
  | 0x3B => .brev (hdrOf w) (fAOf w)
  | 0x3C => .popc (hdrOf w) (fAOf w)
  | 0x3D => .clz (hdrOf w) (fAOf w)
  | 0x3E => .ctz (hdrOf w) (fAOf w)
  | 0x3F => .bytx (hdrOf w) (fAOf w)
  | 0x40 => .lea (hdrOf w) (fAOf w)
  | 0x41 => .icmp (hdrOf w) (fAOf w)
  | 0x42 => .sel (hdrOf w) (fAOf w)
  | 0x43 => (if fld w 56 4 = 1 then .por (hdrOf w) (fAOf w) else if fld w 56 4 = 2 then .pxor (hdrOf w) (fAOf w)
    else if fld w 56 4 = 3 then .pnot (hdrOf w) (fAOf w) else .pand (hdrOf w) (fAOf w))
  | 0x44 => .mov (hdrOf w) (fAOf w)
  | 0x45 => .movi (hdrOf w) (fAOf w)
  | 0x46 => .movs (hdrOf w) (fAOf w)
  | 0x47 => .lxch (hdrOf w) (fAOf w)
  | 0x48 => .bcast (hdrOf w) (fAOf w)
  | 0x49 => .vote (hdrOf w) (fAOf w)
  | 0x4A => .ballot (hdrOf w) (fAOf w)
  | 0x4B => .imatch (hdrOf w) (fAOf w)
  | 0x4C => .perm4 (hdrOf w) (fAOf w)
  | 0x4D => .icvt (hdrOf w) (fAOf w)
  | _ => unassigned w

/-- Opcodes 0x50 to 0x73 (R106, R150). -/
def decodeFlt (w : Slot96) : Instr :=
  match (fld w 0 8).toNat with
  | 0x50 => .fadd (hdrOf w) (fAOf w)
  | 0x51 => .fsub (hdrOf w) (fAOf w)
  | 0x52 => .fmul (hdrOf w) (fAOf w)
  | 0x53 => .ffma (hdrOf w) (fAOf w)
  | 0x54 => .fmin (hdrOf w) (fAOf w)
  | 0x55 => .fmax (hdrOf w) (fAOf w)
  | 0x56 => .fminn (hdrOf w) (fAOf w)
  | 0x57 => .fmaxn (hdrOf w) (fAOf w)
  | 0x58 => .fabs (hdrOf w) (fAOf w)
  | 0x59 => .fneg (hdrOf w) (fAOf w)
  | 0x5A => .fcmp (hdrOf w) (fAOf w)
  | 0x5B => .fdiv (hdrOf w) (fAOf w)
  | 0x5C => .fsqrt (hdrOf w) (fAOf w)
  | 0x5D => .frcp (hdrOf w) (fAOf w)
  | 0x5E => .frsq (hdrOf w) (fAOf w)
  | 0x5F => .fex2 (hdrOf w) (fAOf w)
  | 0x60 => .flg2 (hdrOf w) (fAOf w)
  | 0x61 => .fsin (hdrOf w) (fAOf w)
  | 0x62 => .fcos (hdrOf w) (fAOf w)
  | 0x63 => .ftanh (hdrOf w) (fAOf w)
  | 0x64 => .frnd (hdrOf w) (fAOf w)
  | 0x65 => .fscl (hdrOf w) (fAOf w)
  | 0x66 => .fcls (hdrOf w) (fAOf w)
  | 0x67 => .fcvt (hdrOf w) (fAOf w)
  | 0x68 => .f2i (hdrOf w) (fAOf w)
  | 0x69 => .i2f (hdrOf w) (fAOf w)
  | 0x6A => .pack (hdrOf w) (fAOf w)
  | 0x6B => .unpk (hdrOf w) (fAOf w)
  | 0x6C => .dot2 (hdrOf w) (fAOf w)
  | 0x6D => .hqt (hdrOf w) (fLOf w)
  | 0x6E => .qfp8 (hdrOf w) (fLOf w)
  | 0x6F => .qcb4 (hdrOf w) (fLOf w)
  | 0x70 => .dqcb4 (hdrOf w) (fLOf w)
  | 0x71 => .rope (hdrOf w) (fLOf w)
  | 0x72 => .red (hdrOf w) (fAOf w)
  | 0x73 => .scan (hdrOf w) (fAOf w)
  | _ => unassigned w

/-- Opcodes 0x78 to 0x89 (R106, R166). -/
def decodeMem (w : Slot96) : Instr :=
  match (fld w 0 8).toNat with
  | 0x78 => .ld (hdrOf w) (fMOf w)
  | 0x79 => .st (hdrOf w) (fMOf w)
  | 0x7A => .ldx (hdrOf w) (fMOf w)
  | 0x7B => .stx (hdrOf w) (fMOf w)
  | 0x7C => .lds (hdrOf w) (fMOf w)
  | 0x7D => .sts (hdrOf w) (fMOf w)
  | 0x7E => .ldk (hdrOf w) (fMOf w)
  | 0x7F => .pref (hdrOf w) (fMOf w)
  | 0x80 => .atom (hdrOf w) (fMOf w)
  | 0x81 => .ared (hdrOf w) (fMOf w)
  | 0x82 => .fence (hdrOf w) (fMOf w)
  | 0x83 => .cflush (hdrOf w) (fMOf w)
  | 0x84 => .cinv (hdrOf w) (fMOf w)
  | 0x85 => .wcnt (hdrOf w) (fMOf w)
  | 0x86 => .wtval (hdrOf w) (fMOf w)
  | 0x87 => .bar (hdrOf w) (fMOf w)
  | 0x88 => .snd (hdrOf w) (fMOf w)
  | 0x89 => .rcv (hdrOf w) (fMOf w)
  | _ => unassigned w

/-- Opcodes 0x98 to 0xA2 (R106, R199). -/
def decodeLay (w : Slot96) : Instr :=
  match (fld w 0 8).toNat with
  | 0x98 => .lyld (hdrOf w) (fLOf w)
  | 0x99 => .lyst (hdrOf w) (fLOf w)
  | 0x9A => .lyset (hdrOf w) (fLOf w)
  | 0x9B => .lyget (hdrOf w) (fLOf w)
  | 0x9C => (if fld w 56 1 = 1 then .lycolWr (hdrOf w) (fLOf w) else .lycolRd (hdrOf w) (fLOf w))
  | 0x9D => .lychk (hdrOf w) (fLOf w)
  | 0x9E => .lycp (hdrOf w) (fLOf w)
  | 0x9F => .lyh (hdrOf w) (fLOf w)
  | 0xA0 => .lyloc (hdrOf w) (fLOf w)
  | 0xA1 => .lyidx (hdrOf w) (fLOf w)
  | 0xA2 => .cbld (hdrOf w) (fLOf w)
  | _ => unassigned w

/-- Opcodes 0xA8 to 0xB2 (R106, R213). -/
def decodeMtx (w : Slot96) : Instr :=
  match (fld w 0 8).toNat with
  | 0xA8 => .mma (hdrOf w) (fXOf w)
  | 0xA9 => .mmag (hdrOf w) (fXOf w)
  | 0xAA => .mmld (hdrOf w) (fXOf w)
  | 0xAB => .mmst (hdrOf w) (fXOf w)
  | 0xAC => .mmz (hdrOf w) (fXOf w)
  | 0xAD => .mmdr (hdrOf w) (fXOf w)
  | 0xAE => .mmfl (hdrOf w) (fXOf w)
  | 0xAF => .mmia (hdrOf w) (fXOf w)
  | 0xB0 => .mmscl (hdrOf w) (fXOf w)
  | 0xB1 => .mmcb (hdrOf w) (fXOf w)
  | 0xB2 => .mmsl (hdrOf w) (fXOf w)
  | _ => unassigned w

/-- Opcodes 0xB8 to 0xBF (R106, R240). -/
def decodeTeam (w : Slot96) : Instr :=
  match (fld w 0 8).toNat with
  | 0xB8 => .hand (hdrOf w) (fHOf w)
  | 0xB9 => .tbra (hdrOf w) (fBOf w)
  | 0xBA => .tloop (hdrOf w) (fBOf w)
  | 0xBB => .tsync (hdrOf w) (fHOf w)
  | 0xBC => .qset (hdrOf w) (fHOf w)
  | 0xBD => .qget (hdrOf w) (fHOf w)
  | 0xBE => .drift (hdrOf w) (fHOf w)
  | 0xBF => .rdone (hdrOf w) (fHOf w)
  | _ => unassigned w

/-- Opcodes 0xD0 to 0xD8 (R106, R278). -/
def decodeSys (w : Slot96) : Instr :=
  match (fld w 0 8).toNat with
  | 0xD0 => .csrr (hdrOf w) (fSOf w)
  | 0xD1 => .csrw (hdrOf w) (fSOf w)
  | 0xD2 => .svc (hdrOf w) (fSOf w)
  | 0xD3 => .eret (hdrOf w) (fSOf w)
  | 0xD4 => (if fld w 46 4 = 1 then .tlbiPage (hdrOf w) (fSOf w) else .tlbiAll (hdrOf w) (fSOf w))
  | 0xD5 => .ctxsv (hdrOf w) (fSOf w)
  | 0xD6 => .ctxld (hdrOf w) (fSOf w)
  | 0xD7 => .halt (hdrOf w) (fSOf w)
  | 0xD8 => .hint (hdrOf w) (fSOf w)
  | _ => unassigned w

/-- The coprocessor form, opcodes 0xC8 to 0xCF: the group is `OPC[2:0]`, the command FN (R110). -/
def decodeEng (w : Slot96) : Instr :=
  match (fld w 0 3).toNat, (fld w 34 7).toNat with
  | 0, 0 => .cpy (hdrOf w) (fCOf w)
  | 0, 1 => .cpyx (hdrOf w) (fCOf w)
  | 0, 2 => .cpyr (hdrOf w) (fCOf w)
  | 1, 0 => .rly (hdrOf w) (fCOf w)
  | 1, 1 => .rlyw (hdrOf w) (fCOf w)
  | 1, 2 => .rlyp (hdrOf w) (fCOf w)
  | 2, 0 => .gath (hdrOf w) (fCOf w)
  | 3, 0 => .pgal (hdrOf w) (fCOf w)
  | 3, 1 => .pgfr (hdrOf w) (fCOf w)
  | 3, 2 => .pgsw (hdrOf w) (fCOf w)
  | 4, 0 => .mig (hdrOf w) (fCOf w)
  | 4, 1 => .tres (hdrOf w) (fCOf w)
  | 5, 0 => .tnode (hdrOf w) (fCOf w)
  | 5, 1 => .tedge (hdrOf w) (fCOf w)
  | 5, 2 => .tlaunch (hdrOf w) (fCOf w)
  | 5, 3 => .tcancel (hdrOf w) (fCOf w)
  | 6, 0 => .hnew (hdrOf w) (fCOf w)
  | 6, 1 => .hdel (hdrOf w) (fCOf w)
  | 6, 2 => .hchk (hdrOf w) (fCOf w)
  | _, _ => .cop (fld w 0 3) (hdrOf w) (fCOf w)

/-- Decode a slot (R96 step 1, R106 to R110): total, every slot has one reading. -/
def decode (w : Slot96) : Instr :=
  if w = BitVec.allOnes 96 then .emptySlot
  else
    let op := (fld w 0 8).toNat
    if op < 0x20 then decodeCtl w
    else if op < 0x50 then decodeInt w
    else if op < 0x78 then decodeFlt w
    else if op < 0x98 then decodeMem w
    else if op < 0xA8 then decodeLay w
    else if op < 0xB8 then decodeMtx w
    else if op < 0xC8 then decodeTeam w
    else if op < 0xD0 then decodeEng w
    else if op < 0xE0 then decodeSys w
    else unassigned w

/-- A little-endian value from bytes, the first at the lowest address (R5). -/
def leNat : List Byte → Nat
  | [] => 0
  | b :: bs => b.toNat + 256 * leNat bs

/-- The low `n` bytes of a value, the least significant first (R5). -/
def leBytes : Nat → Nat → List Byte
  | 0, _ => []
  | n + 1, v => BitVec.ofNat 8 v :: leBytes n (v / 256)

/-- Decode the first twelve bytes of a list, and give back the rest; none when fewer than twelve stand there. -/
def decodeBytes (bs : List Byte) : Option (Instr × List Byte) :=
  if 12 ≤ bs.length then some (decode (BitVec.ofNat 96 (leNat (bs.take 12))), bs.drop 12) else none

/-- The instruction the decoder reads from a slot whose low `nbits` bits are `w` and whose other bits are 0: the
slot is laid out in memory order and given to `decodeBytes`. -/
def decodeTableWord (nbits w : Nat) : Option Instr :=
  if 96 < nbits then none else (decodeBytes (leBytes 12 (w % 2 ^ nbits))).map Prod.fst

/-- The slot of an instruction, from the encoding tables of R97 to R110; none for an event, which has no slot. -/
def encode : Instr → Option Slot96
  | .trapIll h f => some (asmB 0x00 h f)
  | .bra h f => some (asmB 0x01 h f)
  | .bru h f => some (asmB 0x02 h f)
  | .brx h f => some (asmB 0x03 h f)
  | .call h f => some (asmB 0x04 h f)
  | .calli h f => some (asmB 0x05 h f)
  | .ret h f => some (asmB 0x06 h f)
  | .iexit h f => some (asmB 0x07 h f)
  | .ijoin h f => some (asmB 0x08 h f)
  | .fuse h f => some (asmB 0x09 h f)
  | .iloop h f => some (asmB 0x0A h f)
  | .yield h f => some (asmB 0x0B h f)
  | .nop h f => some (asmB 0x0C h f)
  | .fnHeader h f => some (asmB 0x0C h f)
  | .emptySlot => some (BitVec.allOnes 96)
  | .trap h f => some (asmB 0x0D h f)
  | .brk h f => some (asmB 0x0E h f)
  | .wdogRd h f => some (asmB 0x0F h f)
  | .wdogKick h f => some (asmB 0x0F h f)
  | .wdogLim h f => some (asmB 0x0F h f)
  | .iadd h f => some (asmA 0x20 h f)
  | .iadd3 h f => some (asmA 0x21 h f)
  | .iadc h f => some (asmA 0x22 h f)
  | .isub h f => some (asmA 0x23 h f)
  | .imul h f => some (asmA 0x24 h f)
  | .imulh h f => some (asmA 0x25 h f)
  | .imad h f => some (asmA 0x26 h f)
  | .imadw h f => some (asmA 0x27 h f)
  | .idiv h f => some (asmA 0x28 h f)
  | .irem h f => some (asmA 0x29 h f)
  | .ineg h f => some (asmA 0x2A h f)
  | .iabs h f => some (asmA 0x2B h f)
  | .imin h f => some (asmA 0x2C h f)
  | .imax h f => some (asmA 0x2D h f)
  | .iand h f => some (asmA 0x2E h f)
  | .ior h f => some (asmA 0x2F h f)
  | .ixor h f => some (asmA 0x30 h f)
  | .andn h f => some (asmA 0x31 h f)
  | .inot h f => some (asmA 0x32 h f)
  | .lgc3 h f => some (asmA 0x33 h f)
  | .shl h f => some (asmA 0x34 h f)
  | .shr h f => some (asmA 0x35 h f)
  | .sar h f => some (asmA 0x36 h f)
  | .rol h f => some (asmA 0x37 h f)
  | .ror h f => some (asmA 0x38 h f)
  | .bfe h f => some (asmA 0x39 h f)
  | .bfi h f => some (asmA 0x3A h f)
  | .brev h f => some (asmA 0x3B h f)
  | .popc h f => some (asmA 0x3C h f)
  | .clz h f => some (asmA 0x3D h f)
  | .ctz h f => some (asmA 0x3E h f)
  | .bytx h f => some (asmA 0x3F h f)
  | .lea h f => some (asmA 0x40 h f)
  | .icmp h f => some (asmA 0x41 h f)
  | .sel h f => some (asmA 0x42 h f)
  | .pand h f => some (asmA 0x43 h f)
  | .por h f => some (asmA 0x43 h f)
  | .pxor h f => some (asmA 0x43 h f)
  | .pnot h f => some (asmA 0x43 h f)
  | .mov h f => some (asmA 0x44 h f)
  | .movi h f => some (asmA 0x45 h f)
  | .movs h f => some (asmA 0x46 h f)
  | .lxch h f => some (asmA 0x47 h f)
  | .bcast h f => some (asmA 0x48 h f)
  | .vote h f => some (asmA 0x49 h f)
  | .ballot h f => some (asmA 0x4A h f)
  | .imatch h f => some (asmA 0x4B h f)
  | .perm4 h f => some (asmA 0x4C h f)
  | .icvt h f => some (asmA 0x4D h f)
  | .fadd h f => some (asmA 0x50 h f)
  | .fsub h f => some (asmA 0x51 h f)
  | .fmul h f => some (asmA 0x52 h f)
  | .ffma h f => some (asmA 0x53 h f)
  | .fmin h f => some (asmA 0x54 h f)
  | .fmax h f => some (asmA 0x55 h f)
  | .fminn h f => some (asmA 0x56 h f)
  | .fmaxn h f => some (asmA 0x57 h f)
  | .fabs h f => some (asmA 0x58 h f)
  | .fneg h f => some (asmA 0x59 h f)
  | .fcmp h f => some (asmA 0x5A h f)
  | .fdiv h f => some (asmA 0x5B h f)
  | .fsqrt h f => some (asmA 0x5C h f)
  | .frcp h f => some (asmA 0x5D h f)
  | .frsq h f => some (asmA 0x5E h f)
  | .fex2 h f => some (asmA 0x5F h f)
  | .flg2 h f => some (asmA 0x60 h f)
  | .fsin h f => some (asmA 0x61 h f)
  | .fcos h f => some (asmA 0x62 h f)
  | .ftanh h f => some (asmA 0x63 h f)
  | .frnd h f => some (asmA 0x64 h f)
  | .fscl h f => some (asmA 0x65 h f)
  | .fcls h f => some (asmA 0x66 h f)
  | .fcvt h f => some (asmA 0x67 h f)
  | .f2i h f => some (asmA 0x68 h f)
  | .i2f h f => some (asmA 0x69 h f)
  | .pack h f => some (asmA 0x6A h f)
  | .unpk h f => some (asmA 0x6B h f)
  | .dot2 h f => some (asmA 0x6C h f)
  | .hqt h f => some (asmL 0x6D h f)
  | .qfp8 h f => some (asmL 0x6E h f)
  | .qcb4 h f => some (asmL 0x6F h f)
  | .dqcb4 h f => some (asmL 0x70 h f)
  | .rope h f => some (asmL 0x71 h f)
  | .red h f => some (asmA 0x72 h f)
  | .scan h f => some (asmA 0x73 h f)
  | .ld h f => some (asmM 0x78 h f)
  | .st h f => some (asmM 0x79 h f)
  | .ldx h f => some (asmM 0x7A h f)
  | .stx h f => some (asmM 0x7B h f)
  | .lds h f => some (asmM 0x7C h f)
  | .sts h f => some (asmM 0x7D h f)
  | .ldk h f => some (asmM 0x7E h f)
  | .pref h f => some (asmM 0x7F h f)
  | .atom h f => some (asmM 0x80 h f)
  | .ared h f => some (asmM 0x81 h f)
  | .fence h f => some (asmM 0x82 h f)
  | .cflush h f => some (asmM 0x83 h f)
  | .cinv h f => some (asmM 0x84 h f)
  | .wcnt h f => some (asmM 0x85 h f)
  | .wtval h f => some (asmM 0x86 h f)
  | .bar h f => some (asmM 0x87 h f)
  | .snd h f => some (asmM 0x88 h f)
  | .rcv h f => some (asmM 0x89 h f)
  | .lyld h f => some (asmL 0x98 h f)
  | .lyst h f => some (asmL 0x99 h f)
  | .lyset h f => some (asmL 0x9A h f)
  | .lyget h f => some (asmL 0x9B h f)
  | .lycolRd h f => some (asmL 0x9C h f)
  | .lycolWr h f => some (asmL 0x9C h f)
  | .lychk h f => some (asmL 0x9D h f)
  | .lycp h f => some (asmL 0x9E h f)
  | .lyh h f => some (asmL 0x9F h f)
  | .lyloc h f => some (asmL 0xA0 h f)
  | .lyidx h f => some (asmL 0xA1 h f)
  | .cbld h f => some (asmL 0xA2 h f)
  | .mma h f => some (asmX 0xA8 h f)
  | .mmag h f => some (asmX 0xA9 h f)
  | .mmld h f => some (asmX 0xAA h f)
  | .mmst h f => some (asmX 0xAB h f)
  | .mmz h f => some (asmX 0xAC h f)
  | .mmdr h f => some (asmX 0xAD h f)
  | .mmfl h f => some (asmX 0xAE h f)
  | .mmia h f => some (asmX 0xAF h f)
  | .mmscl h f => some (asmX 0xB0 h f)
  | .mmcb h f => some (asmX 0xB1 h f)
  | .mmsl h f => some (asmX 0xB2 h f)
  | .hand h f => some (asmH 0xB8 h f)
  | .tbra h f => some (asmB 0xB9 h f)
  | .tloop h f => some (asmB 0xBA h f)
  | .tsync h f => some (asmH 0xBB h f)
  | .qset h f => some (asmH 0xBC h f)
  | .qget h f => some (asmH 0xBD h f)
  | .drift h f => some (asmH 0xBE h f)
  | .rdone h f => some (asmH 0xBF h f)
  | .cpy h f => some (asmC 0xC8 h f)
  | .cpyx h f => some (asmC 0xC8 h f)
  | .cpyr h f => some (asmC 0xC8 h f)
  | .rly h f => some (asmC 0xC9 h f)
  | .rlyw h f => some (asmC 0xC9 h f)
  | .rlyp h f => some (asmC 0xC9 h f)
  | .gath h f => some (asmC 0xCA h f)
  | .pgal h f => some (asmC 0xCB h f)
  | .pgfr h f => some (asmC 0xCB h f)
  | .pgsw h f => some (asmC 0xCB h f)
  | .mig h f => some (asmC 0xCC h f)
  | .tres h f => some (asmC 0xCC h f)
  | .tnode h f => some (asmC 0xCD h f)
  | .tedge h f => some (asmC 0xCD h f)
  | .tlaunch h f => some (asmC 0xCD h f)
  | .tcancel h f => some (asmC 0xCD h f)
  | .hnew h f => some (asmC 0xCE h f)
  | .hdel h f => some (asmC 0xCE h f)
  | .hchk h f => some (asmC 0xCE h f)
  | .csrr h f => some (asmS 0xD0 h f)
  | .csrw h f => some (asmS 0xD1 h f)
  | .svc h f => some (asmS 0xD2 h f)
  | .eret h f => some (asmS 0xD3 h f)
  | .tlbiAll h f => some (asmS 0xD4 h f)
  | .tlbiPage h f => some (asmS 0xD4 h f)
  | .ctxsv h f => some (asmS 0xD5 h f)
  | .ctxld h f => some (asmS 0xD6 h f)
  | .halt h f => some (asmS 0xD7 h f)
  | .hint h f => some (asmS 0xD8 h f)
  | .lineRefetch .. => none
  | .slotPromotion .. => none
  | .joinTimeout .. => none
  | .watchdog .. => none
  | .wtvalTimeout .. => none
  | .loadReturn .. => none
  | .storeRetire .. => none
  | .readPerform .. => none
  | .atomicPerform .. => none
  | .writeDrain .. => none
  | .writePush .. => none
  | .writeSend .. => none
  | .writeGrant .. => none
  | .writeFill .. => none
  | .messageAppend .. => none
  | .ringStageWrite .. => none
  | .matrixStart .. => none
  | .matrixComplete .. => none
  | .matrixWatchdog .. => none
  | .engineWriteLand .. => none
  | .engineCompletion .. => none
  | .relayoutGroupCommit .. => none
  | .pageWalk .. => none
  | .pageMove .. => none
  | .storageError .. => none
  | .launchEntryTake .. => none
  | .nodeLaunch .. => none
  | .nodeFinish .. => none
  | .chunkDeal .. => none
  | .workgroupPlace .. => none
  | .resourceRelease .. => none
  | .workgroupMigration .. => none
  | .senderAck .. => none
  | .forwardRetire .. => none
  | .saveComplete .. => none
  | .matrixSaveLimit .. => none
  | .diefence .. => none
  | .dieLinkRateStep .. => none
  | .dieLinkRetrain .. => none
  | .readShared .. => none
  | .readExclusive .. => none
  | .upgrade .. => none
  | .writeBack .. => none
  | .cleanEviction .. => none
  | .atomic .. => none
  | .forward .. => none
  | .invalidate .. => none
  | .recallReq .. => none
  | .data .. => none
  | .acknowledgement .. => none
  | .grant .. => none
  | .uncachedGrant .. => none
  | .barrierIncrement .. => none
  | .barrierCompletion .. => none
  | .linkControl .. => none
  | .ackTimeout .. => none
  | .linkRetrain .. => none
  | .linkRateStep .. => none
  | .lineRecall .. => none
  | .recallWindowExpiry .. => none
  | .wavelengthLoss .. => none
  | .wavelengthRestore .. => none
  | .laserloss .. => none
  | .planedown .. => none
  | .hostMemAccess .. => none
  | .lqtail .. => none
  | .featacc .. => none
  | .hostRegisterWrite .. => none
  | .create .. => none
  | .destroy .. => none
  | .preempt .. => none
  | .resume .. => none
  | .setpool .. => none
  | .setreserve .. => none
  | .setremap .. => none
  | .partnew .. => none
  | .partfree .. => none
  | .readstart .. => none
  | .readalm .. => none
  | .resetctx .. => none
  | .getVersion .. => none
  | .getCapabilities .. => none
  | .negotiateAlgorithms .. => none
  | .getDigests .. => none
  | .getCertificate .. => none
  | .challenge .. => none
  | .getMeasurements .. => none
  | .i3cStartRecordRead .. => none
  | .powerOn .. => none
  | .powerCap .. => none
  | .thermalTrip .. => none
  | .almanacWrite .. => none
  | .powerDown .. => none
  | .unassignedOpcode opc rest => some (rest ++ opc)
  | .cop g h f => some (asmC (0b11001#5 ++ g) h f)
  | .malformedCommand .. => none
  | .declareUnhandled .. => none
  | .flitCrcFailure .. => none
  | .powerLoss .. => none
  | .planeReadmission .. => none
  | .voltageDroop .. => none
  | .powerGating .. => none

end Sys2Proof
end

