-- ==== Sys2Proof/Config.lean ====
section
/-!
DEFINITION. Config.lean: what one ZBX-9C fixes (R27, R191, R311, R333) and the FREE VALUES of the spec: results it leaves open,
each an opaque constant without a body, so that nothing can be proved of the value it takes. Those that change from
use to use are applied to a number the step draws from `State.uid`.
-/
namespace Sys2Proof.Config

/-- Register blocks of a core (R27). -/
def regBlocks : Nat := 512
/-- Scratchpad of a core in KiB (R27). -/
def scratchKiB : Nat := 384
/-- The matrix watchdog in core cycles (R333). -/
def matrixWatchdog : Nat := 65536
/-- Entries of a receive queue (R191). -/
def queueDepth : Nat := 32
/-- Entries of the released-frame queue (R311). -/
def relqEntries : Nat := 4096

/-- FREE: the result of an approximate function (R156, R157) where the spec bounds it but does not state it: the
function's opcode, the format code, the operand's code. -/
opaque approx : Nat → Nat → BitVec 32 → BitVec 32
/-- FREE: the bytes an SPDM answer carries where R395 does not state them: the request code, the request, the
position of the byte. -/
opaque spdmByte : Nat → List Byte → Nat → Byte
/-- FREE: how many bytes such an SPDM answer has. -/
opaque spdmLength : Nat → List Byte → Nat
/-- FREE: the device's identity key (R394, R395). -/
opaque identityKey : BitVec 256
/-- FREE: the number that ECDSA draws for the signature of these bytes. -/
opaque signDraw : List Byte → BitVec 256
/-- FREE: the bytes of an almanac snapshot, whose content R404 names and whose layout it does not state: the counts, the position of
the byte. -/
opaque almanacByte : List Nat → Nat → Byte
/-- FREE: how many bytes a snapshot of these counts has. -/
opaque almanacLength : List Nat → Nat
/-- FREE: which of the values a position may take, where the spec lists a set and chooses none (R10, R299). -/
opaque choice : Nat → Bool
/-- FREE: an unstated 64-bit value (R10), by draw. -/
opaque freeWord : Nat → BitVec 64

/-- FREE: the set of a switch's directory that a line falls into (R368: fixed by its address). -/
opaque dirSet : Nat → Nat

/-- FREE: the digest of firmware image j (R394). -/
opaque fwDigest : Nat → BitVec 256

end Sys2Proof.Config
end

