-- ==== Sys2Proof/Machine/State.lean ====
section
/-!
DEFINITION. State.lean: the state of one ZBX-9C package as plain data, and the state right after reset.
Registers and tables are sparse maps from numbers in one canonical form; memory is a list of cells in the same form.
The member whose slot a step executes stands in `State.m`, its workgroup in `State.wg`, every other workgroup in
`State.wgs`; the step moves the focus (Step.lean). `State.sched` is free data: which of the steps the spec allows is
taken next.
-/
namespace Sys2Proof.Machine

/-- A sparse map: keys strictly rising, no entry equal to the map's default. -/
abbrev SMap (V : Type) := List (Nat × V)

/-- Memory: cells at strictly rising addresses, none of them zero (an unlisted byte reads as 0, log 2). -/
abbrev Memory := List Host.Cell

/-- A code pointer without its zero fields: fetch line and slot (R86). -/
structure Pc where
  line : BitVec 54 := 0
  slot : BitVec 3 := 0
deriving DecidableEq, Repr

/-- A path: program counter, lane mask, and the entry number of the record it heads for (R113). -/
structure Path where
  pc : Pc := {}
  mask : Mask := 0
  jrec : Option Nat := none
deriving DecidableEq, Repr

/-- The timer of a join record (R119): not started, running with its cycles left (0: the timeout is due), or past its timeout. -/
inductive Timer where
  | idle
  | run (left : Nat)
  | spent
deriving DecidableEq, Repr

/-- An entry of the parenthesis-stack area that is not free (R113): a path with its push order, or a record: a
return record (`ret`) or a join record, its outer record, join timer and parked lanes. -/
inductive Entry where
  | path (seq : Nat) (p : Path)
  | record (ret : Bool) (outer : Option Nat) (timer : Timer) (pmask : Mask) (pc : Pc)
deriving DecidableEq, Repr

/-- Why a path is parked outside the join records: at a `fuse` (R120) or at a barrier wait (R121). -/
inductive ParkKind where
  | fuse
  | bar (scope num phase : Nat)
deriving DecidableEq, Repr

/-- A path parked at a `fuse` or a barrier, at the slot of that instruction. -/
structure Parked where
  kind : ParkKind
  path : Path
deriving DecidableEq, Repr

/-- The registers of a member (R11, R18, R19) and its poison marks (R171). `v` is keyed by 32 times the register plus
the lane, `s` by the register, `p` holds one lane mask per predicate. -/
structure RegFile where
  v : SMap W32 := []
  s : SMap W64 := []
  p : SMap Mask := []
  istat : W64 := 0
  fstat : W64 := 0
  vmark : List Nat := []
  smark : List Nat := []
deriving DecidableEq, Repr

/-- Where bytes stand once an address is resolved (R168): a global byte by its pod physical address, a byte of a
core's scratchpad, or a register word of a warp (R39), keyed as in `RegFile.v`. -/
inductive Place where
  | glob
  | sp (core : Nat)
  | reg (wu mem : Nat)
deriving DecidableEq, Repr

/-- A resolved location: place, bit address in it, width in bits. -/
structure Loc where
  place : Place
  bit : Nat
  bits : Nat
deriving DecidableEq, Repr

/-- Where a value of one element stands: its parts, each with its byte offset in the value. -/
abbrev Slice := List (Nat × Loc)

/-- Which layout a relayout works on: a layout register of a workgroup, or a handle-table entry (R263). -/
inductive LyRef where
  | reg (wu l : Nat)
  | handle (ctx slot : Nat)
deriving DecidableEq, Repr

/-- One indivisible piece of a read (R169: within an aligned 8-byte chunk): the lane, the bit offset of the piece in
the lane's value, where it is read, the layout it was addressed through as an element (R52), the value once the read is
performed (R291), and whether a piece of an acquire was read as a relaxed read (R295). -/
structure Piece where
  lane : Nat
  off : Nat
  loc : Loc
  elem : Option LyRef := none
  val : Option Nat := none
  psn : Bool := false
  rlx : Bool := false
deriving DecidableEq, Repr

/-- Where the data of a returning operation goes: specifier, access size in bytes, sign extension, lanes. -/
structure Dest where
  spec : Spec
  size : Nat
  signed : Bool := false
  mask : Mask := 1
deriving DecidableEq, Repr

/-- One lane of an atomic (R176): operands, place, and the old value once performed. -/
structure AtomLane where
  lane : Nat
  loc : Loc
  a : W64
  b : W64
  old : Option W64 := none
deriving DecidableEq, Repr

/-- What an outstanding operation still has to do (R182). -/
inductive OutKind where
  | load (pieces : List Piece) (dest : Dest) (fill : List (Nat × W64))
  | value (v : W64) (dest : Dest)
  | store
  | atom (op size : Nat) (lanes : List AtomLane) (dest : Option Dest)
  | flush (lines : List Nat) (inv : Bool)
  | message (msg : Nat)
  | engine (eid : Nat)
  | tile (mid : Nat)
deriving DecidableEq, Repr

/-- An outstanding operation of a member (R16): number in program order, class (0 ld, 1 st, 2 cpy, 3 tile), scope,
the acquire and release it carries, and a report it will retire with (R184). -/
structure OutOp where
  id : Nat
  cls : Nat
  kind : OutKind
  scope : Nat := 1
  acq : Bool := false
  rel : Bool := false
  done : Bool := false
  report : Option Nat := none
deriving DecidableEq, Repr

/-- A running `wtval` (R185): its slot, the cycles left (none: no timeout), the last value read. -/
structure WtSt where
  slotB : Bool
  left : Option Nat
  last : W64
deriving DecidableEq, Repr

/-- What a participant knows of a barrier (R187): scope, number, the phase it arrived in and has not waited for. -/
structure BarPart where
  scope : Nat
  num : Nat
  phase : Nat
deriving DecidableEq, Repr

/-- A member: a warp or a scalar member of a team (R17, R22, R113, R277, R233, R237, R328). `kind` is 0 VECTOR,
1 ACCESS, 2 MATRIX, 3 COPY (R230). `curB` says which slot the step executes. `sending` holds the send parts under way, each by the
lowest lane of its path, its ring and its instance (R241); `tsWait` the arrivals at a `tsync`; `moving` says that the member
has left its entry of the team stream for the next. `made` lists the entries that took a return record, the last first (R120); `yielded`
the slots that executed `yield` at the member's last pick (R129), `issued` those that issued in this cycle (R329). `syncOp` is the
operation whose writes must be complete before the member's next instruction issues (R160, R196); `early` holds the chunks that a
synchronous read of slot `earlyB` has performed (R196), and `probe` the one it is about to perform. -/
structure Member where
  id : Nat := 0
  kind : Nat := 0
  role : Nat := 0
  r : RegFile := {}
  a : Option Path := none
  b : Option Path := none
  curB : Bool := false
  pool : SMap Entry := []
  parked : List Parked := []
  exited : Mask := 0
  outs : List OutOp := []
  reports : List Nat := []
  wdBudget : Nat := 0
  wdCount : Nat := 0
  level : Nat := 0
  epc : W64 := 0
  ecause : W64 := 0
  escr : W64 := 0
  wt : List WtSt := []
  bars : List BarPart := []
  pos : Nat := 0
  priv : Bool := false
  syncOp : Option Nat := none
  probe : Option Nat := none
  early : SMap (List Byte) := []
  earlyB : Bool := false
  sent : SMap Nat := []
  ri : SMap Nat := []
  sending : List (Nat × Nat × Nat) := []
  tsWait : List (Nat × Nat) := []
  moving : Bool := false
  home : Option Nat := none
  lastIssue : Nat := 0
  run : Nat := 0
  yielded : List Bool := []
  issued : List Bool := []
  made : List Nat := []
  waitA : Nat := 0
  waitB : Nat := 0
  mxreset : Bool := false
deriving DecidableEq, Repr

/-- One entry of the team line buffer (R233): its number in the stream, its line, the slot at which the stream entered it, and the recorded outcomes of the
team-common instructions in it (R236), by slot: the transfer's target, or none for fall-through. -/
structure TeamEntry where
  idx : Nat
  line : BitVec 54
  start : Nat := 0
  outcome : List (Nat × Option Pc) := []
deriving DecidableEq, Repr

/-- One stage of a conjunction ring (R237). -/
structure Stage where
  desc : W64 := 0
  marker : Bool := false
  phase : Bool := false
deriving DecidableEq, Repr

/-- An arrival in a send instance that is not yet written (R237). -/
structure Arrival where
  inst : Nat
  mem : Nat
  op : Nat
  payload : W64
  marker : Bool
deriving DecidableEq, Repr

/-- A conjunction ring (R237): roles, send and receive counts, stages, arrivals. -/
structure Ring where
  srole : Nat := 0
  rrole : Nat := 0
  sc : Nat := 0
  rc : Nat := 0
  stages : List Stage := []
  arrivals : List Arrival := []
deriving DecidableEq, Repr

/-- Team state (R29, R233 to R239). -/
structure Team where
  q : SMap W64 := []
  qwr : SMap Nat := []
  rings : List Ring := []
  drift : Nat := 1
  driftMax : Nat := 1
  entries : List TeamEntry := []
  roles : List (Nat × Nat) := []
  tsync : List Nat := []
  tsPhase : Nat := 0
deriving DecidableEq, Repr

/-- A barrier (R186): the phase in progress, its arrivals and the counts they gave, the count of the phase's first arrival, and the phases broken by
a die fence (R188). Arrivals name the participant: a member at `.core`, a workgroup wider. -/
structure Barrier where
  phase : Nat := 0
  arrived : List Nat := []
  counts : List Nat := []
  expect : Nat := 0
  broken : List Nat := []
deriving DecidableEq, Repr

/-- A matrix instruction in the engine's queue (R211, R214): the slot, the issuing member, what was read at issue (layout
images, codebooks, the tile kind), the locations of its operands and results (none: beyond an extent, R218), and its progress:
the elements already written, and the tile as it stood at the start. -/
structure MxOp where
  id : Nat
  mem : Nat
  instr : Instr
  la : BitVec 2048 := 0
  lb : BitVec 2048 := 0
  ld : BitVec 2048 := 0
  cba : BitVec 256 := 0
  cbb : BitVec 256 := 0
  kind : Nat := 0
  src1 : List Slice := []
  src2 : List Slice := []
  sc1 : List Slice := []
  sc2 : List Slice := []
  dst : List Slice := []
  setslot : Option Nat := none
  started : Bool := false
  cycles : Nat := 0
  elems : List Nat := []
  snap : List W32 := []
  rdRegs : List Nat := []
  wrRegs : List Nat := []
  psn : Bool := false
deriving DecidableEq, Repr

/-- The matrix engine as a workgroup owns it (R15, R211). `acc` is keyed by 256 times the tile plus 16 i + j. -/
structure Matrix where
  acc : SMap W32 := []
  kinds : SMap Nat := []
  psn : List Nat := []
  slots : SMap Nat := []
  queue : List MxOp := []
deriving DecidableEq, Repr

/-- A launch as its descriptor gives it (R315), with the context, device and tag of the launch. -/
structure Launch where
  code : BitVec 54 := 0
  const : Nat := 0
  clen : Nat := 0
  team : Nat := 0
  gx : Nat := 1
  gy : Nat := 1
  gz : Nat := 1
  itrap : Nat := 0
  policy : Nat := 0
  rst : Bool := false
  mtx : Bool := false
  clus : Nat := 1
  scr : Nat := 0
  stack : Nat := 0
  budget : Nat := 1
  warps : Nat := 1
  wdog : Nat := 0
  args : List Byte := []
  teamRec : List Byte := []
  dev : Nat := 0
deriving DecidableEq, Repr

/-- Why a workgroup is stopped (R343, R346). -/
inductive Stop where
  | running
  | fault (replayable : Bool)
  | brk
  | halt
  | preempt
  | ended
deriving DecidableEq, Repr

/-- A message in a receive queue: its payload and whether it was sent with `.rel` (R190). -/
structure QEntry where
  val : W64
  rel : Bool := false
deriving DecidableEq, Repr

/-- The registers that the members of a workgroup share, as they stood at the start of a cycle (R24, R209, R239): layout and codebook
registers, send registers, team registers. -/
structure Shared where
  lregs : SMap (BitVec 2048) := []
  cbs : SMap (BitVec 256) := []
  sq : SMap W64 := []
  q : SMap W64 := []
deriving DecidableEq, Repr

/-- A workgroup (R13, R26, R28, R342). `core` is the core of the package it runs on (256 die + 4 quad + core),
`lcore` its `%core`. `prev` holds the shared registers as they stood before the cycle in which a member issued; `stopping` says that
a fault stopped it in this cycle, in which the other slots still issue (R342). `area` is the digest of the save area written for it,
while it is away (R282). -/
structure Workgroup where
  wu : Nat := 0
  wgid : Nat := 0
  ctx : Nat := 0
  node : NRef := ⟨0, 0, 0⟩
  nodeId : Nat := 0
  launch : Launch := {}
  core : Nat := 0
  lcore : Nat := 0
  spBase : Nat := 0
  x : Nat := 0
  y : Nat := 0
  z : Nat := 0
  crank : Nat := 0
  group : List Nat := []
  members : List Member := []
  lregs : SMap (BitVec 2048) := []
  cbs : SMap (BitVec 256) := []
  sq : SMap W64 := []
  iq : SMap (List QEntry) := []
  iqHeld : List (Nat × QEntry) := []
  team : Option Team := none
  bars : SMap Barrier := []
  mx : Matrix := {}
  stop : Stop := .running
  stress : Nat := 0
  stopCyc : Nat := 0
  prev : Option Shared := none
  stopping : Bool := false
  area : Option Nat := none
deriving DecidableEq, Repr

/-- Where a pending write stands in the orrery (R286, R288): held back by R292, in OB, last in QV, in PM, in GI. -/
inductive WStage where
  | held | ob | qv | pm | gi
deriving DecidableEq, Repr

/-- A write on its way (R286): at most eight bytes of one aligned chunk (R169), its member and number in program order,
its scope and whether it is a release. `bytes` are the values, from address `addr` of `place`, that it carries;
`half` says that it is one half of its byte only (a 4-bit element; true: the upper). `seen` names the quads beside its own whose view
holds byte k of it or a later write to that byte, as 8 times the quad plus k (R289). -/
structure PWrite where
  id : Nat
  quad : Nat
  owner : MRef
  op : Nat
  place : Place
  addr : Nat
  bytes : List Byte
  scope : Nat
  rel : Bool := false
  half : Option Bool := none
  seen : List Nat := []
  stage : WStage
deriving DecidableEq, Repr

/-- A message on its way to a receive queue (R189), and whether it goes by way of a forwarding entry (R326). -/
structure Msg where
  id : Nat
  owner : MRef
  op : Nat
  toWu : Nat
  queue : Nat
  entry : QEntry
  scope : Nat := 1
  via : Bool := false
deriving DecidableEq, Repr

/-- A translation held by a TLB (R310): quad, context, page number (VA[59:16]), its leaf entry, whether the leaf is a 512 MiB one, and
the core whose micro-TLB holds it (none: the quad's TLB). -/
structure TlbEntry where
  quad : Nat
  ctx : Nat
  page : Nat
  leaf : W64
  large : Bool
  core : Option Nat := none
deriving DecidableEq, Repr

/-- A page move of a migration engine (R268, R311): where the leaf entry stands, the frames, the target tier,
the `mig` command it belongs to, if any, and whether the page is a 512 MiB one. -/
structure PageMove where
  id : Nat
  ctx : Nat
  va : Nat
  leafAddr : Nat
  oldFrame : Nat
  newFrame : Nat
  far : Bool
  mot : Bool
  op : Option Nat
  large : Bool := false
deriving DecidableEq, Repr

/-- The memory system: the copies of R286 (QV by quad, PM, GM, SP by core), the writes and messages on their way, poison
marks by 128-byte line (R314), TLBs, page moves, the fetch lines held in instruction caches (R301), keyed by
core times 2^51 plus the line's physical number, and the release writes made, by place, address and bytes (R295). -/
structure MemSys where
  qv : SMap Memory := []
  pm : Memory := []
  gm : Memory := []
  sp : SMap Memory := []
  writes : List PWrite := []
  msgs : List Msg := []
  psn : List Nat := []
  spPsn : List (Nat × Nat) := []
  cover : List (Nat × Nat) := []
  spCover : List (Nat × Nat) := []
  tlb : List TlbEntry := []
  moves : List PageMove := []
  icache : SMap (List Byte) := []
  rels : List (Place × Nat × List Byte) := []
deriving DecidableEq, Repr

/-- How a move of an engine computes what it writes from what it reads (R257, R258); `swap` is indivisible (R261). -/
inductive Xfer where
  | copy
  | swap
  | const (v : Nat)
  | rotate (ty rnd : Nat)
deriving DecidableEq, Repr

/-- One move of an engine command: the values it reads and writes, the layouts they are addressed through as elements (R52), and how
many events of its command may still wait when it is performed (R313), what its sources gave where they have been read (R297), and the
row of the box it belongs to (R347). -/
structure EMove where
  srcs : List Slice
  dsts : List Slice
  xf : Xfer := .copy
  selem : List LyRef := []
  delem : Option LyRef := none
  room : Option Nat := none
  got : SMap Nat := []
  row : Nat := 0
deriving DecidableEq, Repr

/-- A relayout in progress (R49 to R54): the layout and the target, the image as it stood at the start and the target's, the plan,
the pass being run, the pass it stops after (0: none), where each location of the footprint stands, the exchange groups of the
pass not yet committed, the warp of a layout without a WARP field, the address of a handle's entry, and whether it is suspended. -/
structure RlySt where
  x : LyRef
  target : LyRef
  img : Nat
  timg : Nat := 0
  plan : List (Nat × List Nat)
  pass : Nat
  stopAfter : Nat
  locs : List Slice
  left : List Nat
  warp : Nat := 0
  entry : Nat := 0
  nohole : Bool := false
  suspended : Bool := false
deriving DecidableEq, Repr

/-- What an engine command does beside moving bytes that are known at issue: pool commands (R266, R267), `mig` with the pages left
(R268: address, leaf, size and leaf address as the probe found them; the device of the issuer), `tcancel` (R273). -/
inductive EngWork where
  | none
  | alloc (pool : Nat) (seqs : List (Nat × List Slice)) (k : Nat)
  | free (pool : Nat) (pages : List Nat)
  | migrate (pages : List (Nat × Nat × Bool × Nat)) (far mot : Bool) (dev : Nat)
  | cancel (tag : Nat)
deriving DecidableEq, Repr

/-- An engine command in flight (R252, R297): issuer, context, die, engine (0 copy, 1 relayout, 2 gather, 3 migration, 4 scheduler);
the target node when CTGT is 1, or the copy node it is the work of; what it has still to do; the bits of E not yet landed; the reply
register and value; the report it retires with; the events it holds (R260); the record of its fault (R253); the engines it occupies a
place of (R330); the rows of its box that have landed in part (R347); and its slot and descriptor as it was issued (R350). -/
structure EngOp where
  id : Nat
  owner : MRef
  ctx : Nat
  die : Nat
  fn : Nat
  node : Option (NRef × Nat) := .none
  forNode : Option (NRef × Nat) := .none
  moves : List EMove := []
  work : EngWork := .none
  rly : Option RlySt := .none
  events : List (Nat × QEntry) := []
  expect : Nat := 0
  begun : Bool := false
  reply : Option Dest := .none
  value : Nat := 0
  report : Option Nat := .none
  flt : List Nat := []
  units : List Nat := []
  halfRows : List Nat := []
  slot : Nat := 0
  image : List Byte := []
deriving DecidableEq, Repr

/-- The state of a task-graph node (R320). -/
inductive NodeSt where
  | held | armed | launched
deriving DecidableEq, Repr

/-- A task-graph node (R270 to R272, R320), with the progress of a launched kernel (R322): the cluster groups not yet
dealt (from `nextGroup` on, and those to deal again after a fence), those dealt to a die and not yet placed, the workgroups that have
ended, and its place in the order of launches. `gone` marks a launched kernel whose node was withdrawn with its die (R320): its workgroups
run on (R327). A group to deal is 16 times its number plus a mask of the ranks that need not start
again. -/
structure Node where
  ref : NRef
  gen : Nat
  st : NodeSt
  tag : Nat := 0
  pred : Nat := 0
  bytes : Nat := 0
  kind : Nat := 0
  desc : Nat := 0
  succs : List (NRef × Nat) := []
  launch : Launch := {}
  queue : Option Nat := none
  evt : Bool := false
  nextGroup : Nat := 0
  redo : List Nat := []
  dealt : List (Nat × Nat) := []
  ended : Nat := 0
  seq : Nat := 0
  owner : MRef := ⟨0, 0⟩
  engMoves : List EMove := []
  expect : Nat := 0
  flt : List Nat := []
  coResident : Bool := false
  gone : Bool := false
deriving DecidableEq, Repr

/-- A host launch queue's registers (R387) and how the entry taken before stands (R319). -/
structure LQueue where
  base : W64 := 0
  size : W64 := 0
  head : W64 := 0
  tail : W64 := 0
  prev : Option NRef := none
  prevGen : Nat := 0
  withdrawn : List Nat := []
deriving DecidableEq, Repr

/-- A host-visible ring: base, size, head, tail, vector (R387, R391); `baseSet`: its base has been written (R340 asks whether
base and size are set; a size of 0 is a size not yet set). -/
structure HostRing where
  base : W64 := 0
  baseSet : Bool := false
  size : W64 := 0
  head : W64 := 0
  tail : W64 := 0
  vec : W64 := 0
deriving DecidableEq, Repr

/-- A page pool (R266). -/
structure Pool where
  cap : Nat
  pages : List Nat
deriving DecidableEq, Repr

/-- A context (R31, R279, R306, R387, R393). Its key is its partition times 65,536 plus its CTXID. -/
structure Ctx where
  mode : Nat := 0
  dbg : Bool := false
  root : Nat := 0
  evbase : W64 := 0
  relq : Nat := 0
  pmask : W64 := 0
  htbase : Nat := 0
  htsize : Nat := 0
  feats : BitVec 128 := 0
  twilight : Bool := false
  pools : SMap Pool := []
  lq : SMap LQueue := []
  eq : HostRing := {}
  rfhead : W64 := 0
  rftail : W64 := 0
  nextWgid : Nat := 1
  stopped : Bool := false
  htgen : SMap Nat := []
deriving DecidableEq, Repr

/-- A 64-byte event record waiting in a die's hold (R340): emitting die (4 F0, 5 F1), the queue it goes to (none: the
management queue), its bytes. -/
structure HeldRec where
  die : Nat
  ctx : Option Nat
  bytes : List Byte
deriving DecidableEq, Repr

/-- The host's side (R340, R387, R391, R395): the management page, the records held back, interrupts sent, and the SPDM
mailbox. Before the start has reached its last step bit 0 of FEATOFF is set, and bits 3 and 4 are offered without a condition (R400). -/
structure HostSt where
  featoff : BitVec 128 := 0x19
  featacc : BitVec 128 := 0
  mb : HostRing := {}
  meq : HostRing := {}
  portcap : SMap Nat := []
  podmap : BitVec 256 := 0
  held : List HeldRec := []
  msi : List Nat := []
  doeReq : List Byte := []
  doeResp : List Byte := []
  memResp : List (Option Byte) := []
  sideband : List Byte := []
deriving DecidableEq, Repr

/-- One entry of the start record (R397). -/
structure StepRec where
  count : Nat := 0
  way : Nat := 0
  outcome : Nat := 0
deriving DecidableEq, Repr

/-- One of the two copies of the start record on flash (R397); `valid` says that its digest agrees. -/
structure StartCopy where
  gen : Nat := 0
  steps : List StepRec := []
  valid : Bool := false
deriving DecidableEq, Repr

/-- The almanac's counts (R404), keyed by kind and unit. -/
structure Almanac where
  soft : SMap Nat := []
  temp : SMap Nat := []
  droop : SMap Nat := []
  laser : SMap Nat := []
  retrain : SMap Nat := []
  starts : Nat := 0
  twilight : Nat := 0
deriving DecidableEq, Repr

/-- One core's own state (R34, R324, R325, R329): cycle count, clock gate, temperature margin, the cycles at which it recorded a
voltage droop, pass count in its distributor, cycles in a row at a high stress score, and one more than the cycle in which an access
processor used its memory port last (R332). -/
structure Core where
  cyc : W64 := 0
  gated : Bool := false
  margin : Nat := 127
  droops : List Nat := []
  pass : Nat := 0
  stressed : Nat := 0
  memPort : Nat := 0
deriving DecidableEq, Repr

/-- One direction of a link (R357, R361): the SEQ of the next flit to send, of the next one that the receiver expects and of the oldest
flit not acknowledged, modulo 4,096; replays in a row of one flit, and which; whether the receiver discards flits until a replay; and the
link controller's cycles since an acknowledgement, while one is due. -/
structure LinkDir where
  seq : Nat := 0
  got : Nat := 0
  acked : Nat := 0
  replays : Nat := 0
  replayFrom : Option Nat := none
  nak : Bool := false
  age : Nat := 0
deriving DecidableEq, Repr

/-- A die link or an optical link (R335, R336, R361, R363 to R365): its rate (0 full, 1 half, 2 quarter); failed retrainings in a row; whether a
window is open, whether a rate step opened it, and its cycles; whether the link is down; its live wavelengths, those that widen it at
its next rate step, lost ones that shine at their monitor and the cycles they have; cycles of the period; the smallest W of another
package's link to the plane; and its two directions, from this package and to it. -/
structure LinkSt where
  rate : Nat := 0
  fails : Nat := 0
  window : Bool := false
  stepped : Bool := false
  wcyc : Nat := 0
  down : Bool := false
  waves : BitVec 16 := 0xFFFF
  pendUp : BitVec 16 := 0
  light : BitVec 16 := 0
  lit : Nat := 0
  pcyc : Nat := 0
  minW : Nat := 16
  up : LinkDir := {}
  dn : LinkDir := {}
deriving DecidableEq, Repr

/-- A forwarding entry (R326, R348): where it stands, the workgroup, the senders not yet acknowledged, and the cycles its
inbound path has been quiet. -/
structure Forward where
  id : Nat
  core : Nat
  wu : Nat
  toCore : Option Nat
  senders : List Nat
  quiet : Nat := 0
deriving DecidableEq, Repr

/-- The package (R1, R305, R324, R327, R335, R396 to R404). `startStep` is the start step taken last (0: none yet; 11: the start is over),
`started` says that step 4 has passed, `step5` that step 5 has, `full` that step 10 has. -/
structure Platform where
  pkg : Nat := 0
  startStep : Nat := 0
  started : Bool := false
  full : Bool := false
  step5 : Bool := false
  fenced : List Nat := []
  dieSeq : SMap W64 := []
  ptr : SMap Nat := []
  qptr : SMap Nat := []
  qpass : SMap Nat := []
  forwards : List Forward := []
  dieLinks : SMap LinkSt := []
  clockMHz : Nat := 1050
  powerDW : Nat := 0
  hbmStacks : List Nat := []
  partKeys : SMap Nat := []
  parts : List Nat := []
  nearRes : SMap (List Nat) := []
  farRes : SMap (List Nat) := []
  farGrant : SMap (List Nat) := []
  resTaken : SMap Nat := []
  resQuiet : List Nat := []
  startRes : List StepRes := []
  flash : List StartCopy := []
  measure : SMap (BitVec 256) := []
  almanac : Almanac := {}
  almFlash : Almanac := {}
deriving DecidableEq, Repr

/-- A directory entry of a line (R368), its grant number (R375), and the remote-held bit of R369 stands with the home.
`st`: 1 S, 2 E, 3 M, 4 O (an I entry is not kept). -/
structure DirEntry where
  st : Nat := 0
  owner : Nat := 0
  sharers : List Nat := []
  granted : Nat := 0
deriving DecidableEq, Repr

/-- A transaction the switch has not ended (R368): the request, acknowledgements still awaited, and, during a recall
(R376), its cause, the answers and the switch cycles it has run. -/
structure Trans where
  line : Nat
  req : Option FabMsg
  acks : List Nat := []
  recallCause : Option Nat := none
  answers : List (Nat × Nat) := []
  age : Nat := 0
deriving DecidableEq, Repr

/-- A pod-barrier entry of a switch (R381): its phase, arrivals and count, and those that came for the next phase (R186). -/
structure PodBar where
  ident : BarMsg
  phase : Nat := 0
  count : Nat := 0
  expect : Nat := 0
  nextCount : Nat := 0
  nextExpect : Nat := 0
  seen : List (Nat × Nat) := []
deriving DecidableEq, Repr

/-- A LASERLOSS record in the making (R364 to R366, R384): far die (0, 1), links, W before, modules, cause, flits replayed, and the
links that have resumed. -/
structure LaserRec where
  die : Nat
  links : BitVec 24
  wold : Nat
  modules : Nat
  cause : Nat
  replayed : Nat := 0
  resumed : List Nat := []
deriving DecidableEq, Repr

/-- The fabric as this package sees it (R356 to R382): the plane table, the entries that other packages and switches have otherwise,
directories, transactions, requests waiting in the order they reached the switch, the network, data that waits for its grant, this package's
peer lines (1 S, 2 E, 3 M, 4 O) and eviction buffer, home lines' remote-held bits, atomic results kept by tag, barriers, optical links
by plane, planes lost, LASERLOSS records in the making. -/
structure Fabric where
  remap : SMap Nat := []
  swRemap : SMap Nat := []
  arrived : List FabMsg := []
  dir : SMap DirEntry := []
  trans : List Trans := []
  waiting : List FabMsg := []
  net : List FabMsg := []
  barNet : List BarMsg := []
  peer : SMap Nat := []
  evict : SMap Nat := []
  remote : List Nat := []
  kept : List (Nat × Nat × W64) := []
  bars : List PodBar := []
  sentArr : List BarMsg := []
  links : SMap LinkSt := []
  lost : List Nat := []
  laser : List LaserRec := []
  grantNo : Nat := 0
  tag : Nat := 0
deriving DecidableEq, Repr

/-- The task graph, the engines, the wide barriers, and the relayouts that are paused (R270, R286, R330, R186, R53). -/
structure EngSt where
  ops : List EngOp := []
  nodes : List Node := []
  gens : SMap Nat := []
  bars : List ((Nat × Nat × Nat) × Barrier) := []
  paused : List RlySt := []
  saves : List Workgroup := []
deriving DecidableEq, Repr

/-- What a step does next (free data: the spec fixes no order among them, R10, R328): issue the fetch word of a member's
slot, issue both slots of a member (R24), take an event, let cycles pass on a core, deliver another message first, take some 8-byte chunks
of a fetch line from memory again (R89), drop a translation or a peer line that a cache may drop, fill some bytes of a line (R288),
perform a piece of an acquire as a relaxed read (R295), read a source of an engine's move (R297), perform one chunk of a slot's
synchronous read (R196), let cycles pass on a link or on a plane's switch (R7), let a receiver acknowledge (R361), send a damaged
increment again (R362); or what comes from outside: a temperature, an SPDM request, a power reading or how the start steps turn out,
the end of an hour (R404), a message of another package, flits as their wavelengths carry them, the light at a far die's monitors, another package's W on a plane, an
entry of the others' plane table (R367). Links 64 to 77 are the die links. -/
inductive Choice where
  | issue (r : MRef) (slotB : Bool)
  | issueBoth (r : MRef)
  | event (i : Instr)
  | cycles (core n : Nat)
  | netFirst (k : Nat)
  | dropLine (key chunks : Nat)
  | dropTlb (k : Nat)
  | evictPeer (line : Nat)
  | fillBytes (toQuad : Option Nat) (line mask : Nat)
  | relaxedRead (r : MRef) (op piece : Nat)
  | readSource (id move src : Nat)
  | readChunk (r : MRef) (slotB : Bool) (chunk : Nat)
  | temperature (core margin : Nat)
  | hostReq (doe : List Byte)
  | sense (deciWatts : Nat) (steps : List StepRes)
  | hour
  | peerMsg (m : FabMsg)
  | peerBar (m : BarMsg)
  | linkCycles (link n : Nat)
  | switchCycles (plane n : Nat)
  | ack (link : Nat) (up : Bool)
  | againBar (k : Nat)
  | flitIn (plane : Nat) (flits : List (List (Nat × List Byte)))
  | light (die : Nat) (waves : BitVec 16)
  | peerWidth (plane w : Nat)
  | otherTable (entry plane : Nat)
deriving DecidableEq, Repr

/-- The machine. -/
structure State where
  m : Member := {}
  wg : Workgroup := {}
  pre : Option RegFile := none
  wgs : List Workgroup := []
  mem : MemSys := {}
  cores : SMap Core := []
  eng : EngSt := {}
  ctxs : SMap Ctx := []
  host : HostSt := {}
  plat : Platform := {}
  fab : Fabric := {}
  sched : List Choice := []
  uid : Nat := 0
deriving DecidableEq, Repr

/-- A floating-point value (R56, R57): a NaN, an infinity, or the finite value `m` times 2 to the `e`, negative when
`neg`; zero keeps its sign. -/
inductive FVal where
  | nan
  | inf (neg : Bool)
  | fin (neg : Bool) (m : Nat) (e : Int)
deriving DecidableEq, Repr

/-- The instruction classes of R94 and R232, the team class split as R232 splits it. -/
inductive Cls where
  | ctl | int | flt | mem | lay | mtx | team | teamCommon | eng | sys
deriving DecidableEq, Repr

/-- How a format A entry reads a source field: not at all (a zero field), as a value of the type's width, as a predicate, as
32 or 64 bits whatever the type, as a vector value of one lane (`movs`), as the immediate and nothing else, or as a
value or a predicate (`mov`). -/
inductive SKind where
  | none | val | pred | w32 | w64 | vec | imm | valOrPred
deriving DecidableEq, Repr

/-- What a format A entry may write: a v or s register; that or a predicate; a predicate only; an s register only; a v
register only; all that `mov` may write; all that `movi` may write; nothing (tensor instructions). -/
inductive DKind where
  | any | anyPred | pred | scalar | vector | mov | movi
deriving DecidableEq, Repr

/-- What R136 to R164 say of a format A entry's fields: the types, rounding codes and SUB codes it accepts, whether `.sat` is,
how it uses DST, SA, SB and SC, whether the destination is 64 bits, or 32, whatever the type, whether IMM has a use of its own,
and whether a vector source may feed a scalar destination. -/
structure AShape where
  types : List Nat
  rnds : List Nat := [0]
  subs : List Nat := [0]
  sat : Bool := false
  dk : DKind := .any
  a : SKind := .val
  b : SKind := .none
  c : SKind := .none
  dwide : Bool := false
  dnarrow : Bool := false
  immOwn : Bool := false
  vecOk : Bool := false
deriving DecidableEq, Repr

/-- How an instruction uses a register specifier (R12, R21): whether a vector specifier names an even pair, whether it is
written, and whether 511 has a meaning in its field. -/
structure SpecUse where
  spec : Spec
  pair : Bool := false
  wr : Bool := false
  ok511 : Bool := false
deriving DecidableEq, Repr

/-- A fault as an instruction raises it (R339, R341): code, DETAIL, lanes, address, and the flag bits [36:32] of the record's
word (REPORT, HALT, SVC, BRK, ITRAP). -/
structure Flt where
  code : Nat
  detail : Nat := 0
  lanes : Mask := 0
  addr : W64 := 0
  flags : Nat := 0
deriving DecidableEq, Repr

/-- What one lane of an arithmetic instruction gives: its result, the bits it raises in `%istat` and `%fstat`, and a carry
(`iadc`). -/
structure LaneRes where
  val : W64
  istat : W64 := 0
  fstat : W64 := 0
  carry : Bool := false
deriving DecidableEq, Repr

/-- Why a step stops with no next state. Nothing the spec describes ends so: every fault of R339 is a next state. -/
inductive Fault where
  /-- Raised by no meaning: the machine has no stop of its own (safe). -/
  | none
deriving DecidableEq, Repr

/-- Why a step is refused. -/
inductive Refusal where
  /-- Raised only by an arm of `exec` that has no meaning yet, with the mnemonic of the opcode table (safe). -/
  | notModelled (mnemonic : String)
deriving DecidableEq, Repr

/-- The package right after reset, before START (R396): no context, no workgroup (the workgroup in focus has ended), every
count and sequence number at zero (R34, R35), REMAP as R367 gives it (an unlisted entry e reads e mod 48). -/
def State.reset : State := { wg := { stop := .ended }, m := {} }

end Sys2Proof.Machine
end

