-- ==== Sys2Proof/Machine/Maps.lean ====
section
/-!
DEFINITION. Maps.lean: sparse maps and memory in their canonical form, and the small arithmetic the meanings share.
-/
namespace Sys2Proof.Machine

/-- The value at a key, or the default. -/
def smGet {V : Type} (d : V) : SMap V → Nat → V
  | [], _ => d
  | (k, v) :: m, a => if k = a then v else smGet d m a

/-- The entry at a key, if one is listed. -/
def smFind {V : Type} : SMap V → Nat → Option V
  | [], _ => none
  | (k, v) :: m, a => if k = a then some v else smFind m a

/-- Remove a key. -/
def smDel {V : Type} : SMap V → Nat → SMap V
  | [], _ => []
  | (k, v) :: m, a => if k = a then smDel m a else (k, v) :: smDel m a

/-- List a value at a key, keeping keys rising. -/
def smIns {V : Type} : SMap V → Nat → V → SMap V
  | [], a, x => [(a, x)]
  | (k, v) :: m, a, x =>
    if a < k then (a, x) :: (k, v) :: m else if a = k then (a, x) :: m else (k, v) :: smIns m a x

/-- Write a value at a key of a map with a default: the default is not listed. -/
def smPut {V : Type} [DecidableEq V] (d : V) (m : SMap V) (a : Nat) (x : V) : SMap V :=
  if x = d then smDel m a else smIns m a x

/-- Keys strictly rising, all above `lo` (none: no bound). -/
def keysRise {V : Type} : Option Nat → SMap V → Bool
  | _, [] => true
  | lo, (k, _) :: m => (match lo with | none => true | some l => decide (l < k)) && keysRise (some k) m

/-- The canonical form of a map with a default. -/
def smWf {V : Type} [DecidableEq V] (d : V) (m : SMap V) : Bool :=
  keysRise none m && m.all (fun kv => decide (kv.2 ≠ d))

/-- What an address that memory does not list reads as: zero (log 2). -/
def emptyByte : Byte := 0

/-- The canonical form of memory. -/
def Memory.wf (m : Memory) : Bool := smWf emptyByte m

/-- One byte of memory. -/
def memGet (m : Memory) (a : Nat) : Byte := smGet emptyByte m a

/-- Write one byte of memory. -/
def memPut (m : Memory) (a : Nat) (b : Byte) : Memory := smPut emptyByte m a b

/-- The `n` bytes from `a` upward. -/
def memGets (m : Memory) (a : Nat) : Nat → List Byte
  | 0 => []
  | n + 1 => memGet m a :: memGets m (a + 1) n

/-- Write bytes from `a` upward. -/
def memPuts (m : Memory) (a : Nat) : List Byte → Memory
  | [] => m
  | b :: bs => memPuts (memPut m a b) (a + 1) bs

/-- A little-endian value of `n` bytes in memory (R5). -/
def memNat (m : Memory) (a n : Nat) : Nat := leNat (memGets m a n)

/-- Copy a range of bytes from one memory to the same addresses of another. -/
def memCopy (src dst : Memory) (a n : Nat) : Memory := memPuts dst a (memGets src a n)

/-- Bits `[lo + n - 1 : lo]` of a number. -/
def bitsN (v lo n : Nat) : Nat := v / 2 ^ lo % 2 ^ n

/-- One bit of a number. -/
def bitN (v i : Nat) : Bool := bitsN v i 1 = 1

/-- A truth value as a number. -/
def b2n (b : Bool) : Nat := if b then 1 else 0

/-- The 32 lanes. -/
def lanes32 : List Nat := List.range 32

/-- The lanes of a mask, ascending. -/
def lanesOf (m : Mask) : List Nat := lanes32.filter (fun l => m.getLsbD l)

/-- The mask of a list of lanes. -/
def maskOf (ls : List Nat) : Mask := ls.foldl (fun m l => m ||| (1#32 <<< l)) 0

/-- The lowest lane of a mask; 0 when it is empty. -/
def lowLane (m : Mask) : Nat := (lanesOf m).headD 0

/-- Sign-extend the low `w` bits of a number to an integer. -/
def sext (w v : Nat) : Int := if bitN v (w - 1) then (v % 2 ^ w : Int) - 2 ^ w else (v % 2 ^ w : Int)

/-- The low `w` bits of an integer, as a number. -/
def wrapN (w : Nat) (x : Int) : Nat := (x % (2 ^ w : Int)).toNat

/-- The exclusive or of all bits of a number of `n` bits. -/
def parity (n v : Nat) : Bool := (List.range n).foldl (fun p i => xor p (bitN v i)) false

/-- The number of set bits among the low `n`. -/
def popcount (n v : Nat) : Nat := (List.range n).foldl (fun p i => p + b2n (bitN v i)) 0

/-- Replace the first element that satisfies a test. -/
def replaceFirst {α : Type} (p : α → Bool) (f : α → α) : List α → List α
  | [] => []
  | x :: xs => if p x then f x :: xs else x :: replaceFirst p f xs

/-- Remove the first element that satisfies a test. -/
def dropFirst {α : Type} (p : α → Bool) : List α → List α
  | [] => []
  | x :: xs => if p x then xs else x :: dropFirst p xs

/-- Set the element at a position; beyond the end nothing changes. -/
def setAt {α : Type} : List α → Nat → α → List α
  | [], _, _ => []
  | _ :: xs, 0, y => y :: xs
  | x :: xs, n + 1, y => x :: setAt xs n y

/-- Put an element into a sorted list, before the first one it may precede. -/
def insBy {α : Type} (le : α → α → Bool) (a : α) : List α → List α
  | [] => [a]
  | b :: l => if le a b then a :: b :: l else b :: insBy le a l
/-- Sort a list; elements that compare equal keep their order. -/
def sortBy {α : Type} (le : α → α → Bool) : List α → List α
  | [] => []
  | a :: l => insBy le a (sortBy le l)

/-- Split a byte range at aligned 8-byte chunks (R169): offset in the range and length of each piece. -/
def chunks (a : Nat) : Nat → Nat → List (Nat × Nat)
  | 0, _ => []
  | fuel + 1, n =>
    if n = 0 then [] else
      let k := min n (8 - a % 8)
      (0, k) :: (chunks (a + k) fuel (n - k)).map (fun c => (c.1 + k, c.2))

end Sys2Proof.Machine
end

