-- ==== Sys2Proof/Machine/Image.lean ====
section
/-!
DEFINITION. Image.lean: layout images as numbers of 2,048 bits, matrices over GF(2), well-formedness and relayout plans
(R36 to R51). A matrix is the list of its columns, each a number whose bit j is row j.
-/
namespace Sys2Proof.Machine

/-! ### Matrices over GF(2) -/

/-- The exclusive or of the columns that the set bits of `x` select: the product M x. -/
def gfVec : List Nat → Nat → Nat
  | [], _ => 0
  | c :: cs, x => (if x % 2 = 1 then c else 0) ^^^ gfVec cs (x / 2)
/-- The product of two matrices. -/
def gfMul (a b : List Nat) : List Nat := b.map (gfVec a)
/-- The identity of n columns. -/
def gfId (n : Nat) : List Nat := (List.range n).map (2 ^ ·)
/-- Clear bit j of a column with a pivot that has it, keeping the combination that made it. -/
def gfClear (j : Nat) (p c : Nat × Nat) : Nat × Nat := if bitN c.1 j then (c.1 ^^^ p.1, c.2 ^^^ p.2) else c
/-- Column reduction from bit j on, over pairs of a column and the combination of original columns that it is: the columns
still without a pivot, and those that have one, in the order of their pivots. -/
def gfElim : Nat → Nat → List (Nat × Nat) → List (Nat × Nat) → Option (List (Nat × Nat))
  | 0, _, _, piv => some piv
  | k + 1, j, rest, piv =>
    match rest.find? (fun c => bitN c.1 j) with
    | none => none
    | some p => gfElim k (j + 1) ((dropFirst (fun c => bitN c.1 j) rest).map (gfClear j p)) (piv.map (gfClear j p) ++ [p])
/-- The inverse of a matrix of n columns and rows, when it has one. -/
def gfInv (n : Nat) (m : List Nat) : Option (List Nat) :=
  (gfElim n 0 ((List.range n).map (fun i => (m.getD i 0, 2 ^ i))) []).map (·.map (·.2))

/-! ### The fields of an image (R40, R41, R43) -/

/-- FMT. -/
def lyFmt (img : Nat) : Nat := bitsN img 0 8
/-- RANK. -/
def lyRank (img : Nat) : Nat := bitsN img 8 4
/-- N. -/
def lyN (img : Nat) : Nat := bitsN img 12 6
/-- SPACE. -/
def lySpace (img : Nat) : Nat := bitsN img 18 3
/-- FILL. -/
def lyFill (img : Nat) : Nat := bitsN img 21 3
/-- CB. -/
def lyCb (img : Nat) : Nat := bitsN img 24 4
/-- SBLOG. -/
def lySblog (img : Nat) : Nat := bitsN img 28 4
/-- SCALEFMT. -/
def lyScaleFmt (img : Nat) : Nat := bitsN img 32 4
/-- PSTATE. -/
def lyPstate (img : Nat) : Nat := bitsN img 38 2
/-- NEXTPASS. -/
def lyNextPass (img : Nat) : Nat := bitsN img 40 4
/-- DIESTR. -/
def lyDieStr (img : Nat) : Nat := bitsN img 46 6
/-- PKGSTR. -/
def lyPkgStr (img : Nat) : Nat := bitsN img 52 6
/-- RDIM. -/
def lyRdim (img : Nat) : Nat := bitsN img 58 3
/-- Word 1: the base. -/
def lyBase (img : Nat) : Nat := bitsN img 64 64
/-- Word 2: the scale base, or the fill word. -/
def lySbase (img : Nat) : Nat := bitsN img 128 64
/-- Word 3: the seed. -/
def lySeed (img : Nat) : Nat := bitsN img 192 64
/-- Extent d. -/
def lyExt (img d : Nat) : Nat := bitsN img (256 + 32 * d) 32
/-- Level-split entry k. -/
def lyEntry (img k : Nat) : Nat := bitsN img (512 + 10 * k) 10
/-- TARGET. -/
def lyTarget (img : Nat) : Nat := bitsN img 612 4
/-- Column i of the matrix. -/
def lyCol (img i : Nat) : Nat := bitsN img (640 + 36 * i) 36
/-- The N columns of the matrix. -/
def lyMat (img : Nat) : List Nat := (List.range (lyN img)).map (lyCol img)
/-- Replace `w` bits of a number from bit `lo`. -/
def putBits (v lo w x : Nat) : Nat := v - bitsN v lo w * 2 ^ lo + (x % 2 ^ w) * 2 ^ lo
/-- Replace the matrix. -/
def lySetMat (img : Nat) (m : List Nat) : Nat :=
  (List.range 36).foldl (fun v i => putBits v (640 + 36 * i) 36 (m.getD i 0)) img

/-- R42: the element width in bits of a format code. -/
def fmtBits (fmt : Nat) : Nat :=
  match fmt with
  | 1 => 32 | 2 => 16 | 3 => 16 | 4 => 8 | 5 => 8 | 6 => 4 | 7 => 8 | 8 => 8 | 9 => 8 | 10 => 16 | 11 => 16
  | 12 => 32 | 13 => 32 | 14 => 32 | _ => 0
/-- The element width of an image. -/
def lyS (img : Nat) : Nat := fmtBits (lyFmt img)
/-- R36: ceil(log2 e). -/
def clog2 (e : Nat) : Nat := if e ≤ 1 then 0 else Nat.log2 (e - 1) + 1
/-- The extents of the dimensions of an image. -/
def lyExts (img : Nat) : List Nat := (List.range (min (lyRank img) 8)).map (lyExt img)

/-! ### Levels (R38, R43) -/

/-- A level of a split: code, lowest location bit, width. -/
def lyLevelsFrom (img : Nat) : List Nat → Nat → List (Nat × Nat × Nat)
  | [], _ => []
  | k :: ks, lo =>
    let e := lyEntry img k
    if e / 16 = 0 then lyLevelsFrom img ks lo else (e % 16, lo, e / 16) :: lyLevelsFrom img ks (lo + e / 16)
/-- The levels of an image, from location bit 0 upward. -/
def lyLevels (img : Nat) : List (Nat × Nat × Nat) := lyLevelsFrom img (List.range 10) 0
/-- The width of a level; 0 when it is absent. -/
def lyWidth (img code : Nat) : Nat := (((lyLevels img).find? (fun l => l.1 = code)).map (·.2.2)).getD 0
/-- R39: the value of a level's field at a location; an absent field reads as 0. -/
def lyField (img code y : Nat) : Nat :=
  (((lyLevels img).find? (fun l => l.1 = code)).map (fun l => bitsN y l.2.1 l.2.2)).getD 0
/-- The space a level belongs to. -/
def levelSpace (code : Nat) : Nat := if code ≤ 3 then 0 else if code ≤ 6 then 1 else 2
/-- R38: the widest field of a level, for an element width. -/
def levelMax (code s : Nat) : Nat :=
  match code with
  | 0 => (if s = 32 then 0 else if s = 16 then 1 else if s = 8 then 2 else 3)
  | 1 => 8 | 2 => 5 | 3 => 5 | 4 => 20 | 5 => 2 | 6 => 6 | 7 => 2 | 8 => 8 | 9 => 36 | _ => 0
/-- R38: dearness within the space. -/
def dearness (code : Nat) : Nat :=
  match code with
  | 0 => 0 | 1 => 1 | 2 => 2 | 3 => 3 | 4 => 0 | 5 => 1 | 6 => 2 | 7 => 1 | 8 => 2 | _ => 0

/-! ### Well-formedness (R44, R194) -/

/-- The bytes that a level's elements span (R44). -/
def spanBytes (w s : Nat) : Nat := (2 ^ w * s + 7) / 8
/-- Code 1: reserved values and zero fields. -/
def defect1 (img : Nat) : Bool :=
  decide (14 < lyFmt img) || decide (2 < lySpace img) || decide (2 < lyFill img) || decide (1 < lyScaleFmt img) ||
  bitsN img 61 3 != 0 || bitsN img 44 2 != 0 || bitsN img 36 2 != 0 || bitsN img 616 24 != 0 || bitsN img 1936 112 != 0 ||
  (lyFill img == 2 && bitsN img 160 32 != 0)
/-- Code 2: format, rank, N. -/
def defect2 (img : Nat) : Bool :=
  lyFmt img == 0 || lyRank img == 0 || decide (8 < lyRank img) || lyN img == 0 || decide (36 < lyN img) ||
  lyN img != ((lyExts img).map clog2).sum
/-- Code 3: extents. -/
def defect3 (img : Nat) : Bool := (List.range 8).any (fun d => (lyExt img d == 0) == decide (d < lyRank img))
/-- Code 4: the level split; `reg`: a QUAD field is a defect too (R39). -/
def defect4 (img : Nat) (reg : Bool) : Bool :=
  (List.range 10).any (fun k => lyEntry img k / 16 == 0 && lyEntry img k != 0) ||
  (lyLevels img).any (fun l => decide (9 < l.1) || levelSpace l.1 != lySpace img || decide (levelMax l.1 (lyS img) < l.2.2) ||
    decide (1 < ((lyLevels img).filter (fun k => k.1 = l.1)).length) || (reg && l.1 == 6)) ||
  ((lyLevels img).map (·.2.2)).sum != lyN img
/-- Code 5: the matrix. -/
def defect5 (img : Nat) : Bool :=
  (List.range 36).any (fun i => if i < lyN img then decide (2 ^ lyN img ≤ lyCol img i) else lyCol img i != 0) ||
  (gfInv (lyN img) (lyMat img)).isNone
/-- Code 6: the strides. -/
def defect6 (img : Nat) : Bool :=
  let span := spanBytes (lyWidth img 9) (lyS img)
  let die := (lyLevels img).any (fun l => l.1 == 7)
  let pkg := (lyLevels img).any (fun l => l.1 == 8)
  decide (59 < lyDieStr img) || decide (59 < lyPkgStr img) ||
  (if die then decide (2 ^ lyDieStr img < span) else lyDieStr img != 0) ||
  (if pkg then decide (2 ^ lyPkgStr img < (if die then 2 ^ lyWidth img 7 * 2 ^ lyDieStr img else span)) else lyPkgStr img != 0)
/-- Code 7: fill, scale and format. -/
def defect7 (img : Nat) : Bool :=
  (lyFill img == 1 && decide (6 ≤ lyFmt img)) ||
  (lyScaleFmt img == 1 && (lyFill img == 2 || decide (lyFmt img < 4) || decide (6 < lyFmt img))) ||
  lySblog img != (if lyScaleFmt img = 1 then 5 else 0)
/-- Code 8: the relayout state of an image that is to be placed. -/
def defect8 (img : Nat) : Bool := lyPstate img != 0 || lyNextPass img != 0 || lyTarget img != 0
/-- R194: the first defect of an image that an instruction would place, as its code; 0 for none. -/
def lyDefect (img : Nat) (reg : Bool) : Nat :=
  if defect1 img then 1 else if defect2 img then 2 else if defect3 img then 3 else if defect4 img reg then 4
  else if defect5 img then 5 else if defect6 img then 6 else if defect7 img then 7 else if defect8 img then 8 else 0
/-- R44: well-formed, a pending relayout included. -/
def lyWellFormed (img : Nat) : Bool :=
  !(defect1 img || defect2 img || defect3 img || defect4 img false || defect5 img || defect6 img || defect7 img) &&
  (if lyPstate img = 0 then lyNextPass img == 0 && lyTarget img == 0 else lyNextPass img != 0)

/-! ### Indices, holes, fill, scales (R36, R37, R42, R45) -/

/-- The coordinates of an index vector, dimension 0 first. -/
def coordsOf : List Nat → Nat → List Nat
  | [], _ => []
  | e :: es, x => x % 2 ^ clog2 e :: coordsOf es (x / 2 ^ clog2 e)
/-- The index vector of coordinates; none when one does not fit its dimension. -/
def indexOf : List Nat → List Nat → Option Nat
  | [], _ => some 0
  | e :: es, c :: cs => if 2 ^ clog2 e ≤ c then none else (indexOf es cs).map (fun x => c + 2 ^ clog2 e * x)
  | e :: es, [] => (indexOf es []).map (fun x => 2 ^ clog2 e * x)
/-- R37: an index vector names a hole. -/
def isHole (img x : Nat) : Bool := ((lyExts img).zip (coordsOf (lyExts img) x)).any (fun p => decide (p.1 ≤ p.2))
/-- R45: the canonical quiet NaN of a format code. -/
def fmtNaN (fmt : Nat) : Nat :=
  match fmt with | 1 => 0x7FC00000 | 2 => 0x7E00 | 3 => 0x7FC0 | 4 => 0x7F | 5 => 0x7E | _ => 0
/-- R45: the fill value. -/
def fillOf (img : Nat) : Nat :=
  match lyFill img with | 1 => fmtNaN (lyFmt img) | 2 => lySbase img % 2 ^ 32 % 2 ^ lyS img | _ => 0
/-- Dense linear index, dimension 0 fastest. -/
def denseIdx : List Nat → List Nat → Nat
  | e :: es, c :: cs => c + e * denseIdx es cs
  | _, _ => 0
/-- R42: the offset of an element's scale from the scale base. -/
def scaleOff (img : Nat) (cs : List Nat) : Nat :=
  let d := lyRdim img
  let es := lyExts img
  denseIdx ((List.range es.length).map (fun i => if i = d then (es.getD i 0 + 31) / 32 else es.getD i 0))
    ((List.range es.length).map (fun i => if i = d then cs.getD i 0 / 32 else cs.getD i 0))
/-- All coordinates of a box, dimension 0 fastest. -/
def boxCoords : List Nat → List (List Nat)
  | [] => [[]]
  | e :: es => (boxCoords es).flatMap (fun cs => (List.range e).map (fun c => c :: cs))

/-! ### Relayout plans (R49 to R51) -/

/-- The location bits of a level. -/
def levelBits (l : Nat × Nat × Nat) : List Nat := (List.range l.2.2).map (l.2.1 + ·)
/-- A set of bits as a mask. -/
def bitsMask (bs : List Nat) : Nat := bs.foldl (fun m b => m ||| 2 ^ b) 0
/-- R49: a level is touched: T differs from the identity in one of its rows or columns. -/
def touchedBy (n : Nat) (t : List Nat) (l : Nat × Nat × Nat) : Bool :=
  let m := bitsMask (levelBits l)
  (List.range n).any (fun i => let d := (t.getD i 0) ^^^ 2 ^ i; (d &&& m != 0) || (bitN m i && d != 0))
/-- The dearest level. -/
def dearest : List (Nat × Nat × Nat) → Option (Nat × Nat × Nat)
  | [] => none
  | l :: ls => match dearest ls with | none => some l | some k => if dearness k.1 < dearness l.1 then some l else some k
/-- Reduce a vector by a basis whose members are given with their leading bits. -/
def gfReduce (w : List Nat) (v : Nat) : Nat := w.foldl (fun x b => if bitN x (Nat.log2 b) then x ^^^ b else x) v
/-- Add a vector to a basis kept so that each member's leading bit is in no later member. -/
def gfAdd (w : List Nat) (v : Nat) : List Nat :=
  let r := gfReduce w v
  if r = 0 then w else w ++ [r]
/-- R51: the pairs (k, j) with E[k][j] = 1, over the bits j of X. -/
def planE (t : List Nat) (mx : Nat) (bs : List Nat) : List Nat → List Nat → List (Nat × Nat)
  | [], _ => []
  | j :: js, w =>
    let a := t.getD j 0 &&& mx
    if gfReduce w a ≠ 0 then planE t mx bs js (gfAdd w a)
    else match bs.find? (fun k => gfReduce w (t.getD k 0 &&& mx) ≠ 0) with
      | none => planE t mx bs js w
      | some k => (k, j) :: planE t mx bs js (gfAdd w (a ^^^ (t.getD k 0 &&& mx)))
/-- R51: plan(T, S), each pass with its level's code; `fuel` is at least the number of levels. -/
def plan (n : Nat) : Nat → List Nat → List (Nat × Nat × Nat) → List (Nat × List Nat)
  | 0, _, _ => []
  | fuel + 1, t, ls =>
    if t = gfId n then []
    else match ls, dearest ls with
      | _, none => []
      | [l], _ => [(l.1, t)]
      | _, some d =>
        let y := ls.filter (fun l => l.1 != d.1)
        let xs := levelBits d
        let mx := bitsMask xs
        let bs := sortBy (fun a b => decide (a ≤ b)) (y.flatMap levelBits)
        let e := planE t mx bs xs []
        let p1 := (List.range n).map (fun j => e.foldl (fun c kj => if kj.2 = j then c ^^^ 2 ^ kj.1 else c) (2 ^ j))
        let q := gfMul t ((gfInv n p1).getD (gfId n))
        let p2 := (List.range n).map (fun i => (q.getD i 0 &&& mx) ||| (if bitN mx i then 0 else 2 ^ i))
        let p3 := gfMul t ((gfInv n (gfMul p2 p1)).getD (gfId n))
        plan n fuel p1 y ++ (if p2 = gfId n then [] else [(d.1, p2)]) ++ plan n fuel p3 y
/-- T = M_new M_old⁻¹ (R49). -/
def changeOf (n : Nat) (old new : List Nat) : List Nat := gfMul new ((gfInv n old).getD (gfId n))
/-- The levels of an image that a change touches. -/
def touchedLevels (img : Nat) (t : List Nat) : List (Nat × Nat × Nat) := (lyLevels img).filter (touchedBy (lyN img) t)
/-- The relayout plan from an image to a target matrix (R51). -/
def planOf (img : Nat) (new : List Nat) : List (Nat × List Nat) :=
  let t := changeOf (lyN img) (lyMat img) new
  plan (lyN img) 5 t (touchedLevels img t)
/-- R50: the intermediate matrix after k passes. -/
def afterPasses (img : Nat) (ps : List (Nat × List Nat)) (k : Nat) : List Nat :=
  (ps.take k).foldl (fun m p => gfMul p.2 m) (lyMat img)
/-- R50: the exchange groups of a pass for a level, each by its locations. -/
def exchangeGroups (img code : Nat) : List (List Nat) :=
  match (lyLevels img).find? (fun l => l.1 = code) with
  | none => []
  | some l =>
    (List.range (2 ^ (lyN img - l.2.2))).map (fun g =>
      (List.range (2 ^ l.2.2)).map (fun f => g % 2 ^ l.2.1 + f * 2 ^ l.2.1 + g / 2 ^ l.2.1 * 2 ^ (l.2.1 + l.2.2)))
/-- R49: two images agree but for the matrix, FILL and the seed (and the relayout state, which is no part of the tensor). -/
def sameButMatrix (a b : Nat) : Bool :=
  let strip (img : Nat) : Nat := putBits (putBits (putBits (putBits (putBits (lySetMat img []) 21 3 0) 192 64 0) 38 2 0) 40 4 0) 612 4 0
  strip a == strip b

end Sys2Proof.Machine
end

