-- ==== Sys2Proof/Machine/Crypto.lean ====
section
/-!
DEFINITION. Crypto.lean: the device's cryptography (R1): SHA-256 and ECDSA on the curve P-256, as their standards define them. The key and
the number drawn for a signature are free values.
-/
namespace Sys2Proof.Machine

/-! ### SHA-256 -/

/-- The round constants. -/
def shaK : List Nat :=
  [0x428A2F98, 0x71374491, 0xB5C0FBCF, 0xE9B5DBA5, 0x3956C25B, 0x59F111F1, 0x923F82A4, 0xAB1C5ED5,
   0xD807AA98, 0x12835B01, 0x243185BE, 0x550C7DC3, 0x72BE5D74, 0x80DEB1FE, 0x9BDC06A7, 0xC19BF174,
   0xE49B69C1, 0xEFBE4786, 0x0FC19DC6, 0x240CA1CC, 0x2DE92C6F, 0x4A7484AA, 0x5CB0A9DC, 0x76F988DA,
   0x983E5152, 0xA831C66D, 0xB00327C8, 0xBF597FC7, 0xC6E00BF3, 0xD5A79147, 0x06CA6351, 0x14292967,
   0x27B70A85, 0x2E1B2138, 0x4D2C6DFC, 0x53380D13, 0x650A7354, 0x766A0ABB, 0x81C2C92E, 0x92722C85,
   0xA2BFE8A1, 0xA81A664B, 0xC24B8B70, 0xC76C51A3, 0xD192E819, 0xD6990624, 0xF40E3585, 0x106AA070,
   0x19A4C116, 0x1E376C08, 0x2748774C, 0x34B0BCB5, 0x391C0CB3, 0x4ED8AA4A, 0x5B9CCA4F, 0x682E6FF3,
   0x748F82EE, 0x78A5636F, 0x84C87814, 0x8CC70208, 0x90BEFFFA, 0xA4506CEB, 0xBEF9A3F7, 0xC67178F2]
/-- The initial hash. -/
def shaH : List Nat := [0x6A09E667, 0xBB67AE85, 0x3C6EF372, 0xA54FF53A, 0x510E527F, 0x9B05688C, 0x1F83D9AB, 0x5BE0CD19]
/-- A 32-bit sum. -/
def add32 (a b : Nat) : Nat := (a + b) % 2 ^ 32
/-- A 32-bit word rotated right. -/
def rotr32 (x n : Nat) : Nat := x / 2 ^ n + x % 2 ^ n * 2 ^ (32 - n)
/-- The next word of the message schedule, from the sixteen before it, the newest first. -/
def shaNext (w : List Nat) : Nat :=
  let x := w.getD 14 0
  let y := w.getD 1 0
  let s0 := rotr32 x 7 ^^^ rotr32 x 18 ^^^ x / 2 ^ 3
  let s1 := rotr32 y 17 ^^^ rotr32 y 19 ^^^ y / 2 ^ 10
  add32 (add32 (w.getD 15 0) s0) (add32 (w.getD 6 0) s1)
/-- The eight working words. -/
structure ShaSt where
  a : Nat
  b : Nat
  c : Nat
  d : Nat
  e : Nat
  f : Nat
  g : Nat
  h : Nat
deriving DecidableEq, Repr
/-- One round, with its constant and its schedule word. -/
def ShaSt.round (s : ShaSt) (k w : Nat) : ShaSt :=
  let s1 := rotr32 s.e 6 ^^^ rotr32 s.e 11 ^^^ rotr32 s.e 25
  let ch := (s.e &&& s.f) ^^^ ((2 ^ 32 - 1 - s.e) &&& s.g)
  let t1 := add32 (add32 s.h s1) (add32 ch (add32 k w))
  let s0 := rotr32 s.a 2 ^^^ rotr32 s.a 13 ^^^ rotr32 s.a 22
  let mj := (s.a &&& s.b) ^^^ (s.a &&& s.c) ^^^ (s.b &&& s.c)
  { a := add32 t1 (add32 s0 mj), b := s.a, c := s.b, d := s.c, e := add32 s.d t1, f := s.e, g := s.f, h := s.g }
/-- The rounds with the constants left; the last sixteen schedule words are held, the newest first. -/
def shaRounds : List Nat → List Nat → ShaSt → ShaSt
  | [], _, s => s
  | k :: ks, w, s => shaRounds ks ((shaNext w :: w).take 16) (s.round k (w.getD 15 0))
/-- A hash as words. -/
def ShaSt.words (s : ShaSt) : List Nat := [s.a, s.b, s.c, s.d, s.e, s.f, s.g, s.h]
/-- The working words of a hash. -/
def shaOf (h : List Nat) : ShaSt :=
  ⟨h.getD 0 0, h.getD 1 0, h.getD 2 0, h.getD 3 0, h.getD 4 0, h.getD 5 0, h.getD 6 0, h.getD 7 0⟩
/-- A number from bytes, the first the most significant. -/
def beNat (bs : List Byte) : Nat := bs.foldl (fun x b => 256 * x + b.toNat) 0
/-- The hash after one block of 64 bytes. -/
def shaBlock (h : List Nat) (bs : List Byte) : List Nat :=
  let w := ((List.range 16).map (fun i => beNat ((bs.drop (4 * i)).take 4))).reverse
  (h.zip (shaRounds shaK w (shaOf h)).words).map (fun p => add32 p.1 p.2)
/-- The hash after `n` blocks. -/
def shaBlocks : Nat → List Nat → List Byte → List Nat
  | 0, h, _ => h
  | n + 1, h, bs => shaBlocks n (shaBlock h (bs.take 64)) (bs.drop 64)
/-- The bytes of a number, the most significant first. -/
def beBytes (n x : Nat) : List Byte := (leBytes n x).reverse
/-- The SHA-256 digest, its first byte the most significant of the number. -/
def sha256 (bs : List Byte) : Nat :=
  let pad := bs ++ [0x80] ++ List.replicate ((119 - bs.length % 64) % 64) 0 ++ beBytes 8 (8 * bs.length)
  (shaBlocks (pad.length / 64) shaH pad).foldl (fun x w => 2 ^ 32 * x + w) 0
/-- Its 32 bytes, in order. -/
def shaBytes (bs : List Byte) : List Byte := beBytes 32 (sha256 bs)

/-! ### ECDSA on P-256 -/

/-- The field's prime. -/
def ecP : Nat := 0xFFFFFFFF00000001000000000000000000000000FFFFFFFFFFFFFFFFFFFFFFFF
/-- The order of the base point. -/
def ecN : Nat := 0xFFFFFFFF00000000FFFFFFFFFFFFFFFFBCE6FAADA7179E84F3B9CAC2FC632551
/-- The base point. -/
def ecG : Nat × Nat :=
  (0x6B17D1F2E12C4247F8BCE6E563A440F277037D812DEB33A0F4A13945D898C296, 0x4FE342E2FE1A7F9B8EE7EB4A7C0F9E162BCE33576B315ECECBB6406837BF51F5)
/-- A power modulo m, of an exponent of at most `k` bits. -/
def powMod (m x e : Nat) : Nat → Nat
  | 0 => 1
  | k + 1 => let r := powMod m (x * x % m) (e / 2) k; if e % 2 = 1 then r * x % m else r
/-- The inverse modulo a prime of 256 bits. -/
def invMod (m x : Nat) : Nat := powMod m (x % m) (m - 2) 256
/-- The third point of a line of slope `t` through two points of the curve. -/
def ecThird (t : Nat) (p q : Nat × Nat) : Nat × Nat :=
  let x := (t * t + 2 * ecP - p.1 - q.1) % ecP
  (x, (t * (p.1 + ecP - x) + ecP - p.2) % ecP)
/-- The sum of two points of y² = x³ - 3x + b; none is the neutral one. -/
def ecAdd : Option (Nat × Nat) → Option (Nat × Nat) → Option (Nat × Nat)
  | none, q => q
  | p, none => p
  | some p, some q =>
    if p.1 ≠ q.1 then some (ecThird ((q.2 + ecP - p.2) * invMod ecP (q.1 + ecP - p.1) % ecP) p q)
    else if (p.2 + q.2) % ecP = 0 then none
    else some (ecThird ((3 * p.1 * p.1 + ecP - 3) * invMod ecP (2 * p.2) % ecP) p q)
/-- A multiple of a point, by a number of at most `k` bits. -/
def ecMul (p : Option (Nat × Nat)) (n : Nat) : Nat → Option (Nat × Nat)
  | 0 => none
  | k + 1 => let r := ecMul (ecAdd p p) (n / 2) k; if n % 2 = 1 then ecAdd r p else r
/-- The signature of a digest by a key, with the number `k` drawn for it: r and s. -/
def ecSign (key k digest : Nat) : Nat × Nat :=
  let r := ((ecMul (some ecG) k 256).map (·.1)).getD 0 % ecN
  (r, invMod ecN k * (digest + r * key) % ecN)
/-- A number from 1 to n - 1. -/
def ecScalar (x : Nat) : Nat := x % (ecN - 1) + 1
/-- The 64 bytes of a signature of bytes by the identity key (R395, R404): r, then s, the most significant byte of each first. -/
def signature (bs : List Byte) : List Byte :=
  let sig := ecSign (ecScalar Config.identityKey.toNat) (ecScalar (Config.signDraw bs).toNat) (sha256 bs)
  beBytes 32 sig.1 ++ beBytes 32 sig.2

end Sys2Proof.Machine
end

