-- ==== Sys2Proof/Machine/Ops.lean ====
section
/-!
DEFINITION. Ops.lean: the named operations over the member in focus, its registers, its paths and its workgroup; event
records; and taking a fault (R339 to R344), the one operation by which every instruction raises one.
-/
namespace Sys2Proof.Machine

/-- What a meaning answers. -/
abbrev Out := Host.Outcome State Fault Refusal

/-! ### Fault codes (R339) -/

/-- R339 0x01. -/
def ILLOP : Nat := 0x01
/-- R339 0x02. -/
def ILLPAIR : Nat := 0x02
/-- R339 0x03. -/
def ILLTARGET : Nat := 0x03
/-- R339 0x04. -/
def MALLINE : Nat := 0x04
/-- R339 0x05. -/
def ROLECLASS : Nat := 0x05
/-- R339 0x06. -/
def REGBUDGET : Nat := 0x06
/-- R339 0x07. -/
def DIVSTACK : Nat := 0x07
/-- R339 0x08. -/
def WATCHDOG : Nat := 0x08
/-- R339 0x09. -/
def XLATE : Nat := 0x09
/-- R339 0x0A. -/
def PERM : Nat := 0x0A
/-- R339 0x0B. -/
def ALIGN : Nat := 0x0B
/-- R339 0x0C. -/
def POISON : Nat := 0x0C
/-- R339 0x0D. -/
def ATOMPOISON : Nat := 0x0D
/-- R339 0x0E. -/
def LYSING : Nat := 0x0E
/-- R339 0x0F. -/
def LYDEEP : Nat := 0x0F
/-- R339 0x10. -/
def LYBUSY : Nat := 0x10
/-- R339 0x11. -/
def HNDSTALE : Nat := 0x11
/-- R339 0x12. -/
def ENGFN : Nat := 0x12
/-- R339 0x13. -/
def MXRESET : Nat := 0x13
/-- R339 0x14. -/
def BARBROKEN : Nat := 0x14
/-- R339 0x15. -/
def PRIV : Nat := 0x15
/-- R339 0x16. -/
def QFULL : Nat := 0x16
/-- R339 0x17. -/
def PROGTRAP : Nat := 0x17

/-! ### The focus -/

/-- The context of the workgroup in focus. -/
def State.ctx (s : State) : Ctx := smGet {} s.ctxs s.wg.ctx
/-- The partition of a context key. -/
def partOf (ctx : Nat) : Nat := ctx / 65536
/-- The physical quad of the package that a core belongs to. -/
def quadOf (core : Nat) : Nat := core / 4
/-- The near die of a core. -/
def dieOf (core : Nat) : Nat := core / 256
/-- The core's own state. -/
def State.core (s : State) : Core := smGet {} s.cores s.wg.core
/-- The member in focus, by name. -/
def State.ref (s : State) : MRef := ⟨s.wg.wu, s.m.id⟩
/-- Change the member in focus. -/
def State.modM (s : State) (f : Member → Member) : State := { s with m := f s.m }
/-- Change the workgroup in focus. -/
def State.modW (s : State) (f : Workgroup → Workgroup) : State := { s with wg := f s.wg }
/-- Change the registers of the member in focus. -/
def State.modR (s : State) (f : RegFile → RegFile) : State := { s with m := { s.m with r := f s.m.r } }
/-- The registers that source fields read: as they stood before the pair or the cycle where one is under way (R24, R92). -/
def State.rf (s : State) : RegFile := s.pre.getD s.m.r
/-- A scalar member of a team (ACCESS, MATRIX, COPY) has one lane (R22, R137). -/
def Member.scalar (m : Member) : Bool := m.kind != 0
/-- Every lane the member has. -/
def Member.allLanes (m : Member) : Mask := if m.scalar then 1 else BitVec.allOnes 32
/-- The path in the slot the step executes. -/
def Member.path (m : Member) : Path := ((if m.curB then m.b else m.a).getD {})
/-- Replace the path in the slot the step executes; none frees the slot. -/
def Member.setPath (m : Member) (p : Option Path) : Member := if m.curB then { m with b := p } else { m with a := p }
/-- The lanes of the executing path. -/
def State.active (s : State) : Mask := s.m.path.mask
/-- Code pointer arithmetic: the next slot (R86). -/
def Pc.next (p : Pc) : Pc := if p.slot.toNat < 4 then { p with slot := p.slot + 1 } else { line := p.line + 1, slot := 0 }
/-- Move the executing path to a code pointer. -/
def State.setPc (s : State) (p : Pc) : State := s.modM (fun m => m.setPath (some { m.path with pc := p }))
/-- Move the executing path to its next slot (R86). -/
def State.advance (s : State) : State := s.setPc s.m.path.pc.next
/-- A code pointer as a register holds it (R86). -/
def Pc.word (p : Pc) : W64 := BitVec.ofNat 64 (p.line.toNat * 64 + p.slot.toNat)
/-- A register as a code pointer; none when R86 calls it invalid. -/
def pcOf (w : W64) : Option Pc :=
  if bitsN w.toNat 60 4 = 0 ∧ bitsN w.toNat 3 3 = 0 ∧ bitsN w.toNat 0 3 < 5 then
    some { line := BitVec.ofNat 54 (w.toNat / 64), slot := BitVec.ofNat 3 (w.toNat % 8) } else none
/-- Every member of the workgroup in focus. -/
def State.team (s : State) : List Member := s.m :: s.wg.members
/-- A member all of whose lanes have exited (R115). -/
def Member.gone (m : Member) : Bool := m.exited = m.allLanes
/-- Draw a number: program order, and the argument of a free value. -/
def State.tick (s : State) : State := { s with uid := s.uid + 1 }

/-- Change a workgroup by name, in focus or not. -/
def State.modWu (s : State) (wu : Nat) (f : Workgroup → Workgroup) : State :=
  if s.wg.wu = wu then s.modW f else { s with wgs := replaceFirst (fun w => w.wu = wu) f s.wgs }
/-- The workgroup of a name, in focus or not. -/
def State.findWu (s : State) (wu : Nat) : Option Workgroup :=
  if s.wg.wu = wu then some s.wg else s.wgs.find? (fun w => w.wu = wu)
/-- Change a member by name, in focus or not. -/
def State.modMem (s : State) (r : MRef) (f : Member → Member) : State :=
  if s.wg.wu = r.wu then
    if s.m.id = r.mem then s.modM f
    else s.modW (fun w => { w with members := replaceFirst (fun m => m.id = r.mem) f w.members })
  else s.modWu r.wu (fun w => { w with members := replaceFirst (fun m => m.id = r.mem) f w.members })
/-- The member of a name, in focus or not. -/
def State.findMem (s : State) (r : MRef) : Option Member :=
  if s.wg.wu = r.wu then if s.m.id = r.mem then some s.m else s.wg.members.find? (fun m => m.id = r.mem)
  else (s.wgs.find? (fun w => w.wu = r.wu)).bind (fun w => w.members.find? (fun m => m.id = r.mem))
/-- The members of a workgroup, in focus or not. -/
def State.membersOf (s : State) (wu : Nat) : List Member :=
  if s.wg.wu = wu then s.team else ((s.wgs.find? (fun w => w.wu = wu)).map (·.members)).getD []
/-- Bring a member of the workgroup in focus, or of another, into focus. -/
def State.focusOn (s : State) (r : MRef) : State :=
  if s.wg.wu = r.wu then
    if s.m.id = r.mem then s
    else match s.wg.members.find? (fun m => m.id = r.mem) with
      | none => s
      | some m => { s with m := m, wg := { s.wg with members := s.m :: dropFirst (fun m => m.id = r.mem) s.wg.members } }
  else match s.wgs.find? (fun w => w.wu = r.wu) with
    | none => s
    | some w => (match w.members.find? (fun m => m.id = r.mem) with
      | none => s
      | some m =>
        let rest := dropFirst (fun w => w.wu = r.wu) s.wgs
        { s with m := m, wg := { w with members := dropFirst (fun m => m.id = r.mem) w.members }
                 wgs := if s.wg.wu = 0 then rest else { s.wg with members := s.m :: s.wg.members } :: rest })
/-- Every workgroup. -/
def State.allWgs (s : State) : List Workgroup := s.wg :: s.wgs

/-! ### Registers (R11 to R21) -/

/-- A word of a vector register. -/
def RegFile.rv (r : RegFile) (n lane : Nat) : W32 := smGet 0 r.v (32 * n + lane)
/-- A scalar register. -/
def RegFile.rs (r : RegFile) (n : Nat) : W64 := smGet 0 r.s n
/-- A predicate, as a lane mask. -/
def RegFile.rp (r : RegFile) (n : Nat) : Mask := smGet 0 r.p n
/-- Write a word of a vector register; its poison mark goes (R171). -/
def RegFile.wv (r : RegFile) (n lane : Nat) (x : W32) : RegFile :=
  { r with v := smPut 0 r.v (32 * n + lane) x, vmark := r.vmark.filter (· != 32 * n + lane) }
/-- Write a scalar register; its poison mark goes. -/
def RegFile.ws (r : RegFile) (n : Nat) (x : W64) : RegFile :=
  { r with s := smPut 0 r.s n x, smark := r.smark.filter (· != n) }
/-- Write one lane of a predicate. -/
def RegFile.wp (r : RegFile) (n lane : Nat) (x : Bool) : RegFile :=
  let bit := (1#32 <<< lane)
  { r with p := smPut 0 r.p n (if x then r.rp n ||| bit else r.rp n &&& ~~~bit) }

/-- The head entry of a receive queue (R14). -/
def State.iqHead (s : State) (k : Nat) : Option QEntry := (smGet [] s.wg.iq k).head?
/-- Pop the head entry of a receive queue (R14). -/
def State.iqPop (s : State) (k : Nat) : State :=
  s.modW (fun w => { w with iq := smPut [] w.iq k ((smGet [] w.iq k).drop 1) })

/-- `%mode` (R20). -/
def State.modeReg (s : State) : W64 := BitVec.ofNat 64 (4 * s.wg.launch.dev + s.ctx.mode)
/-- `%ctx` (R20): PART in [21:16], CTXID in [15:0]. -/
def State.ctxReg (s : State) : W64 := BitVec.ofNat 64 s.wg.ctx

/-- A special register as a lane reads it (R17). -/
def State.special (s : State) (n lane : Nat) : W64 :=
  match n with
  | 384 => BitVec.ofNat 64 lane
  | 385 => BitVec.ofNat 64 s.m.id
  | 386 => BitVec.ofNat 64 s.wg.lcore
  | 387 => BitVec.ofNat 64 (quadOf s.wg.core % 64)
  | 388 => BitVec.ofNat 64 (dieOf s.wg.core)
  | 389 => BitVec.ofNat 64 s.plat.pkg
  | 390 => BitVec.ofNat 64 s.m.role
  | 391 => BitVec.ofNat 64 (b2n s.m.curB)
  | 392 => s.core.cyc
  | 393 => s.rf.istat
  | 394 => s.rf.fstat
  | 395 => s.modeReg
  | 396 => s.ctxReg
  | 397 => BitVec.ofNat 64 s.wg.x
  | 398 => BitVec.ofNat 64 s.wg.y
  | 399 => BitVec.ofNat 64 s.wg.z
  | 400 => BitVec.ofNat 64 s.wg.launch.gx
  | 401 => BitVec.ofNat 64 s.wg.launch.gy
  | 402 => BitVec.ofNat 64 s.wg.launch.gz
  | 403 => BitVec.ofNat 64 s.wg.crank
  | _ => 0

/-- The shared registers of a workgroup as they stand. -/
def Workgroup.shared (w : Workgroup) : Shared :=
  { lregs := w.lregs, cbs := w.cbs, sq := w.sq, q := (w.team.map (·.q)).getD [] }
/-- The shared registers as instructions of this cycle read them (R24, R209, R239): as they stood before it. -/
def State.shared (s : State) : Shared := s.wg.prev.getD s.wg.shared
/-- A team register as a source field reads it (R239). -/
def teamQ (s : State) (k : Nat) : W64 := smGet 0 s.shared.q k

/-- A 64-bit scalar source by specifier (R11): s, q, sq, iq (its head), special. -/
def State.rdScalar (s : State) (n lane : Nat) : W64 :=
  if n < 320 then s.rf.rs (n - 256)
  else if n < 336 then teamQ s (n - 320)
  else if n < 340 then smGet 0 s.shared.sq (n - 336)
  else if n < 344 then ((s.iqHead (n - 340)).map (·.val)).getD 0
  else if n < 351 then BitVec.ofNat 64 (b2n ((s.rf.rp (n - 344)).getLsbD lane))
  else if n = 351 then 1
  else s.special n lane

/-- A 32-bit source operand in a lane (R137, R138): a vector word, the low half of a scalar, or the immediate. -/
def State.rd32 (s : State) (sp : Spec) (imm : W32) (lane : Nat) : W32 :=
  let n := sp.toNat
  if n < 256 then s.rf.rv n lane else if n = 511 then imm else (s.rdScalar n lane).setWidth 32

/-- A 64-bit source operand in a lane (R136, R138): a vector pair, a scalar, or the immediate extended by the type. -/
def State.rd64 (s : State) (sp : Spec) (imm : W32) (sgn : Bool) (lane : Nat) : W64 :=
  let n := sp.toNat
  if n < 256 then s.rf.rv (n + 1) lane ++ s.rf.rv n lane
  else if n = 511 then (if sgn then imm.signExtend 64 else imm.setWidth 64)
  else s.rdScalar n lane

/-- A predicate operand in a lane: p0 to p6, or pt (R11). -/
def State.rdPred (s : State) (sp : Spec) (lane : Nat) : Bool :=
  if sp.toNat = 351 then true else (s.rf.rp (sp.toNat - 344)).getLsbD lane

/-- Write a scalar destination by specifier: s, sq, or a writable special register (R11, R17). A write of `%istat` or
`%fstat` keeps only the bits R18 and R19 define (R8). Any other specifier has been refused before. -/
def State.wrScalar (s : State) (n : Nat) (x : W64) : State :=
  if n < 320 then s.modR (·.ws (n - 256) x)
  else if n < 340 then s.modW (fun w => { w with sq := smPut 0 w.sq (n - 336) x })
  else if n = 393 then s.modR (fun r => { r with istat := x &&& 0x3 })
  else if n = 394 then s.modR (fun r => { r with fstat := x &&& 0x3F })
  else s

/-- Write a team register (R239). -/
def State.wrQ (s : State) (k : Nat) (x : W64) : State :=
  s.modW (fun w => { w with team := w.team.map (fun t => { t with q := smPut 0 t.q k x }) })

/-! ### Guards (R95, R137) -/

/-- The guard of a lane (R95). -/
def State.guardIn (s : State) (h : Hdr) (lane : Nat) : Bool :=
  if h.guard = 7 then true else xor (h.neg = 1) ((s.rf.rp h.guard.toNat).getLsbD lane)
/-- The active lanes whose guard holds, ascending (R137). -/
def State.guarded (s : State) (h : Hdr) : List Nat := (lanesOf s.active).filter (s.guardIn h)
/-- The guard in the lowest lane of the slot's mask, for what executes once (R117, R137). -/
def State.guardLow (s : State) (h : Hdr) : Bool := s.guardIn h (lowLane s.active)

/-! ### Decode checks (R96) -/

/-- What R21 lets a member kind name. -/
def mayName (kind n : Nat) : Bool :=
  if n < 256 then kind == 0
  else if n < 320 then (kind != 2 && kind != 3) || decide (n < 264)
  else if n < 336 then true
  else if n < 344 then kind != 2
  else true

/-- R232: whether a member kind may execute a class, for a slot's role, in a team kernel or not. `light` marks what R232
lists apart: `nop`, `exit` and headers of the control class, and `wcnt`, `fence` and `bar` of the memory class. -/
def classOk (s : State) (c : Cls) (light : Bool) (role : Nat) : Bool :=
  match s.wg.team with
  | none => (match c with | .team => false | .teamCommon => false | _ => true)
  | some t =>
    if role = 0 then (match c with | .ctl => light | .teamCommon => true | _ => false)
    else match c with
      | .ctl => true
      | .int => true
      | .flt => decide (s.m.kind ≤ 1)
      | .mem => s.m.kind != 2 || light
      | .lay => true
      | .mtx => (s.m.kind == 2 || (s.m.kind == 0 && !(t.roles.any (fun r => r.2 == 2))))
      | .team => true
      | .teamCommon => false
      | .eng => s.m.kind != 2
      | .sys => decide (s.m.kind ≤ 1)

/-- R12 for one specifier: the fault it raises, if any. -/
def specFault (s : State) (u : SpecUse) : Option Nat :=
  let n := u.spec.toNat
  if n < 256 then
    if u.pair && n % 2 == 1 then some ILLOP
    else if s.wg.launch.budget * 8 ≤ n then some REGBUDGET else none
  else if n < 320 then none
  else if n < 336 then (if s.wg.team.isNone || u.wr then some ILLOP else none)
  else if n < 340 then none
  else if n < 344 then (if u.wr then some ILLOP else none)
  else if n < 351 then none
  else if n = 351 then (if u.wr then some ILLOP else none)
  else if n < 384 then some ILLOP
  else if n < 404 then (if u.wr && n != 393 && n != 394 then some ILLOP else none)
  else if n < 511 then some ILLOP
  else if u.ok511 then none else some ILLOP

/-- R39, R52: a relayout's footprint holds a vector register of a warp. -/
def RlySt.coversReg (y : RlySt) (mem reg : Nat) : Bool :=
  lySpace y.img == 0 && decide (lyBase y.img % 256 ≤ reg) && decide (reg < lyBase y.img % 256 + 2 ^ lyWidth y.img 1) &&
  decide (mem < 2 ^ lyWidth y.img 3)
/-- The relayouts in flight (R52). -/
def State.relayouts (s : State) : List (EngOp × RlySt) :=
  s.eng.ops.filterMap (fun e => match e.rly with | some y => if y.suspended then none else some (e, y) | none => none)
/-- R52: an instruction of the member in focus would write a register in the footprint of a relayout in flight. -/
def State.rlyHits (s : State) (uses : List SpecUse) : Bool :=
  s.relayouts.any (fun ey => decide (ey.1.owner.wu = s.wg.wu) && uses.any (fun u => u.wr && decide (u.spec.toNat < 256) &&
    (ey.2.coversReg s.m.id u.spec.toNat || (u.pair && ey.2.coversReg s.m.id (u.spec.toNat + 1)))))

/-- The checks of R96 after step 1, in its order: guard, class and named registers, the field checks of the entry, register
specifiers; last, where some lane's guard holds, LYBUSY for a register under a relayout (R52). -/
def issueFault (s : State) (h : Hdr) (clsOk : Bool) (uses : List SpecUse) (field : Option Nat) : Option Nat :=
  if 8 ≤ h.guard.toNat then some ILLOP
  else if h.neg = 1 ∧ h.guard = 7 then some ILLOP
  else if !clsOk then some ROLECLASS
  else if uses.any (fun u => u.spec.toNat != 511 && !(mayName s.m.kind u.spec.toNat)) then some ROLECLASS
  else match field with
    | some c => some c
    | none => (match uses.findSome? (specFault s) with
      | some c => some c
      | none => if s.rlyHits uses && s.guarded h != [] then some LYBUSY else none)

/-- The ILLOP of a failed field check. -/
def needs (ok : Bool) : Option Nat := if ok then none else some ILLOP
/-- A specifier of an s register. -/
def isS (sp : Spec) : Bool := decide (256 ≤ sp.toNat) && decide (sp.toNat < 320)
/-- A specifier of a v register. -/
def isV (sp : Spec) : Bool := decide (sp.toNat < 256)

/-! ### Outstanding operations (R16, R171, R182) -/

/-- Operations a member has outstanding in a class: its counter (R16). -/
def Member.count (m : Member) (cls : Nat) : Nat := (m.outs.filter (fun o => o.cls = cls)).length

/-- The register specifiers a destination occupies. -/
def Dest.regs (d : Dest) : List Nat :=
  if d.spec.toNat < 256 ∧ d.size = 8 then [d.spec.toNat, d.spec.toNat + 1] else [d.spec.toNat]

/-- Vector registers of a member that the moves of an engine command still write. -/
def moveRegs (r : MRef) (ms : List EMove) : List Nat :=
  ms.flatMap (fun mv => mv.dsts.flatMap (fun sl => sl.filterMap (fun l =>
    if l.2.place = .reg r.wu r.mem then some (l.2.bit / 1024) else none)))

/-- The registers that an outstanding operation of the member in focus will write (R171, R216, R248, R257). -/
def State.busyWrites (s : State) : List Nat :=
  s.m.outs.flatMap (fun o => match o.kind with
    | .load _ d _ => d.regs
    | .value _ d => d.regs
    | .atom _ _ _ (some d) => d.regs
    | _ => []) ++
  (s.eng.ops.filter (fun e => e.owner = s.ref)).flatMap (fun e =>
    ((e.reply.map (·.regs)).getD []) ++ moveRegs s.ref e.moves) ++
  (s.wg.mx.queue.filter (fun q => q.mem = s.m.id)).flatMap (·.wrRegs)

/-- The vector registers that an uncompleted matrix instruction of the member in focus will read (R216). -/
def State.busyReads (s : State) : List Nat :=
  (s.wg.mx.queue.filter (fun q => q.mem = s.m.id)).flatMap (·.rdRegs)

/-- The registers one use of a specifier touches. -/
def SpecUse.regs (u : SpecUse) : List Nat := if u.pair && decide (u.spec.toNat < 256) then [u.spec.toNat, u.spec.toNat + 1] else [u.spec.toNat]

/-- A scoreboard stall (R171, R216). -/
def State.hazard (s : State) (uses : List SpecUse) : Bool :=
  uses.any (fun u => u.regs.any (fun n => s.busyWrites.contains n || (u.wr && s.busyReads.contains n)))

/-- A read of an empty receive queue stalls (R14). -/
def State.iqEmpty (s : State) (uses : List SpecUse) : Bool :=
  uses.any (fun u => !u.wr && decide (340 ≤ u.spec.toNat) && decide (u.spec.toNat < 344) &&
    (s.iqHead (u.spec.toNat - 340)).isNone)

/-- Pop each receive queue that a source field named, once (R14, R136). -/
def State.popIqs (s : State) (uses : List SpecUse) : State :=
  (List.range 4).foldl (fun t k => if uses.any (fun u => !u.wr && u.spec.toNat == 340 + k) then t.iqPop k else t) s

/-- A source word of an executing lane is marked as poison (R171). -/
def State.marked (s : State) (uses : List SpecUse) (ls : List Nat) : Bool :=
  uses.any (fun u => !u.wr && u.regs.any (fun n =>
    (decide (n < 256) && ls.any (fun l => s.rf.vmark.contains (32 * n + l))) ||
    (decide (256 ≤ n) && decide (n < 320) && s.rf.smark.contains (n - 256))))

/-- Add an outstanding operation to the member in focus. -/
def State.addOut (s : State) (o : OutOp) : State := s.modM (fun m => { m with outs := m.outs ++ [o] })

/-! ### Physical memory as the device itself reaches it -/

/-- The package of a pod physical address (R305). -/
def pkgOf (pa : Nat) : Nat := bitsN pa 49 8
/-- Whether this package is the home of an address. -/
def State.homed (s : State) (pa : Nat) : Bool := pkgOf pa = s.plat.pkg
/-- R369: the remote-held bit of a line of this package. -/
def State.remoteHeld (s : State) (pa : Nat) : Bool := s.fab.remote.contains (pa / 128)
/-- A byte of GM (R286): the PM copy of a line homed here that no other package holds (R369). -/
def State.gmByte (s : State) (pa : Nat) : Byte :=
  if s.homed pa && !(s.remoteHeld pa) then memGet s.mem.pm pa else memGet s.mem.gm pa
/-- Record that a write reached PM for the clearing of a poisoned line (R314): a line is clean once every byte of it has been
written. -/
def MemSys.covered (m : MemSys) (pa : Nat) : MemSys :=
  let line := pa / 128
  if m.psn.contains line then
    let mask := smGet 0 m.cover line ||| 2 ^ (pa % 128)
    if mask = 2 ^ 128 - 1 then { m with psn := m.psn.filter (· != line), cover := smDel m.cover line }
    else { m with cover := smIns m.cover line mask }
  else m
/-- The same for an aligned 128 bytes of a scratchpad. -/
def MemSys.spCovered (m : MemSys) (core a : Nat) : MemSys :=
  let k := core * 2 ^ 24 + a / 128
  if m.spPsn.contains (core, a / 128) then
    let mask := smGet 0 m.spCover k ||| 2 ^ (a % 128)
    if mask = 2 ^ 128 - 1 then { m with spPsn := m.spPsn.filter (· != (core, a / 128)), spCover := smDel m.spCover k }
    else { m with spCover := smIns m.spCover k mask }
  else m
/-- Write bytes of a core's scratchpad. -/
def State.spPuts (s : State) (core a : Nat) : List Byte → State
  | [] => s
  | b :: bs => ({ s with mem := { s.mem with sp := smPut [] s.mem.sp core (memPut (smGet [] s.mem.sp core) a b) }.spCovered core a }).spPuts core (a + 1) bs
/-- Write a byte of PM. -/
def State.pmPut (s : State) (pa : Nat) (b : Byte) : State :=
  { s with mem := { s.mem with pm := memPut s.mem.pm pa b }.covered pa }
/-- Copy a line from one copy of memory to another. -/
def lineCopy (src dst : Memory) (line : Nat) : Memory := memCopy src dst (128 * line) 128
/-- R369: another package is about to hold a line of this one: GM takes what PM holds. -/
def State.setRemote (s : State) (line : Nat) : State :=
  if s.homed (128 * line) && !(s.fab.remote.contains line) then
    { s with mem := { s.mem with gm := lineCopy s.mem.pm s.mem.gm line }, fab := { s.fab with remote := line :: s.fab.remote } }
  else s
/-- R369, R374, R382: a line's entry returns to I: no package holds it, and at home PM is its GM copy again; with it this package's own
writes to the line that stand in PM have reached their home copy. -/
def State.dropEntry (s : State) (line : Nat) : State :=
  let back := s.homed (128 * line) && s.fab.remote.contains line
  let own (w : PWrite) : Bool := back && decide (w.place = .glob) && decide (w.addr / 128 = line) && (decide (w.stage = .pm) || decide (w.stage = .gi))
  let pm := if back then (s.mem.writes.filter own).foldl (fun m w => memPuts m w.addr w.bytes) (lineCopy s.mem.gm s.mem.pm line) else s.mem.pm
  { s with
    mem := { s.mem with pm := pm, writes := s.mem.writes.filter (fun w => !(own w)) }
    fab := { s.fab with remote := s.fab.remote.filter (· != line), dir := smDel s.fab.dir line, peer := smDel s.fab.peer line } }
/-- Write a byte at its home copy (R287, R297): PM of this package; or GM, through the switch, whose transaction leaves the line's entry in I,
so that no package holds it and the remote-held bit is clear (R369, R374, R382). -/
def State.homePut (s : State) (pa : Nat) (b : Byte) : State :=
  if s.homed pa && !(s.remoteHeld pa) then s.pmPut pa b
  else
    let s1 := s.dropEntry (pa / 128)
    let s2 := if s.homed pa then s1.pmPut pa b else s1
    { s2 with mem := { s2.mem with gm := memPut s2.mem.gm pa b }.covered pa }
/-- Write bytes at their home copies. -/
def State.homePuts (s : State) (pa : Nat) : List Byte → State
  | [] => s
  | b :: bs => (s.homePut pa b).homePuts (pa + 1) bs
/-- A little-endian value of `n` bytes read from PM, as the device's own units read (R308, R317). -/
def State.pmNat (s : State) (pa n : Nat) : Nat := memNat s.mem.pm pa n

/-! ### Event records (R35, R340) -/

/-- Put one 64-byte record into a ring in host or device memory: none when the ring's base or size is not yet set, or it is
full (R340). -/
def ringPost (s : State) (r : HostRing) (bytes : List Byte) : Option (State × HostRing) :=
  if r.baseSet = false ∨ r.size = 0 ∨ r.size.toNat ≤ (r.tail - r.head).toNat then none
  else
    let s1 := s.homePuts (r.base.toNat + 64 * (r.tail.toNat % r.size.toNat)) bytes
    let s2 := if bitN r.vec.toNat 11 && decide (r.tail = r.head) then
        { s1 with host := { s1.host with msi := s1.host.msi ++ [bitsN r.vec.toNat 0 11] } } else s1
    some (s2, { r with tail := r.tail + 1 })

/-- Deliver a record to the queue of a context (or, with none, to the management queue); false when it has to be held. A
record for a context that does not exist is discarded (R340). -/
def deliver (s : State) (rec : HeldRec) : State × Bool :=
  match rec.ctx with
  | none => (match ringPost s s.host.meq rec.bytes with
    | some (s1, r) => ({ s1 with host := { s1.host with meq := r } }, true)
    | none => (s, false))
  | some c => (match smFind s.ctxs c with
    | none => (s, true)
    | some x => (match ringPost s x.eq rec.bytes with
      | some (s1, r) => ({ s1 with ctxs := smIns s1.ctxs c { x with eq := r } }, true)
      | none => (s, false)))

/-- Deliver held records in order, keeping back what does not fit and whatever stands behind it in the same queue. -/
def deliverHeld (s : State) : List HeldRec → List HeldRec → State
  | [], kept => { s with host := { s.host with held := kept } }
  | r :: rs, kept =>
    if kept.any (fun k => k.ctx = r.ctx) then deliverHeld s rs (kept ++ [r])
    else match deliver s r with
      | (s1, true) => deliverHeld s1 rs kept
      | (s1, false) => deliverHeld s1 rs (kept ++ [r])

/-- Post what a die holds back, as far as the queues have room (R340). -/
def State.flushHeld (s : State) : State := deliverHeld s s.host.held []

/-- The header of a record (R340). -/
def recHeader (seq : W64) (kind pkg die part ctxid : Nat) : List Byte :=
  leBytes 8 seq.toNat ++ leBytes 8 (kind * 2 ^ 56 + pkg * 2 ^ 48 + die * 2 ^ 45 + part * 2 ^ 32 + ctxid)

/-- Emit a record from a die (R35, R340): `hdie` is the die the header names, `ctx` the context (none: management queue),
`body` the words from byte 16. -/
def State.post (s : State) (die kind hdie : Nat) (ctx : Option Nat) (part ctxid : Nat) (body : List Nat) : State :=
  let seq := smGet 0 s.plat.dieSeq die
  let bytes := recHeader seq kind s.plat.pkg hdie part ctxid ++ (body ++ List.replicate (6 - body.length) 0).flatMap (leBytes 8)
  let s1 := { s with plat := { s.plat with dieSeq := smPut 0 s.plat.dieSeq die (seq + 1) } }
  State.flushHeld { s1 with host := { s1.host with held := s1.host.held ++ [⟨die, ctx, bytes⟩] } }

/-- R340: a die holds its 256 records: a further one, and the stop that causes it, is delayed. -/
def State.holdFull (s : State) (die : Nat) : Bool := decide (256 ≤ (s.host.held.filter (fun r => r.die = die)).length)
/-- Emit a record about a context to its own queue. -/
def State.postCtx (s : State) (die kind ctx : Nat) (body : List Nat) : State :=
  s.post die kind die (some ctx) (partOf ctx) (ctx % 65536) body

/-! ### Nodes and workgroups that end (R320, R321, R344) -/

/-- The node id of a node (R270): slot in [31:12], generation in [11:0]. -/
def nodeId (n : Node) : Nat := n.ref.slot * 4096 + n.gen % 4096
/-- The key of a node slot's generation. -/
def slotKey (r : NRef) : Nat := (r.ctx * 4 + r.die) * 8192 + r.slot
/-- Free a node's slot: its generation rises (R270). -/
def State.freeNode (s : State) (n : Node) : State :=
  { s with eng := { s.eng with
      nodes := s.eng.nodes.filter (fun x => x.ref != n.ref)
      gens := smPut 0 s.eng.gens (slotKey n.ref) ((n.gen + 1) % 4096) } }
/-- Withdraw nodes and their successors that have not launched, each with its record (R320). `fuel` bounds the chain. -/
def withdraw (s : State) : Nat → List (NRef × Nat) → State
  | 0, _ => s
  | _, [] => s
  | fuel + 1, (r, g) :: rest =>
    match s.eng.nodes.find? (fun n => n.ref = r && n.gen = g) with
    | none => withdraw s fuel rest
    | some n =>
      if n.gone then withdraw (s.freeNode n) fuel rest
      else
      let waiting := n.succs.filter (fun e => s.eng.nodes.any (fun x => x.ref = e.1 && x.gen = e.2 && x.st != .launched))
      withdraw ((s.freeNode n).postCtx n.ref.die 4 n.ref.ctx [nodeId n, 0, n.tag * 2 ^ 32]) fuel (rest ++ waiting)
/-- Enough fuel for every edge of the graph. -/
def State.graphFuel (s : State) : Nat := s.eng.nodes.length * 66 + 66
/-- Withdraw one node with its successors. -/
def State.withdrawNode (s : State) (r : NRef) (g : Nat) : State := withdraw s s.graphFuel [(r, g)]
/-- Change a node by name. -/
def State.modNode (s : State) (r : NRef) (f : Node → Node) : State :=
  { s with eng := { s.eng with nodes := replaceFirst (fun n => n.ref = r) f s.eng.nodes } }
/-- The node of a name. -/
def State.findNode (s : State) (r : NRef) : Option Node := s.eng.nodes.find? (fun n => n.ref = r)

/-- A workgroup ends, once: it counts toward its kernel (R321), and its reports are discarded (R344). -/
def State.endWu (s : State) (wu : Nat) : State :=
  match s.findWu wu with
  | none => s
  | some w =>
    if w.stop = .ended then s
    else (s.modWu wu (fun w => { w with stop := .ended })).modNode w.node (fun n => { n with ended := n.ended + 1 })

/-- End every workgroup that satisfies a test. -/
def State.endWhere (s : State) (p : Workgroup → Bool) : State :=
  (s.allWgs.filter p).foldl (fun t w => t.endWu w.wu) s

/-- Change a context. -/
def State.modCtx (s : State) (c : Nat) (f : Ctx → Ctx) : State :=
  match smFind s.ctxs c with | none => s | some x => { s with ctxs := smIns s.ctxs c (f x) }
/-- The near dies of a device (R31). -/
def devDies (mode dev : Nat) : List Nat :=
  match mode with | 0 => [0, 1, 2, 3] | 1 => [2 * dev, 2 * dev + 1] | _ => [dev]
/-- The device of a near die, or of a launch queue of the page (R31, R32, R387). -/
def devOf (mode k : Nat) : Nat := match mode with | 0 => 0 | 1 => k / 2 | _ => k
/-- The near dies a device of a context works on: one made in twilight has N0 alone (R401). -/
def Ctx.dies (c : Ctx) (dev : Nat) : List Nat := if c.twilight then [0] else devDies c.mode dev
/-- The near die whose scheduler serves a launch queue (R319), the device's lowest live die when that one is fenced (R327). -/
def State.queueDie (s : State) (c : Ctx) (k : Nat) : Nat :=
  if c.twilight then 0
  else if s.plat.fenced.contains k then ((c.dies (devOf c.mode k)).find? (fun d => !(s.plat.fenced.contains d))).getD k else k
/-- The two words of an entry of a launch queue (R318). -/
def State.lqEntry (s : State) (q : LQueue) (i : Nat) : Nat × Nat :=
  let a := q.base.toNat + 16 * (i % q.size.toNat)
  (s.pmNat a 8, s.pmNat (a + 8) 8)
/-- Withdraw the untaken entries of a context's launch queues whose tag satisfies a test; each with EVT set gives a completion record
with bit 0 clear (R273, R320). -/
def State.dropQueue (s : State) (c : Nat) (pick : Nat → Bool) : State × Nat :=
  (List.range 4).foldl (fun (acc : State × Nat) k =>
    let q := smGet {} (smGet {} acc.1.ctxs c).lq k
    (List.range (q.tail - q.head).toNat).foldl (fun (acc : State × Nat) i =>
      let idx := (q.head.toNat + i) % 2 ^ 64
      let e := acc.1.lqEntry q idx
      if q.withdrawn.contains idx || !(pick (e.2 / 2 ^ 32)) then acc
      else
        let mark (x : LQueue) : LQueue := { x with withdrawn := x.withdrawn ++ [idx] }
        let s1 := acc.1.modCtx c (fun x => { x with lq := smIns x.lq k (mark (smGet {} x.lq k)) })
        let s2 := if bitN e.2 1 then s1.postCtx (s1.queueDie (smGet {} s1.ctxs c) k) 3 c [0, e.1, e.2 / 2 ^ 32 * 2 ^ 32] else s1
        (s2, acc.2 + 1)) acc) (s, 0)

/-- Saved workgroups that end with their kernel or context (R344). -/
def State.dropSaves (s : State) (p : Workgroup → Bool) : State :=
  let saves := s.eng.saves.filter (fun w => !(p w))
  { s with eng := { s.eng with saves := saves } }
/-- R344 CONTEXT, and R327: stop a context: its workgroups end, its nodes and the queue entries not yet taken are withdrawn. -/
def State.stopCtx (s : State) (c : Nat) : State :=
  let s1 := (s.endWhere (fun w => w.ctx = c)).dropSaves (fun w => w.ctx = c)
  let s2 := withdraw s1 s1.graphFuel ((s1.eng.nodes.filter (fun n => n.ref.ctx = c)).map (fun n => (n.ref, n.gen)))
  (s2.dropQueue c (fun _ => true)).1.modCtx c (fun x => { x with stopped := true })

/-- Apply the fault policy of a workgroup's launch (R30, R344). -/
def State.applyPolicy (s : State) (w : Workgroup) : State :=
  match w.launch.policy with
  | 0 => s.endWu w.wu
  | 1 =>
    let mine (x : Workgroup) : Bool := x.node = w.node && x.nodeId = w.nodeId
    let s1 := (s.endWhere mine).dropSaves mine
    (match s1.findNode w.node with
    | none => s1
    | some n => s1.withdrawNode n.ref n.gen)
  | _ => s.stopCtx w.ctx

/-! ### Taking a fault (R341 to R344) -/

/-- A fault waits for the host when it is a translation fault or a PERM by page rights (R309, R343). -/
def Flt.replayable (f : Flt) : Bool := f.code == XLATE || (f.code == PERM && f.detail == 1)

/-- The words of a fault record from byte 16 (R341). -/
def fltBody (w : Workgroup) (m : Member) (slotB : Bool) (pc : Pc) (f : Flt) (policy : Bool) : List Nat :=
  [f.detail * 2 ^ 48 + f.code * 2 ^ 40 + b2n policy * 2 ^ 37 + f.flags * 2 ^ 32 + f.lanes.toNat,
   pc.word.toNat, f.addr.toNat,
   w.wgid * 2 ^ 32 + m.id * 2 ^ 16 + m.role * 2 ^ 8 + b2n slotB, w.nodeId]

/-- Post a fault record of the member in focus at a code pointer. -/
def State.postFault (s : State) (pc : Pc) (f : Flt) (policy : Bool) : State :=
  s.postCtx (dieOf s.wg.core) 1 s.wg.ctx (fltBody s.wg s.m s.m.curB pc f policy)

/-- TAKING A FAULT: the record goes to the host event queue, the workgroup stops, and the policy applies at once unless the
fault is replayable (R343). The faulting path keeps its program counter. Another slot of the same cycle gives its own record (R342);
in a workgroup that stopped in an earlier cycle nothing more is recorded (R344). A die that holds all the records it can delays the stop
(R340). -/
def State.raise (s : State) (f : Flt) : State :=
  if (s.wg.stop != .running && !s.wg.stopping) || s.holdFull (dieOf s.wg.core) then s
  else
    let s1 := s.postFault s.m.path.pc f (!f.replayable)
    let s2 := s1.modW (fun w => { w with
      stop := if w.stop = .running then .fault f.replayable else w.stop
      stopping := true })
    if f.replayable then s2 else s2.applyPolicy s2.wg

/-- Raise a precise fault of the executing path, with the lanes it names and no further detail. -/
def State.fault (s : State) (code : Nat) : State :=
  s.raise { code, lanes := if s.m.scalar then 1 else s.active }

/-- RETURNING FROM A STOP (R343, R346): the host resumes a stopped workgroup, which issues anew at the program counters it
stopped with. -/
def State.resumeWu (s : State) (wu : Nat) : State :=
  let saved := match (s.findWu wu).map (·.stop) with | some (.fault true) => true | some .preempt => true | _ => false
  let s1 := if saved then (s.membersOf wu).foldl (fun t m => t.modMem ⟨wu, m.id⟩ (fun m => { m with wt := [], early := [] })) s else s
  s1.modWu wu (fun w => match w.stop with
    | .fault true => { w with stop := .running }
    | .brk => { w with stop := .running }
    | .halt => { w with stop := .running }
    | .preempt => { w with stop := .running }
    | _ => w)

/-! ### The shape every meaning has -/

/-- Run an instruction: raise the fault its decode checks find; stall where a stall holds it (the state is unchanged); else
give what its entry says. -/
def runSlot (s : State) (bad : Option Nat) (stall : Bool) (go : State → State) : Out :=
  match bad with
  | some c => .next (s.fault c)
  | none => if stall then .next s else .next (go s)

end Sys2Proof.Machine
end

