-- ==== Sys2Proof/Machine/Xlate.lean ====
section
/-!
DEFINITION. Xlate.lean: physical addresses, page tables, translation (R305 to R311) and the fetch of a line's bytes.
-/
namespace Sys2Proof.Machine

/-! ### Physical addresses (R305) -/

/-- The offset of a pod physical address in its package. -/
def offOf (pa : Nat) : Nat := pa % 2 ^ 49
/-- An HBM offset. -/
def inHbm (off : Nat) : Bool := decide (off < 0xC000000000)
/-- A far-memory offset. -/
def inFar (off : Nat) : Bool := decide (2 ^ 44 ≤ off) && decide (off < 2 ^ 45)
/-- A host-window offset. -/
def inHostWindow (off : Nat) : Bool := decide (2 ^ 48 ≤ off)
/-- The HBM stack of an offset (R337). -/
def stackOf (off : Nat) : Nat := off / 2 ^ 36
/-- The CXL port of a far offset. -/
def portOf (off : Nat) : Nat := bitsN off 41 3
/-- A stack is trained unless the start left it untrained (R399); the list names the untrained ones. -/
def State.stackUp (s : State) (k : Nat) : Bool := !(s.plat.hbmStacks.contains k)
/-- R305, R400, R401: an address is backed, as a context sees it. -/
def State.backed (s : State) (c : Ctx) (pa : Nat) : Bool :=
  if pkgOf pa ≠ s.plat.pkg then
    c.feats.getLsbD 1 && !c.twilight && s.host.podmap.getLsbD (pkgOf pa) && (inHbm (offOf pa) || inFar (offOf pa) || inHostWindow (offOf pa))
  else
    let off := offOf pa
    if inHbm off then s.stackUp (stackOf off) && (!c.twilight || decide (stackOf off < 3))
    else if inFar off then c.feats.getLsbD 2 && decide (off % 2 ^ 41 < smGet 0 s.host.portcap (portOf off))
    else inHostWindow off
/-- R389, R390: the frame belongs to the context's partition: its HBM share, or its far grant (all of far memory where none is
listed, log 24); other packages and the host window are not partitioned here. -/
def State.ownFrame (s : State) (ctx pa : Nat) : Bool :=
  let off := offOf pa
  if pkgOf pa ≠ s.plat.pkg then true
  else if inHbm off then bitsN off 30 6 = partOf ctx
  else if inFar off then (match smFind s.plat.farGrant (partOf ctx) with
    | none => true
    | some fs => fs.contains (pa / 65536))
  else true
/-- A line reads as poisoned: it is marked, or a fenced die's stack backs it (R314, R354). -/
def State.poisoned (s : State) (pa : Nat) : Bool :=
  s.mem.psn.contains (pa / 128) ||
  (s.homed pa && inHbm (offOf pa) && s.plat.fenced.contains (stackOf (offOf pa) / 3))

/-! ### Page tables (R306 to R308) -/

/-- R308 cause 2 for an entry used as a table pointer. -/
def badTable (e : Nat) : Bool := bitsN e 57 7 != 0 || bitsN e 2 14 != 0
/-- R308 cause 2 for a leaf, at level 0 or as a 512 MiB leaf. `moving` says that a move of the page is in progress. -/
def badLeaf (s : State) (e : Nat) (large moving : Bool) : Bool :=
  bitsN e 57 7 != 0 || bitsN e 12 4 != 0 || bitsN e 6 4 != 0 || bitN e 2 ||
  (bitN e 10 && !(s.homed (bitsN e 16 41 * 65536) && inFar (offOf (bitsN e 16 41 * 65536)))) ||
  (bitN e 11 && !moving) || (large && bitsN e 16 13 != 0)
/-- The frame address of an entry. -/
def frameOf (e : Nat) : Nat := bitsN e 16 41 * 65536

/-- One level of the walk (R306, R308), from level 3 down: the leaf entry, whether it is a 512 MiB leaf, and the address it
stands at; or the XLATE cause. -/
def walkLevel (s : State) (ctx : Nat) (va : Nat) : Nat → Nat → Except Nat (Nat × Bool × Nat)
  | lvl, table =>
    let idx := if lvl = 3 then bitsN va 55 5 else bitsN va (16 + 13 * lvl) 13
    let ea := table + 8 * idx
    let c := smGet {} s.ctxs ctx
    if !(s.homed table && inHbm (offOf table) && s.backed c table && s.ownFrame ctx table) then .error 3
    else if s.poisoned ea then .error 5
    else
      let e := s.pmNat ea 8
      let large := decide (lvl = 1)
      if !(bitN e 0) then .error 1
      else if lvl ≤ 1 ∧ bitN e 1 then
        (if badLeaf s e large (s.mem.moves.any (fun mv => mv.leafAddr = ea)) then .error 2
         else if !(s.backed c (frameOf e) && s.ownFrame ctx (frameOf e)) then .error 3
         else .ok (e, large, ea))
      else if lvl = 0 ∨ bitN e 1 then .error 2
      else if badTable e then .error 2
      else match lvl with
        | 0 => .error 2
        | n + 1 => walkLevel s ctx va n (frameOf e)
termination_by structural lvl _ => lvl

/-- R306: the walk of a virtual address. -/
def State.walk (s : State) (ctx va : Nat) : Except Nat (Nat × Bool × Nat) :=
  if 2 ^ 60 ≤ va then .error 4 else walkLevel s ctx va 3 (smGet {} s.ctxs ctx).root

/-- An entry translates an address of a context. -/
def TlbEntry.covers (t : TlbEntry) (ctx va : Nat) : Bool :=
  t.ctx = ctx && (if t.large then decide (t.page / 8192 = va / 2 ^ 29) else decide (t.page = va / 65536))
/-- The entry of a core's micro-TLB (R310). -/
def State.microFind (s : State) (core ctx va : Nat) : Option TlbEntry := s.mem.tlb.find? (fun t => t.core == some core && t.covers ctx va)
/-- The entry of a quad's TLB (R310). -/
def State.quadFind (s : State) (quad ctx va : Nat) : Option TlbEntry :=
  s.mem.tlb.find? (fun t => t.core.isNone && t.quad == quad && t.covers ctx va)
/-- The entry a core finds: its micro-TLB's, else its quad's. -/
def State.tlbFind (s : State) (core ctx va : Nat) : Option TlbEntry :=
  match s.microFind core ctx va with | some t => some t | none => s.quadFind (quadOf core) ctx va
/-- The leaf a translation uses: the TLBs', else the walk's (R309, R310). -/
def State.leaf (s : State) (core ctx va : Nat) : Except Nat (Nat × Bool × Option Nat) :=
  if 2 ^ 60 ≤ va then .error 4
  else match s.tlbFind core ctx va with
    | some t => .ok (t.leaf.toNat, t.large, none)
    | none => (match s.walk ctx va with
      | .error c => .error c
      | .ok (e, l, a) => .ok (e, l, some a))
/-- A physical address from a leaf. -/
def leafPa (e : Nat) (large : Bool) (va : Nat) : Nat := frameOf e + (if large then va % 2 ^ 29 else va % 65536)
/-- Rights of a leaf (R307): 1 read, 2 write, 4 execute. -/
def leafRights (e : Nat) : Nat := bitsN e 3 3
/-- R308: translate for an access that needs rights: the physical address, or fault code and DETAIL. -/
def State.xlate (s : State) (va need : Nat) : Except (Nat × Nat) Nat :=
  match s.leaf s.wg.core s.wg.ctx va with
  | .error c => .error (XLATE, c)
  | .ok (e, large, _) => if leafRights e &&& need = need then .ok (leafPa e large va) else .error (PERM, 1)
/-- Keep a translation that a core has used in its micro-TLB, and in its quad's TLB (R310); an entry with V = 0 is never held (R309), nor
is one of a migrate-on-touch page. -/
def State.tlbFill (s : State) (core ctx va : Nat) : State :=
  let keep (ts : List TlbEntry) : State := { s with mem := { s.mem with tlb := s.mem.tlb ++ ts } }
  match s.microFind core ctx va, s.quadFind (quadOf core) ctx va, s.walk ctx va with
  | some _, _, _ => s
  | none, some t, _ => keep [{ t with core := some core }]
  | none, none, .ok (e, large, _) =>
    if bitN e 10 then s
    else
      let t : TlbEntry := { quad := quadOf core, ctx, page := va / 65536, leaf := BitVec.ofNat 64 e, large }
      keep [t, { t with core := some core }]
  | _, _, _ => s

/-! ### Migrate-on-touch (R311, R312, R338) -/

/-- The stack list of a device (R338). -/
def stackList (mode dev : Nat) : List Nat :=
  match mode, dev with
  | 0, _ => [0, 3, 6, 9, 1, 4, 7, 10, 2, 5, 8, 11]
  | 1, 0 => [0, 3, 1, 4, 2, 5]
  | 1, _ => [6, 9, 7, 10, 8, 11]
  | _, k => [3 * k, 3 * k + 1, 3 * k + 2]
/-- R338: the near frame a move takes: the first on the page's stack, else the first. -/
def pickNear (fs : List Nat) (mode dev va : Nat) : Option Nat :=
  let l := stackList mode dev
  let k := l.getD ((va / 65536) % l.length) 0
  match fs.find? (fun f => stackOf (offOf f) = k) with
  | some f => some f
  | none => fs.head?
/-- R312, R338: the far frame a move takes: the first on port v mod 8, else the first. -/
def pickFar (fs : List Nat) (va : Nat) : Option Nat :=
  match fs.find? (fun f => portOf (offOf f) = (va / 65536) % 8) with
  | some f => some f
  | none => fs.head?
/-- DESIGN CHOICE (log 126): what a 512 MiB page can move to is 512 MiB aligned and lies whole in the reserve: the bases of such runs. -/
def wholeRuns (fs : List Nat) : List Nat :=
  fs.filter (fun f => decide (f % 2 ^ 29 = 0) && (List.range 8192).all (fun k => fs.contains (f + 65536 * k)))
/-- The bytes of a page. -/
def pageBytes (large : Bool) : Nat := if large then 2 ^ 29 else 65536
/-- A reserve without the frames that a move took. -/
def takeFrames (fs : List Nat) (f : Nat) (large : Bool) : List Nat :=
  if large then fs.filter (fun x => decide (x / 2 ^ 29 ≠ f / 2 ^ 29)) else fs.erase f
/-- The die that emits for a far frame: F0 for ports 0 to 3, F1 for the others. -/
def farDie (off : Nat) : Nat := if portOf off < 4 then 4 else 5
/-- Key of a partition's reserve of a tier. -/
def resKey (part : Nat) (far : Bool) : Nat := 2 * part + b2n far
/-- R312, R355: the reserve-empty record, once until the reserve holds a frame again. -/
def State.reserveEmpty (s : State) (ctx va : Nat) (far : Bool) (die : Nat) : State :=
  let k := resKey (partOf ctx) far
  if s.plat.resQuiet.contains k then s
  else
    let s1 := s.post die 5 die none (partOf ctx) (ctx % 65536) [b2n far * 2 ^ 32 + smGet 0 s.plat.resTaken k, va]
    { s1 with plat := { s1.plat with resQuiet := k :: s1.plat.resQuiet, resTaken := smPut 0 s1.plat.resTaken k 0 } }
/-- The released-frame queue of a context is full (R311, R387). -/
def relqFull (c : Ctx) : Bool := (c.rftail - c.rfhead).toNat == 4096
/-- The far die whose migration engine a move occupies (R312, R331): that of the far frame, the one the page leaves or the one it takes. -/
def PageMove.die (v : PageMove) : Nat := farDie (offOf (if v.far then v.newFrame else v.oldFrame))
/-- The frame a move of a page takes, for a party of device `dev` (R268, R312, R338); none when the reserve has none. -/
def State.frameFor (s : State) (ctx va : Nat) (far large : Bool) (dev : Nat) : Option Nat :=
  let from0 := smGet [] (if far then s.plat.farRes else s.plat.nearRes) (partOf ctx)
  let fs := if large then wholeRuns from0 else from0
  if far then pickFar fs va else pickNear fs (smGet {} s.ctxs ctx).mode dev va
/-- The migration engine of a far die holds its 64 moves (R330). -/
def State.migBusy (s : State) (die : Nat) : Bool := decide (64 ≤ (s.mem.moves.filter (fun x => x.die = die)).length)
/-- Start the move of a page, for a party of device `dev`, when a frame is there and the released-frame queue has room (R311): MV is set in
the leaf. `op` is the `mig` command it serves, if any. A migration engine holds 64 moves (R330). -/
def State.startMove (s : State) (ctx va0 ea e : Nat) (far mot large : Bool) (dev : Nat) (op : Option Nat) : State :=
  let c := smGet {} s.ctxs ctx
  let part := partOf ctx
  let va := va0 / pageBytes large * pageBytes large
  let from0 := smGet [] (if far then s.plat.farRes else s.plat.nearRes) part
  match s.frameFor ctx va far large dev with
  | none => s.reserveEmpty ctx va far (if far then (if (va / 65536) % 8 < 4 then 4 else 5) else farDie (offOf (frameOf e)))
  | some f =>
    let v : PageMove := { id := s.uid, ctx, va, leafAddr := ea, oldFrame := frameOf e, newFrame := f, far, mot, op, large }
    if relqFull c || s.migBusy v.die then s
    else
      let k := resKey part far
      let s1 := { s with plat := { s.plat with
        nearRes := if far then s.plat.nearRes else smPut [] s.plat.nearRes part (takeFrames from0 f large)
        farRes := if far then smPut [] s.plat.farRes part (takeFrames from0 f large) else s.plat.farRes
        resTaken := smPut 0 s.plat.resTaken k (smGet 0 s.plat.resTaken k + pageBytes large / 65536) } }
      let s2 := s1.homePuts ea (leBytes 8 (e ||| 2 ^ 11))
      { s2 with uid := s2.uid + 1, mem := { s2.mem with moves := s2.mem.moves ++ [{ v with id := s2.uid }] } }
/-- The move of the page whose leaf stands at an address may start now: its migration engine has a place free (R330). -/
def State.migRoom (s : State) (e : Nat) : Bool := !(s.migBusy (farDie (offOf (frameOf e))))
/-- R330: the page of an address is to be moved on touch, and its migration engine has no place free. -/
def State.migWaits (s : State) (ctx va : Nat) : Bool :=
  match s.walk ctx va with | .ok (e, _, _) => bitN e 10 && !(bitN e 11) && !(s.migRoom e) | .error _ => false
/-- R311: what a touch of a page finds: nothing to do, a move in progress (or one it starts), or a migration engine that is full (R330),
with the state after; whether the access waits. -/
def State.touch (s : State) (ctx va : Nat) : State × Bool :=
  match s.walk ctx va with
  | .error _ => (s, false)
  | .ok (e, large, ea) =>
    if bitN e 11 then (s, true)
    else if bitN e 10 then
      if !(s.migRoom e) then (s, true)
      else
        let s1 := s.startMove ctx va ea e false false large s.wg.launch.dev none
        (s1, s1.mem.moves.any (fun mv => mv.leafAddr = ea))
    else (s, false)
/-- R311: a fetch touches its page; one whose translation a TLB holds touches no page that moves on touch. -/
def State.touchFetch (s : State) (va : Nat) : State × Bool :=
  if (s.tlbFind s.wg.core s.wg.ctx va).isSome then (s, false) else s.touch s.wg.ctx va

/-! ### Fetch (R86, R89, R301) -/

/-- The key of a fetch line in a core's instruction cache. -/
def icKey (core pa : Nat) : Nat := core * 2 ^ 51 + pa / 64
/-- A byte of a quad's view (R286). A host-window byte is never held in a cluster cache: its view is PM (R304). -/
def State.qvByte (s : State) (quad pa : Nat) : Byte := memGet (if inHostWindow (offOf pa) then s.mem.pm else smGet [] s.mem.qv quad) pa
/-- The 64 bytes of a fetch line as the quad's view holds them. -/
def State.viewLine (s : State) (quad pa : Nat) : List Byte := memGets (if inHostWindow (offOf pa) then s.mem.pm else smGet [] s.mem.qv quad) pa 64
/-- Fetch a line: the instruction cache's copy, else the view's, which a poisoned line has none of (log 63); or the fault code and
DETAIL (R308, R309). -/
def State.fetch (s : State) (line : BitVec 54) : Except (Nat × Nat) (List Byte) :=
  match s.xlate (line.toNat * 64) 4 with
  | .error f => .error f
  | .ok pa =>
    match smFind s.mem.icache (icKey s.wg.core pa) with
    | some bs => .ok bs
    | none => if s.poisoned pa then .error (POISON, 0) else .ok (s.viewLine (quadOf s.wg.core) pa)
/-- The line word of 64 bytes (R86). -/
def lineWord (bs : List Byte) : Nat := leNat (bs.drop 60)
/-- Slot k of 64 bytes (R86). -/
def slotBits (bs : List Byte) (k : Nat) : Slot96 := BitVec.ofNat 96 (leNat ((bs.drop (12 * k)).take 12))
/-- R90: the TGT bit of a target; a line that cannot be fetched has none (log 12: the fetch fault is then raised). -/
def State.tgt (s : State) (p : Pc) : Bool :=
  match s.fetch p.line with
  | .error _ => false
  | .ok bs => bitN (lineWord bs) p.slot.toNat
/-- The slot at a code pointer. -/
def State.slotAt (s : State) (p : Pc) : Option Slot96 :=
  match s.fetch p.line with
  | .error _ => none
  | .ok bs => some (slotBits bs p.slot.toNat)
/-- The ROLES byte of a line (R87). -/
def State.rolesOf (s : State) (line : BitVec 54) : Nat :=
  match s.fetch line with
  | .error _ => 0
  | .ok bs => bitsN (lineWord bs) 8 8

end Sys2Proof.Machine
end

