-- ==== Sys2Proof/Machine/Orrery.lean ====
section
/-!
DEFINITION. Orrery.lean: the copies of memory, the writes on their way and the moves between them (R286 to R299).
-/
namespace Sys2Proof.Machine

/-! ### Scopes (R3, R4, R287) -/

/-- R4, R400, R401: the scope a code acts as: `.dev` by the mode, `.pod` as `.pkg` where the context has no pod fabric. -/
def State.scope (s : State) (code : Nat) : Nat :=
  if code = 7 then (match s.ctx.mode with | 0 => 5 | 1 => 4 | _ => 3)
  else if code = 6 ∧ (!(s.ctx.feats.getLsbD 1) || s.ctx.twilight) = true then 5 else code
/-- R4: code 4 outside PAIRED mode raises ILLOP. -/
def State.scopeOk (s : State) (code : Nat) : Bool := code != 4 || s.ctx.mode == 1

/-- How far a stage is along the orrery. -/
def WStage.num : WStage → Nat
  | .held => 0 | .ob => 1 | .qv => 2 | .pm => 3 | .gi => 4
/-- R287: a pending write has reached the memory of a scope. A scratchpad write is pending only until it is in SP. -/
def PWrite.reached (w : PWrite) (scope : Nat) : Bool :=
  match w.place with
  | .glob => if scope ≤ 2 then decide (2 ≤ w.stage.num) else decide (scope ≤ 5) && decide (3 ≤ w.stage.num)
  | _ => false
/-- R290: a pending write lets its instruction retire: it reached its scope's memory, and PM. -/
def PWrite.retired (w : PWrite) : Bool := w.reached w.scope && decide (3 ≤ w.stage.num)
/-- Two writes touch a common byte. -/
def PWrite.overlaps (w v : PWrite) : Bool :=
  decide (w.place = v.place) && decide (w.addr < v.addr + v.bytes.length) && decide (v.addr < w.addr + w.bytes.length)
/-- A write covers a byte. -/
def PWrite.covers (w : PWrite) (pl : Place) (a : Nat) : Bool :=
  decide (w.place = pl) && decide (w.addr ≤ a) && decide (a < w.addr + w.bytes.length)
/-- An earlier write in the list, among those that satisfy a test, touches a byte of `w` (R286: per-byte order). -/
def earlier (ws : List PWrite) (w : PWrite) (p : PWrite → Bool) : Bool :=
  ((ws.takeWhile (fun v => v.id != w.id)).any (fun v => p v && v.overlaps w))
/-- Change a write by number. -/
def State.modWrite (s : State) (id : Nat) (f : PWrite → PWrite) : State :=
  { s with mem := { s.mem with writes := replaceFirst (fun w => w.id = id) f s.mem.writes } }
/-- Remove a write that has reached its home copy. -/
def State.dropWrite (s : State) (id : Nat) : State :=
  { s with mem := { s.mem with writes := dropFirst (fun w => w.id = id) s.mem.writes } }
/-- The write of a number. -/
def State.findWrite (s : State) (id : Nat) : Option PWrite := s.mem.writes.find? (fun w => w.id = id)

/-! ### What a release waits for (R180, R292) -/

/-- Whether every read of an operation has been performed. -/
def OutOp.readsDone (o : OutOp) : Bool :=
  match o.kind with
  | .load ps _ _ => ps.all (fun p => p.val.isSome)
  | .atom _ _ ls _ => ls.all (fun l => l.old.isSome)
  | _ => true
/-- Every write of a member older than operation `op` has reached the memory of a scope: stores, atomics and sent messages (R180). -/
def State.olderWrites (s : State) (r : MRef) (m : Member) (op scope : Nat) : Bool :=
  s.mem.writes.all (fun w => !(w.owner = r && decide (w.op < op)) || w.reached scope) &&
  s.mem.msgs.all (fun q => !(q.owner = r && decide (q.op < op))) &&
  m.outs.all (fun o => !(decide (o.id < op)) || (match o.kind with | .atom _ _ ls _ => ls.all (fun l => l.old.isSome) | _ => true))
/-- R292: the release of operation `op` at a scope may take its effect. -/
def State.releaseReady (s : State) (r : MRef) (m : Member) (op scope : Nat) : Bool :=
  s.olderWrites r m op scope && m.outs.all (fun o => !(decide (o.id < op)) || o.readsDone)
/-- A location and a pending write touch a common byte. -/
def Loc.meets (l : Loc) (w : PWrite) : Bool :=
  decide (l.place = w.place) && decide (l.bit < 8 * (w.addr + w.bytes.length)) && decide (8 * w.addr < l.bit + l.bits)
/-- Two locations touch a common byte. -/
def Loc.touches (a b : Loc) : Bool :=
  decide (a.place = b.place) && decide (a.bit / 8 ≤ (b.bit + b.bits - 1) / 8) && decide (b.bit / 8 ≤ (a.bit + a.bits - 1) / 8)
/-- The locations that an operation has still to read. -/
def OutOp.unread (o : OutOp) : List Loc :=
  match o.kind with
  | .load ps _ _ => (ps.filter (fun p => p.val.isNone)).map (·.loc)
  | .atom _ _ ls _ => (ls.filter (fun l => l.old.isNone)).map (·.loc)
  | _ => []
/-- R170: an older read of the member at a byte that a write will change has not been performed. -/
def Member.readPending (m : Member) (op : Nat) (w : PWrite) : Bool :=
  m.outs.any (fun o => decide (o.id < op) && o.unread.any (fun l => l.meets w))
/-- R293: an acquire older than operation `op` has not refreshed yet. -/
def Member.acqPending (m : Member) (op : Nat) : Bool := m.outs.any (fun o => decide (o.id < op) && o.acq && !o.done)
/-- Whether a read of operation `op` of the member in focus at a location may be performed: no older acquire is open (R293), no older read
of the same byte is (R170, R289), and no older write of the member to the byte is held back from OB (R289, R292). -/
def State.mayRead (s : State) (op : Nat) (l : Loc) : Bool :=
  !(s.m.acqPending op) && !(s.m.outs.any (fun o => decide (o.id < op) && o.unread.any (fun k => k.touches l))) &&
  !(s.mem.writes.any (fun w => decide (w.stage = .held) && decide (w.owner = s.ref) && decide (w.op < op) && l.meets w))

/-! ### Refresh and fill (R288, R289, R293) -/

/-- A quad's view holds the byte that a write on its way covers at an address, or a later one (R289). -/
def PWrite.seenBy (w : PWrite) (quad a : Nat) : Bool := decide (w.quad = quad) || w.seen.contains (8 * quad + (a - w.addr))
/-- A quad's view holds, at an address, a write of the package that is later than every write at the home copy (R289). -/
def State.viewLater (s : State) (quad a : Nat) : Bool :=
  s.mem.writes.any (fun w => w.covers .glob a && ((decide (w.quad = quad) && decide (w.stage = .qv)) || (decide (3 ≤ w.stage.num) && w.seenBy quad a)))
/-- A quad's view has taken the bytes of PM that satisfy a test. -/
def PWrite.noteSeen (w : PWrite) (quad : Nat) (p : Nat → Bool) : PWrite :=
  if w.quad = quad ∨ w.stage.num < 3 ∨ w.place ≠ .glob then w
  else
    let new := (List.range w.bytes.length).filter (fun k => p (w.addr + k) && !(w.seen.contains (8 * quad + k)))
    { w with seen := w.seen ++ new.map (8 * quad + ·) }
/-- A quad's view has lost the bytes that satisfy a test. -/
def PWrite.loseSeen (w : PWrite) (quad : Nat) (p : Nat → Bool) : PWrite :=
  { w with seen := w.seen.filter (fun x => !(decide (x / 8 = quad) && p (w.addr + x % 8))) }

/-- The quad view after taking PM's writes wherever they are later: every byte but those a write of the quad that has not left QV
covers. -/
def refreshQv (pm qv : Memory) (own : List PWrite) : Memory :=
  own.foldl (fun mem w => (List.range w.bytes.length).foldl (fun mem i => memPut mem (w.addr + i) (memGet qv (w.addr + i))) mem) pm
/-- PM after taking GM's writes for the lines whose GM copy is not PM itself, but for bytes that a write of this package not yet
granted covers. -/
def State.refreshPm (s : State) : Memory :=
  let other (a : Nat) : Bool := !(s.homed a) || s.remoteHeld a
  let own := s.mem.writes.filter (fun w => decide (w.place = .glob) && (decide (w.stage = .pm) || decide (w.stage = .gi)))
  let keep (a : Nat) : Bool := own.any (fun w => w.covers .glob a)
  let base := (s.mem.pm.filter (fun c => !(other c.1) || keep c.1))
  (s.mem.gm.filter (fun c => other c.1 && !(keep c.1))).foldl (fun m c => memPut m c.1 c.2) base
/-- R293: refresh the quad's view from the memory of a scope. -/
def State.refresh (s : State) (quad scope : Nat) : State :=
  if scope ≤ 2 then s
  else
    let pm := if scope = 6 then s.refreshPm else s.mem.pm
    let own := s.mem.writes.filter (fun w => w.quad = quad && decide (w.place = .glob) && decide (w.stage = .qv))
    { s with mem := { s.mem with
        pm := pm
        qv := smPut [] s.mem.qv quad (refreshQv pm (smGet [] s.mem.qv quad) own)
        writes := s.mem.writes.map (fun w => w.noteSeen quad (fun _ => true)) } }
/-- The acquire of a scope by the member in focus. -/
def State.acquire (s : State) (scope : Nat) : State := s.refresh (quadOf s.wg.core) scope

/-! ### The moves of a write (R288) -/

/-- The bytes a write puts over a copy of memory: a half byte is merged with the byte that stands there. -/
def PWrite.merged (w : PWrite) (old : Byte) : List Byte :=
  match w.half with
  | none => w.bytes
  | some up => w.bytes.map (fun b => if up then (b &&& 0xF0) ||| (old &&& 0x0F) else (b &&& 0x0F) ||| (old &&& 0xF0))
/-- enter: a held write goes into OB (R288, R292). -/
def State.mayEnter (s : State) (w : PWrite) : Bool :=
  match s.findMem w.owner with
  | none => true
  | some m =>
    (!w.rel || s.releaseReady w.owner m w.op w.scope) && !(m.acqPending w.op) && !(m.readPending w.op w) &&
    !(s.mem.writes.any (fun v => decide (v.stage = .held) && v.owner = w.owner && decide (v.id < w.id) && v.overlaps w))
/-- Enter a write into OB: it becomes the newest there. -/
def State.enterWrite (s : State) (w : PWrite) : State :=
  let s1 := s.dropWrite w.id
  { s1 with mem := { s1.mem with writes := s1.mem.writes ++ [{ w with stage := .ob }] } }
/-- Put bytes into PM. -/
def State.pmPuts (s : State) (a : Nat) : List Byte → State
  | [] => s
  | b :: bs => (s.pmPut a b).pmPuts (a + 1) bs
/-- A fenced die's stack backs a byte: writes there are dropped (R354). -/
def State.fencedByte (s : State) (pa : Nat) : Bool :=
  s.homed pa && inHbm (offOf pa) && s.plat.fenced.contains (stackOf (offOf pa) / 3)
/-- R354: a write to a line of a fenced die's stacks is dropped, and its operation reports POISON when it retires. -/
def State.noteDropped (s : State) (w : PWrite) : State :=
  if w.place = .glob ∧ s.fencedByte w.addr = true then
    s.modMem w.owner (fun m => { m with outs := m.outs.map (fun o => if o.id = w.op then { o with report := some POISON } else o) })
  else s
/-- push: a write in QV is copied to PM; where PM is the home copy it is done (R288, R369), else it is the last to have reached PM, and
writes to one byte leave PM in that order (R286, R289). -/
def State.pushWrite (s : State) (w : PWrite) : State :=
  let s1 := if s.fencedByte w.addr then s.noteDropped w else s.pmPuts w.addr w.bytes
  let s2 := s1.dropWrite w.id
  if s.homed w.addr && !(s.remoteHeld w.addr) then s2
  else { s2 with mem := { s2.mem with writes := s2.mem.writes ++ [{ w with stage := .pm }] } }
/-- drain: a write leaves OB for SP, or for QV (R288); a host-window byte has no copy but PM (R304). -/
def State.drainWrite (s : State) (w : PWrite) : State :=
  match w.place with
  | .sp core =>
    let old := smGet [] s.mem.sp core
    (s.dropWrite w.id).spPuts core w.addr (w.merged (memGet old w.addr))
  | .reg _ _ => s.dropWrite w.id
  | .glob =>
    if inHostWindow (offOf w.addr) then s.pushWrite { w with bytes := w.merged (memGet s.mem.pm w.addr), half := none }
    else
      let old := smGet [] s.mem.qv w.quad
      let bs := w.merged (memGet old w.addr)
      let s1 := (s.noteDropped w).modWrite w.id (fun w => { w with bytes := bs, half := none, stage := .qv })
      { s1 with mem := { s1.mem with qv := smPut [] s1.mem.qv w.quad (memPuts old w.addr bs) } }
/-- Drain the writes in a quad's OB that a test names, with the older ones there that each must follow (R286, R296). -/
def State.drainAll (s : State) (quad : Nat) (p : PWrite → Bool) : State :=
  let ob := s.mem.writes.filter (fun w => decide (w.quad = quad) && decide (w.stage = .ob))
  let due := ob.foldr (fun w l => if p w || l.any (fun v => v.overlaps w) then w :: l else l) []
  due.foldl (fun t w => t.drainWrite w) s
/-- A drain keeps per-byte order: no older write to the byte is still in OB of the quad. -/
def State.mayDrain (s : State) (w : PWrite) : Bool :=
  decide (w.stage = .ob) && !(earlier s.mem.writes w (fun v => v.quad = w.quad && decide (v.stage = .ob)))
/-- A push keeps per-byte order in the quad. -/
def State.mayPush (s : State) (w : PWrite) : Bool :=
  decide (w.stage = .qv) && !(earlier s.mem.writes w (fun v => v.quad = w.quad && decide (v.stage = .qv)))
/-- send: a write in PM is copied into GI (R288). -/
def State.maySend (s : State) (w : PWrite) : Bool :=
  decide (w.stage = .pm) && !(earlier s.mem.writes w (fun v => decide (v.stage = .pm)))
/-- grant: a write leaves GI for GM (R288, R373). -/
def State.mayGrant (s : State) (w : PWrite) : Bool :=
  decide (w.stage = .gi) && !(earlier s.mem.writes w (fun v => decide (v.stage = .gi)))
/-- Put bytes into GM, and into the home PM where this package is the home. -/
def State.grantWrite (s : State) (w : PWrite) : State :=
  let s1 := { s with mem := { s.mem with gm := memPuts s.mem.gm w.addr w.bytes } }
  s1.dropWrite w.id
/-- fill of the bytes of a 128-byte line that a mask names from GM into PM, or from PM into a quad's view (R288, R289). -/
def State.fillSome (s : State) (toQuad : Option Nat) (line mask : Nat) : State :=
  let as := ((List.range 128).filter (bitN mask)).map (fun i => 128 * line + i)
  match toQuad with
  | some q =>
    let own := s.mem.writes.filter (fun w => w.quad = q && decide (w.place = .glob) && decide (w.stage = .qv))
    let qv := as.foldl (fun m a => if own.any (fun w => w.covers .glob a) then m else memPut m a (memGet s.mem.pm a)) (smGet [] s.mem.qv q)
    let writes := s.mem.writes.map (fun w => w.noteSeen q (fun a => decide (a / 128 = line) && bitN mask (a % 128)))
    { s with mem := { s.mem with qv := smPut [] s.mem.qv q qv, writes := writes } }
  | none =>
    if s.homed (128 * line) && !(s.remoteHeld (128 * line)) then s
    else
      let own := s.mem.writes.filter (fun w => decide (w.place = .glob) && (decide (w.stage = .pm) || decide (w.stage = .gi)))
      let pm := as.foldl (fun m a => if own.any (fun w => w.covers .glob a) then m else memPut m a (memGet s.mem.gm a)) s.mem.pm
      { s with mem := { s.mem with pm := pm } }
/-- fill of a whole line. -/
def State.fillLine (s : State) (toQuad : Option Nat) (line : Nat) : State := s.fillSome toQuad line (2 ^ 128 - 1)
/-- The view of a quad takes a line as it stands at home, also where that is not later (R294, `cinv.pod`). -/
def State.takeHome (s : State) (quad line : Nat) : State :=
  let qv := ((List.range 128).map (fun i => 128 * line + i)).foldl (fun m a => memPut m a (s.gmByte a)) (smGet [] s.mem.qv quad)
  { s with mem := { s.mem with
      qv := smPut [] s.mem.qv quad qv
      writes := s.mem.writes.map (fun w => w.loseSeen quad (fun a => decide (a / 128 = line))) } }

/-! ### Reads (R291) -/

/-- The member's own newest write to a byte that is in OB, as the byte it gives over `old` (R291 case 1). -/
def State.ownByte (s : State) (r : MRef) (op : Nat) (pl : Place) (a : Nat) (old : Byte) : Byte :=
  s.mem.writes.foldl (fun b w =>
    if w.owner = r && decide (w.op < op) && decide (w.stage = .ob) && w.covers pl a then
      (match w.half with | none => w.bytes.getD (a - w.addr) b | some _ => (w.merged b).headD b)
    else b) old
/-- The byte that a read of the member takes from memory: SP, QV, or for an acquire the memory of its scope unless the quad holds a
later write (R291 cases 2 to 4). -/
def State.copyByte (s : State) (quad : Nat) (scope : Option Nat) (pl : Place) (a : Nat) : Byte :=
  match pl with
  | .sp core => memGet (smGet [] s.mem.sp core) a
  | .reg _ _ => 0
  | .glob =>
    let mine := s.mem.writes.any (fun w => w.quad = quad && decide (w.stage = .qv) && w.covers .glob a)
    match scope with
    | none => s.qvByte quad a
    | some sc =>
      if sc ≤ 2 ∨ mine = true then s.qvByte quad a
      else if sc = 6 then (if s.viewLater quad a then s.qvByte quad a else s.gmByte a)
      else memGet s.mem.pm a
/-- The bytes a read takes (R291): a number of `n` bytes from address `a`. -/
def State.readBytes (s : State) (r : MRef) (op quad : Nat) (scope : Option Nat) (pl : Place) (a : Nat) (n : Nat) : Nat :=
  leNat ((List.range n).map (fun i => s.ownByte r op pl (a + i) (s.copyByte quad scope pl (a + i))))
/-- The member of a name among the workgroups saved away (R348). -/
def State.savedMem (s : State) (r : MRef) : Option Member :=
  (s.eng.saves.find? (fun w => w.wu = r.wu)).bind (fun w => w.members.find? (fun m => m.id = r.mem))
/-- A vector register word of a member by name, saved away or not. -/
def State.regWord (s : State) (r : MRef) (key : Nat) : W32 :=
  match s.findMem r with
  | some m => smGet 0 m.r.v key
  | none => ((s.savedMem r).map (fun m => smGet 0 m.r.v key)).getD 0
/-- What a read of a location gives (R39, R291): its bits as a number. -/
def State.readLoc (s : State) (r : MRef) (op quad : Nat) (scope : Option Nat) (l : Loc) : Nat :=
  match l.place with
  | .reg wu mem => bitsN (s.regWord ⟨wu, mem⟩ (l.bit / 32)).toNat (l.bit % 32) l.bits +
      (if 32 < l.bits then (s.regWord ⟨wu, mem⟩ (l.bit / 32 + 32)).toNat * 2 ^ 32 else 0)
  | pl => bitsN (s.readBytes r op quad scope pl (l.bit / 8) ((l.bit % 8 + l.bits + 7) / 8)) (l.bit % 8) l.bits
/-- Whether a location is poisoned: its line, its scratchpad's 128 bytes, or its register word (R171, R314). -/
def State.locPoison (s : State) (l : Loc) : Bool :=
  match l.place with
  | .glob => s.poisoned (l.bit / 8) || s.poisoned ((l.bit + l.bits - 1) / 8)
  | .sp c => s.mem.spPsn.contains (c, l.bit / 1024)
  | .reg wu mem => ((s.findMem ⟨wu, mem⟩).map (fun m => m.r.vmark.contains (l.bit / 32))).getD false

/-! ### Issuing writes -/

/-- Write a register location of a member (R39): at most two words. -/
def State.putReg (s : State) (r : MRef) (l : Loc) (v : Nat) : State :=
  s.modMem r (fun m =>
    let w := smGet 0 m.r.v (l.bit / 32)
    let lo := l.bit % 32
    let x := w.toNat - bitsN w.toNat lo (min l.bits 32) * 2 ^ lo + (v % 2 ^ (min l.bits 32)) * 2 ^ lo
    let r1 := m.r.wv (l.bit / 1024) (l.bit / 32 % 32) (BitVec.ofNat 32 x)
    { m with r := if 32 < l.bits then r1.wv (l.bit / 1024 + 1) (l.bit / 32 % 32) (BitVec.ofNat 32 (v / 2 ^ 32)) else r1 })
/-- Note a release write (R295). -/
def State.noteRel (s : State) (pl : Place) (a : Nat) (bs : List Byte) : State :=
  { s with mem := { s.mem with rels := s.mem.rels ++ [(pl, a, bs)] } }
/-- Cut a write at aligned 8-byte chunks (R169) and enter or hold its parts (R292). -/
def State.issueWrite (s : State) (op : Nat) (l : Loc) (v : Nat) (scope : Nat) (rel : Bool) : State :=
  match l.place with
  | .reg wu mem => s.putReg ⟨wu, mem⟩ l v
  | pl =>
    let a := l.bit / 8
    let half : Option Bool := if l.bits = 4 then some (decide (l.bit % 8 = 4)) else none
    let bs := leBytes ((l.bits + 7) / 8) (if l.bits = 4 then v % 16 * 17 else v)
    (chunks a 64 bs.length).foldl (fun t c =>
      let w : PWrite :=
        { id := t.uid, quad := quadOf t.wg.core, owner := t.ref, op, place := pl, addr := a + c.1
          bytes := (bs.drop c.1).take c.2, scope, rel, half, stage := .ob }
      let hold := rel || t.m.acqPending op || t.m.readPending op w ||
        t.mem.writes.any (fun v => decide (v.stage = .held) && v.owner = t.ref && v.overlaps w)
      { t with uid := t.uid + 1
               mem := { t.mem with writes := t.mem.writes ++ [{ w with stage := if hold then .held else .ob }] } }) s

/-! ### Atomics (R176, R178, R296) -/

/-- R176: the new value, by SUB and size in bytes. -/
def atomNew (sub size old a b : Nat) : Nat :=
  let w := 8 * size
  match sub with
  | 0 => (old + a) % 2 ^ w
  | 2 => if sext w a < sext w old then a else old
  | 3 => min old a
  | 4 => if sext w old < sext w a then a else old
  | 5 => max old a
  | 6 => old &&& a
  | 7 => old ||| a
  | 8 => old ^^^ a
  | 9 => a
  | _ => if old = a then b else old
/-- R178, R296: where an atomic on a global byte is performed: 0 QV, 1 PM, 2 GM. -/
def State.atomPlace (s : State) (scope pa : Nat) : Nat :=
  if !(s.homed pa) || scope = 6 then 2 else if scope ≤ 2 then 0 else 1

end Sys2Proof.Machine
end

