-- ==== Sys2Proof/Machine/Flits.lean ====
section
/-!
DEFINITION. Flits.lean: the flit on the wire (R356 to R359) and the rules by which a message enters and leaves this package's links
(R360, R361, R383). DESIGN CHOICE (log 132): the CRC starts at 0, takes the bits of each byte from the highest, and is sent little-endian;
payload bytes 8 and 9, which R357 leaves open but for an atomic, carry `op` and `size`.
-/
namespace Sys2Proof.Machine

/-! ### Wavelengths (R356, R359, R364) -/

/-- W of a set of live wavelengths: the largest multiple of 4 not above their number. -/
def widthOf (waves : BitVec 16) : Nat := popcount 16 waves.toNat / 4 * 4
/-- The wavelengths that a link uses: the W lowest of those that live, ascending. -/
def wavesUsed (waves : BitVec 16) : List Nat := ((List.range 16).filter (fun k => waves.getLsbD k)).take (widthOf waves)
/-- The beats of a flit: each wavelength in use with its bytes. -/
def stripe (waves : BitVec 16) (flit : List Byte) : List (Nat × List Byte) :=
  let n := 144 / widthOf waves
  ((wavesUsed waves).zipIdx).map (fun x => (x.1, (flit.drop (n * x.2)).take n))
/-- The flit that beats carry: none unless they are those of the wavelengths in use. -/
def unstripe (waves : BitVec 16) (beats : List (Nat × List Byte)) : Option (List Byte) :=
  let n := 144 / widthOf waves
  if beats.map (·.1) = wavesUsed waves ∧ beats.all (fun b => b.2.length = n) = true then some (beats.flatMap (·.2)) else none

/-! ### The CRC (R359) -/

/-- One bit of the CRC-64 division. -/
def crcStep (r : Nat) : Nat := if bitN r 63 then (2 * r % 2 ^ 64) ^^^ 0x42F0E1EBA9EA3693 else 2 * r
/-- One byte. -/
def crcByte (r : Nat) (b : Byte) : Nat := crcStep (crcStep (crcStep (crcStep (crcStep (crcStep (crcStep (crcStep (r ^^^ (b.toNat * 2 ^ 56)))))))))
/-- The CRC of some bytes. -/
def crc64 (bs : List Byte) : Nat := bs.foldl crcByte 0

/-! ### Headers and payloads (R357, R358) -/

/-- The virtual channel of a TYPE (R360): 0 REQ, 1 FWD, 2 RSP, 3 link control; a barrier completion travels on RSP (R358). -/
def vcOf (kind : Nat) (completion : Bool) : Nat :=
  if kind = 14 then (if completion then 2 else 0)
  else if 1 ≤ kind ∧ kind ≤ 6 then 0 else if 7 ≤ kind ∧ kind ≤ 9 then 1 else if 10 ≤ kind ∧ kind ≤ 13 then 2 else 3
/-- A flit's header. -/
structure FlitHdr where
  kind : Nat := 0
  vc : Nat := 0
  seq : Nat := 0
  ackseq : Nat := 0
  ackv : Bool := false
  psn : Bool := false
  src : Nat := 0
  dst : Nat := 0
  tag : Nat := 0
deriving DecidableEq, Repr
/-- Its 64 bits. -/
def FlitHdr.word (h : FlitHdr) : Nat :=
  h.kind * 2 ^ 60 + h.vc * 2 ^ 58 + h.seq * 2 ^ 46 + h.ackseq * 2 ^ 34 + b2n h.ackv * 2 ^ 33 + b2n h.psn * 2 ^ 32 + h.src * 2 ^ 24 + h.dst * 2 ^ 16 + h.tag
/-- A header's fields. -/
def hdrOf (w : Nat) : FlitHdr :=
  { kind := bitsN w 60 4, vc := bitsN w 58 2, seq := bitsN w 46 12, ackseq := bitsN w 34 12, ackv := bitN w 33, psn := bitN w 32
    src := bitsN w 24 8, dst := bitsN w 16 8, tag := bitsN w 0 16 }
/-- A flit: header, payload filled up with zeros, CRC. -/
def flitBytes (h : FlitHdr) (payload : List Byte) : List Byte :=
  let body := leBytes 8 h.word ++ (payload ++ List.replicate (128 - payload.length) 0)
  body ++ leBytes 8 (crc64 body)
/-- The byte mask of a message's data. -/
def msgMask (m : FabMsg) : Nat := (m.data.map (fun b => 2 ^ b.1)).sum
/-- The first payload of a message that names a line. -/
def msgFirst (m : FabMsg) : List Byte :=
  leBytes 8 (128 * m.line) ++ leBytes 1 m.op ++ leBytes 1 m.size ++ List.replicate 6 0 ++ leBytes 16 (msgMask m) ++ leBytes 8 m.opa.toNat ++ leBytes 8 m.opb.toNat
/-- The 128 data bytes of a message, those outside its mask zero. -/
def msgLine (m : FabMsg) : List Byte := (List.range 128).map (fun i => ((m.data.find? (fun b => b.1 = i)).map (·.2)).getD 0)
/-- The payloads of a message's flits: one, or two of TYPE 4 and TYPE 6; TYPE 10 carries the line alone, an atomic's reply in its first 8
bytes. -/
def msgPayloads (m : FabMsg) : List (List Byte) :=
  if m.kind = 10 then [if m.op = 1 then leBytes 8 m.opa.toNat else msgLine m]
  else if m.kind = 4 ∨ m.kind = 6 then [msgFirst m, msgLine m] else [(msgFirst m).take 16]
/-- A message as flits, given what its link says in the header. -/
def msgFlits (m : FabMsg) (ack : Option Nat) : List (List Byte) :=
  ((msgPayloads m).zipIdx).map (fun x => flitBytes
    { kind := m.kind, vc := vcOf m.kind false, seq := (m.seq.getD 0 + x.2) % 4096, ackseq := ack.getD 0, ackv := ack.isSome, psn := m.psn
      src := m.src, dst := m.dst, tag := m.tag } x.1)
/-- The payload of a barrier message (R358). -/
def barPayload (m : BarMsg) : List Byte :=
  leBytes 8 (m.pkg * 2 ^ 56 + m.die * 2 ^ 54 + m.part * 2 ^ 48 + m.ctxid * 2 ^ 32 + m.node) ++
  leBytes 8 (m.phase * 2 ^ 32 + m.n * 2 ^ 8 + m.bar * 2 ^ 4 + m.op) ++ leBytes 8 m.expect
/-- A barrier message as its flit. -/
def barFlit (m : BarMsg) (ack : Option Nat) : List Byte :=
  flitBytes { kind := 14, vc := vcOf 14 (m.op = 1), seq := m.seq.getD 0, ackseq := ack.getD 0, ackv := ack.isSome, src := m.src, dst := m.dst } (barPayload m)
/-- A message as the wavelengths of a link carry it: its flits, each in beats (R359). -/
def onWire (l : LinkSt) (m : FabMsg) : List (List (Nat × List Byte)) := (msgFlits m (some ((l.dn.got + 4095) % 4096))).map (stripe l.waves)
/-- The header of received bytes. -/
def hdrIn (bs : List Byte) : FlitHdr := hdrOf (leNat (bs.take 8))
/-- Payload bytes of a flit, as a number. -/
def payNat (bs : List Byte) (at' n : Nat) : Nat := leNat ((bs.drop (8 + at')).take n)
/-- The zero fields of a payload are zero (R357, R358). -/
def zerosIn (bs : List Byte) : Bool :=
  let k := (hdrIn bs).kind
  if k = 14 then bitsN (payNat bs 8 8) 2 2 == 0 && bitsN (payNat bs 16 8) 24 40 == 0 && payNat bs 24 104 == 0
  else if k = 0 ∨ k = 10 ∨ k = 15 then true
  else bitsN (payNat bs 0 8) 57 7 == 0 && bitsN (payNat bs 0 8) 0 7 == 0
/-- A received flit is good: its CRC is right and, of a message's first flit, its zero fields are zero. -/
def flitGood (first : Bool) (bs : List Byte) : Bool :=
  bs.length == 144 && leNat (bs.drop 136) == crc64 (bs.take 136) && (!first || zerosIn bs)
/-- The message that good flits carry; `lineOf` gives the line of a TAG of the receiver (TYPE 10). -/
def msgIn (lineOf : Nat → Nat) (flits : List (List Byte)) : FabMsg :=
  let bs := flits.headD []
  let h := hdrIn bs
  let m : FabMsg := { kind := h.kind, src := h.src, dst := h.dst, tag := h.tag, psn := h.psn, seq := some h.seq }
  let body := (flits.getD 1 []).drop 8
  if h.kind = 10 then { m with line := lineOf h.tag, data := (List.range 128).map (fun i => (i, (bs.drop 8).getD i 0)) }
  else
    let mask := payNat bs 16 16
    { m with
      line := payNat bs 0 8 / 128, op := payNat bs 8 1
      size := if h.kind = 6 then popcount 128 mask else payNat bs 9 1
      data := ((List.range 128).filter (bitN mask)).map (fun i => (i, body.getD i 0))
      opa := BitVec.ofNat 64 (payNat bs 32 8), opb := BitVec.ofNat 64 (payNat bs 40 8) }
/-- The barrier message that a good flit carries. -/
def barIn (bs : List Byte) : BarMsg :=
  let h := hdrIn bs
  let a := payNat bs 0 8
  let b := payNat bs 8 8
  { pkg := bitsN a 56 8, die := bitsN a 54 2, part := bitsN a 48 6, ctxid := bitsN a 32 16, node := bitsN a 0 32
    phase := bitsN b 32 32, n := bitsN b 8 24, bar := bitsN b 4 4, op := bitsN b 0 2, expect := payNat bs 16 8
    src := h.src, dst := h.dst, seq := some h.seq }

/-! ### Planes and links (R356, R367) -/

/-- The hash H of a pod physical address (R367). -/
def hashOf (pa : Nat) : Nat := bitsN pa 7 12 ^^^ bitsN pa 19 12 ^^^ bitsN pa 31 12 ^^^ bitsN pa 43 12 ^^^ bitsN pa 55 2
/-- An entry of REMAP; at reset REMAP[e] = e mod 48. -/
def State.remapAt (s : State) (e : Nat) : Nat := (smFind s.fab.remap e).getD (e % 48)
/-- An entry of REMAP as other packages and the switches hold it. -/
def State.otherRemapAt (s : State) (e : Nat) : Nat := (smFind s.fab.swRemap e).getD (s.remapAt e)
/-- The plane of a line, by its number. -/
def State.planeOf (s : State) (line : Nat) : Nat := s.remapAt (hashOf (128 * line))
/-- R367: this package and the others place a line on different planes, so that it has two directories. -/
def State.splitLine (s : State) (line : Nat) : Bool := s.otherRemapAt (hashOf (128 * line)) != s.planeOf line
/-- The plane of a barrier (R381). -/
def State.barPlane (s : State) (m : BarMsg) : Nat := s.remapAt ((m.node * 16 + m.bar) % 4096)
/-- This package's optical link to a plane. -/
def State.link (s : State) (plane : Nat) : LinkSt := smGet {} s.fab.links plane
/-- Change a link. -/
def State.modLink (s : State) (plane : Nat) (f : LinkSt → LinkSt) : State :=
  { s with fab := { s.fab with links := smPut {} s.fab.links plane (f (s.link plane)) } }
/-- A link carries traffic: it is not down, and no window holds it (R363, R364). -/
def LinkSt.open (l : LinkSt) : Bool := !l.down && !l.window
/-- The number of a direction of a link: twice the link, plus 1 for the direction to this package. -/
def wayOf (link : Nat) (up : Bool) : Nat := 2 * link + b2n (!up)
/-- The link of such a number. -/
def wayLink (way : Nat) : Nat := way / 2
/-- Its direction: from this package. -/
def wayUp (way : Nat) : Bool := way % 2 == 0
/-- One direction of a link. -/
def LinkSt.dir (l : LinkSt) (up : Bool) : LinkDir := if up then l.up else l.dn
/-- Change one direction. -/
def LinkSt.modDir (l : LinkSt) (up : Bool) (f : LinkDir → LinkDir) : LinkSt := if up then { l with up := f l.up } else { l with dn := f l.dn }

/-! ### Credits, sequence numbers, acknowledgements (R360, R361, R383) -/

/-- A count scaled by W over 16, rounded up (R383). -/
def scaledUp (n w : Nat) : Nat := (n * w + 15) / 16
/-- A time scaled by 16 over W, rounded up (R383). -/
def scaledTime (n w : Nat) : Nat := if w = 0 then n * 16 else (n * 16 + w - 1) / w
/-- The credit window of a channel at W: 256 flits at 16. -/
def creditWindow (w : Nat) : Nat := scaledUp 256 w
/-- The acknowledgement timeout at W. -/
def ackLimit (w : Nat) : Nat := scaledTime 40960 w
/-- Flits sent and not acknowledged. -/
def LinkDir.pending (d : LinkDir) : Nat := (d.seq + 4096 - d.acked) % 4096
/-- Flits take the next sequence numbers. -/
def LinkDir.send (d : LinkDir) (n : Nat) : LinkDir := { d with seq := (d.seq + n) % 4096 }
/-- Everything received in order is acknowledged. -/
def LinkDir.ack (d : LinkDir) : LinkDir := { d with acked := d.got, age := 0 }
/-- Flits are received in order, at the latest after every 32 acknowledged; one that was replayed is accepted. -/
def LinkDir.take (d : LinkDir) (n : Nat) : LinkDir :=
  let d1 := { d with got := (d.got + n) % 4096, replays := 0, replayFrom := none }
  if 32 ≤ (d1.got + 4096 - d1.acked) % 4096 then d1.ack else d1

/-- How a message crosses this package's links: plane, channel, flits, and the directions it takes. -/
structure Crossing where
  plane : Nat
  vc : Nat
  flits : Nat
  src : Nat
  dst : Nat
  up : Bool
  down : Bool
deriving DecidableEq, Repr
/-- The flits of a message (R357). -/
def flitsOf (m : FabMsg) : Nat := if m.kind = 4 ∨ m.kind = 6 then 2 else 1
/-- A fabric message's crossing: requests, data and answers go up from their source, what the switch sends and data come down to
their destination. -/
def State.crossing (s : State) (m : FabMsg) : Crossing :=
  { plane := s.planeOf m.line, vc := vcOf m.kind false, flits := flitsOf m, src := m.src, dst := m.dst
    up := (decide (1 ≤ m.kind) && decide (m.kind ≤ 6)) || m.kind == 10 || (m.kind == 11 && m.op != 1)
    down := (decide (7 ≤ m.kind) && decide (m.kind ≤ 10)) || m.kind == 12 || m.kind == 13 || (m.kind == 11 && (m.op == 1 || m.op == 2)) }
/-- A barrier message's crossing: increments up, completions down (R358). -/
def State.barCrossing (s : State) (m : BarMsg) : Crossing :=
  { plane := s.barPlane m, vc := vcOf 14 (m.op = 1), flits := 1, src := m.src, dst := m.dst, up := m.op != 1, down := m.op == 1 }
/-- The directions of this package's link that a crossing takes. -/
def State.dirsOf (s : State) (c : Crossing) : List Bool :=
  (if c.up && c.src == s.plat.pkg then [true] else []) ++ (if c.down && c.dst == s.plat.pkg then [false] else [])
/-- Two crossings share one direction of one link, whoever's it is: their order there stays (R361). -/
def Crossing.shares (a b : Crossing) : Bool := a.plane == b.plane && ((a.up && b.up && a.src == b.src) || (a.down && b.down && a.dst == b.dst))
/-- Every crossing on its way, with whether it has left its sender. -/
def State.crossings (s : State) : List (Crossing × Bool) :=
  s.fab.net.map (fun m => (s.crossing m, m.seq.isSome)) ++ s.fab.barNet.map (fun m => (s.barCrossing m, m.seq.isSome))
/-- Credits of a channel in use: flits sent that have not left the receiver's buffer. -/
def State.creditsUsed (s : State) (plane vc : Nat) (up : Bool) : Nat :=
  ((s.crossings.filter (fun x => x.2 && x.1.plane == plane && x.1.vc == vc && (s.dirsOf x.1).contains up)).map (·.1.flits)).sum
/-- A message may leave its sender: each link it takes carries traffic, has a place in its replay buffer of 512 and credits left. -/
def State.mayCross (s : State) (c : Crossing) : Bool :=
  (s.dirsOf c).all (fun up =>
    let l := s.link c.plane
    l.open && decide ((l.dir up).pending + c.flits ≤ 512) && decide (s.creditsUsed c.plane c.vc up + c.flits ≤ creditWindow (widthOf l.waves)))
/-- The SEQ of a message that leaves now. -/
def State.seqOf (s : State) (c : Crossing) : Nat := (((s.dirsOf c).head?).map (fun up => ((s.link c.plane).dir up).seq)).getD 0
/-- Its flits take their sequence numbers. -/
def State.cross (s : State) (c : Crossing) : State := (s.dirsOf c).foldl (fun t up => t.modLink c.plane (·.modDir up (·.send c.flits))) s
/-- A message may be received: each link it takes carries traffic, and does not discard flits until a replay. -/
def State.arrives (s : State) (c : Crossing) : Bool := (s.dirsOf c).all (fun up => (s.link c.plane).open && !(((s.link c.plane).dir up).nak))
/-- Its flits have been received; every flit carries the acknowledgement of the other direction (ACKSEQ). -/
def State.received (s : State) (c : Crossing) : State :=
  (s.dirsOf c).foldl (fun t up => t.modLink c.plane (fun l => (l.modDir up (·.take c.flits)).modDir (!up) (·.ack))) s
/-- A message enters the fabric: it leaves its sender at once, or is held there behind what the sender holds (R361, R364). -/
def State.send (s : State) (m : FabMsg) : State :=
  let c := s.crossing m
  if (s.fab.net.any (fun x => x.seq.isNone && (s.crossing x).shares c)) || !(s.mayCross c) then
    { s with fab := { s.fab with net := s.fab.net ++ [{ m with seq := none }] } }
  else ({ s with fab := { s.fab with net := s.fab.net ++ [{ m with seq := some (s.seqOf c) }] } } : State).cross c
/-- A barrier message enters the fabric. -/
def State.sendBar (s : State) (m : BarMsg) : State :=
  let c := s.barCrossing m
  if (s.fab.barNet.any (fun x => x.seq.isNone && (s.barCrossing x).shares c)) || !(s.mayCross c) then
    { s with fab := { s.fab with barNet := s.fab.barNet ++ [{ m with seq := none }] } }
  else ({ s with fab := { s.fab with barNet := s.fab.barNet ++ [{ m with seq := some (s.seqOf c) }] } } : State).cross c
/-- A held message leaves, unless one before it is held on its link. -/
def State.release (s : State) (m : FabMsg) : State :=
  let c := s.crossing m
  let before := s.fab.net.takeWhile (fun x => x != m)
  if (before.any (fun x => x.seq.isNone && (s.crossing x).shares c)) || !(s.mayCross c) then s
  else ({ s with fab := { s.fab with net := replaceFirst (fun x => x == m) (fun x => { x with seq := some (s.seqOf c) }) s.fab.net } } : State).cross c
/-- The same for a barrier message. -/
def State.releaseBar (s : State) (m : BarMsg) : State :=
  let c := s.barCrossing m
  let before := s.fab.barNet.takeWhile (fun x => x != m)
  if (before.any (fun x => x.seq.isNone && (s.barCrossing x).shares c)) || !(s.mayCross c) then s
  else ({ s with fab := { s.fab with barNet := replaceFirst (fun x => x == m) (fun x => { x with seq := some (s.seqOf c) }) s.fab.barNet } } : State).cross c
/-- What senders hold leaves as far as it may, in order. -/
def State.pump (s : State) : State :=
  let s1 := (s.fab.net.filter (fun m => m.seq.isNone)).foldl (fun t m => t.release m) s
  (s1.fab.barNet.filter (fun m => m.seq.isNone)).foldl (fun t m => t.releaseBar m) s1
/-- The bytes of a line at GM, as a data message carries them. -/
def State.lineData (s : State) (line : Nat) : List (Nat × Byte) := (List.range 128).map (fun i => (i, s.gmByte (128 * line + i)))
/-- A package evicts a peer line: clean, or with its data; the line waits in the eviction buffer for the acknowledgement (R372). -/
def State.evictLine (s : State) (line : Nat) : State :=
  let st := smGet 0 s.fab.peer line
  if st = 0 then s
  else
    let m : FabMsg := { kind := if 3 ≤ st then 4 else 5, src := s.plat.pkg, dst := pkgOf (128 * line), tag := s.fab.tag % 65536, line := line
                        data := if 3 ≤ st then s.lineData line else [] }
    ({ s with fab := { s.fab with
      tag := s.fab.tag + 1, peer := smDel s.fab.peer line, evict := smPut 0 s.fab.evict line st } } : State).send m
/-- R368, R374, R382: a line's next transaction may be carried out: none is in progress, and the link to its plane carries traffic. -/
def State.lineReady (s : State) (line : Nat) : Bool := !(s.fab.trans.any (fun t => t.line = line)) && (s.link (s.planeOf line)).open

end Sys2Proof.Machine
end

