-- ==== Sys2Proof/Machine/Flags.lean ====
section
/-!
DEFINITION. Flags.lean: the status bits (R18, R19) and the integer results that raise them.
-/
namespace Sys2Proof.Machine

/-- `%istat`.DIVZ (R18). -/
def DIVZ : W64 := 0x1
/-- `%istat`.IMIN (R18). -/
def IMIN : W64 := 0x2
/-- `%fstat`.NX (R19). -/
def NX : W64 := 0x01
/-- `%fstat`.UF (R19). -/
def UF : W64 := 0x02
/-- `%fstat`.OF (R19). -/
def OF : W64 := 0x04
/-- `%fstat`.DZ (R19). -/
def DZ : W64 := 0x08
/-- `%fstat`.NV (R19). -/
def NV : W64 := 0x10
/-- `%fstat`.SAT (R19). -/
def SAT : W64 := 0x20

/-- The smallest value of a type of `w` bits. -/
def tMin (w : Nat) (sgn : Bool) : Int := if sgn then -(2 ^ (w - 1)) else 0
/-- The largest value of a type of `w` bits. -/
def tMax (w : Nat) (sgn : Bool) : Int := if sgn then 2 ^ (w - 1) - 1 else 2 ^ w - 1
/-- Clamp an exact result to a type (R139). -/
def clampT (w : Nat) (sgn : Bool) (x : Int) : Int := max (tMin w sgn) (min (tMax w sgn) x)
/-- An operand of `w` bits as its type reads it (R138). -/
def valT (w : Nat) (sgn : Bool) (v : Nat) : Int := if sgn then sext w v else ((v % 2 ^ w : Nat) : Int)
/-- An exact result narrowed to `w` bits: wrapped, or with `.sat` clamped (R139). -/
def narrow (w : Nat) (sgn sat : Bool) (x : Int) : Nat := wrapN w (if sat then clampT w sgn x else x)
/-- The carry out of bit w - 1 of a sum (R139 `iadc`). -/
def carryOut (w a b c : Nat) : Bool := decide (2 ^ w ≤ a + b + c)

/-- R140: quotient, remainder and the status bits of one division. -/
def divRem (w : Nat) (sgn : Bool) (a b : Nat) : Nat × Nat × W64 :=
  let x := valT w sgn a
  let y := valT w sgn b
  if y = 0 then
    (if sgn then (if 0 ≤ x then 2 ^ (w - 1) - 1 else 2 ^ (w - 1)) else 2 ^ w - 1, a % 2 ^ w, DIVZ)
  else if sgn ∧ x = tMin w true ∧ y = -1 then (2 ^ (w - 1), 0, IMIN)
  else (wrapN w (x.tdiv y), wrapN w (x - y * x.tdiv y), 0)

/-- Integer comparison by the code of R143: eq, ne, lt, le, gt, ge. -/
def icc (cc : Nat) (x y : Int) : Bool :=
  match cc with
  | 0 => decide (x = y)
  | 1 => decide (x ≠ y)
  | 2 => decide (x < y)
  | 3 => decide (x ≤ y)
  | 4 => decide (y < x)
  | _ => decide (y ≤ x)

end Sys2Proof.Machine
end

