-- ==== Sys2Proof/Machine/Operands.lean ====
section
/-!
DEFINITION. Operands.lean: the operand forms of format A (R97, R98, R136 to R138) and the one shape in which its
instructions execute.
-/
namespace Sys2Proof.Machine

/-- TYPE codes of 64-bit types: i64, n64 (R98). -/
def wideT (ty : Nat) : Bool := ty == 14 || ty == 15
/-- TYPE codes read as two's complement: i8, i16, i32, i64 (R98, R138). -/
def signedT (ty : Nat) : Bool := ty == 8 || ty == 10 || ty == 12 || ty == 14
/-- The operand width of a TYPE code (R138). -/
def widthT (ty : Nat) : Nat := if wideT ty then 64 else 32

/-- Whether a source of this kind is 64 bits wide. -/
def SKind.wide (k : SKind) (ty : Nat) : Bool :=
  match k with
  | .w64 => true
  | .w32 => false
  | _ => wideT ty

/-- The specifier of a field of a source kind that R136 accepts; a predicate in a value field is refused (log 10). -/
def SKind.fieldOk (k : SKind) (sp : Spec) : Bool :=
  let n := sp.toNat
  match k with
  | .none => n == 0
  | .val => !(decide (344 ≤ n) && decide (n ≤ 351))
  | .w32 => !(decide (344 ≤ n) && decide (n ≤ 351))
  | .w64 => !(decide (344 ≤ n) && decide (n ≤ 351))
  | .pred => decide (344 ≤ n) && decide (n ≤ 351)
  | .vec => decide (n < 256)
  | .imm => n == 511
  | .valOrPred => true

/-- The destinations R136 and R137 accept for an entry; 511 is left to R12. -/
def DKind.fieldOk (k : DKind) (sp : Spec) : Bool :=
  let n := sp.toNat
  let gp := decide (n < 320) || n == 511 || (decide (352 ≤ n) && decide (n < 393)) || decide (395 ≤ n)
  match k with
  | .any => gp || n == 351
  | .anyPred => gp || (decide (344 ≤ n) && decide (n ≤ 351))
  | .pred => decide (344 ≤ n) && decide (n ≤ 350)
  | .scalar => decide (256 ≤ n) && decide (n < 320)
  | .vector => decide (n < 256)
  | .mov => gp || (decide (336 ≤ n) && decide (n < 340)) || (decide (344 ≤ n) && decide (n ≤ 351)) || n == 393 || n == 394
  | .movi => gp || (decide (336 ≤ n) && decide (n < 340))

/-- The value sources of an entry, with their kinds. -/
def AShape.srcs (sh : AShape) (f : FA) : List (SKind × Spec) := [(sh.a, f.sa), (sh.b, f.sb), (sh.c, f.sc)]

/-- Whether the destination executes once (R137): s, sq or a special register. -/
def onceDst (n : Nat) : Bool := (decide (256 ≤ n) && decide (n < 344)) || decide (384 ≤ n)

/-- The field checks of a format A entry (R136, R137), in the order TYPE, RND, SAT, SUB, operands, IMM. -/
def AShape.field (sh : AShape) (f : FA) (scalar : Bool) : Option Nat :=
  if !(sh.types.contains f.ty.toNat) then some ILLOP
  else if !(sh.rnds.contains f.rnd.toNat) then some ILLOP
  else if f.sat = 1 && !sh.sat then some ILLOP
  else if !(sh.subs.contains f.sub.toNat) then some ILLOP
  else if !(sh.dk.fieldOk f.dst) then some ILLOP
  else if (sh.srcs f).any (fun k => !(k.1.fieldOk k.2)) then some ILLOP
  else if !scalar && onceDst f.dst.toNat && !sh.vecOk && (sh.srcs f).any (fun k => k.1 != .none && decide (k.2.toNat < 256))
    then some ILLOP
  else if f.imm != 0 && !sh.immOwn && !((sh.srcs f).any (fun k => k.1 != .none && k.2.toNat == 511)) then some ILLOP
  else none

/-- Whether the destination holds 64 bits. -/
def AShape.dstWide (sh : AShape) (f : FA) : Bool := (sh.dwide || wideT f.ty.toNat) && !sh.dnarrow

/-- The register uses of a format A slot: destination, then sources (R12, R21). -/
def AShape.uses (sh : AShape) (f : FA) : List SpecUse :=
  { spec := f.dst, pair := sh.dstWide f, wr := true } ::
  ((sh.srcs f).filter (fun k => k.1 != .none)).map (fun k =>
    { spec := k.2, pair := k.1.wide f.ty.toNat && k.1 != .pred, ok511 := true })

/-- The lanes in which a slot with this destination executes (R137): each guarded lane, or once. -/
def State.execLanes (s : State) (h : Hdr) (dst : Spec) : List Nat :=
  if onceDst dst.toNat then (if s.guardLow h then [lowLane s.active] else []) else s.guarded h

/-- Write one lane's result to the destination (R137, R138): a predicate, a vector word or pair, or a scalar. -/
def State.putDst (s : State) (dst : Spec) (wide sgn : Bool) (lane : Nat) (x : W64) : State :=
  let n := dst.toNat
  if n < 256 then
    let lo := s.modR (·.wv n lane (x.setWidth 32))
    if wide then lo.modR (·.wv (n + 1) lane ((x >>> 32).setWidth 32)) else lo
  else if 344 ≤ n ∧ n ≤ 350 then s.modR (·.wp (n - 344) lane (x != 0))
  else s.wrScalar n (if wide then x else if sgn then (x.setWidth 32).signExtend 64 else (x.setWidth 32).setWidth 64)

/-- Set sticky bits (R18, R19). -/
def State.sticky (s : State) (i f : W64) : State :=
  s.modR (fun r => { r with istat := r.istat ||| i, fstat := r.fstat ||| f })

/-- Write the results of the executing lanes, lowest first. -/
def State.putLanes (s : State) (dst : Spec) (wide sgn : Bool) (res : List (Nat × LaneRes)) : State :=
  res.foldl (fun t lr => (t.putDst dst wide sgn lr.1 lr.2.val).sticky lr.2.istat lr.2.fstat) s

/-- The lanes among some that read a marked word (R171). -/
def State.markedLanes (s : State) (uses : List SpecUse) (ls : List Nat) : List Nat :=
  ls.filter (fun l => s.marked uses [l])

/-- The effect of a format A slot once it issues: nothing when no lane executes; POISON when a source is marked; else every
executing lane's result, computed from the registers as they stood. -/
def State.effectA (s : State) (uses : List SpecUse) (dst : Spec) (wide sgn : Bool) (ls : List Nat)
    (lane : Nat → LaneRes) : State :=
  if ls = [] then s.advance
  else if s.marked uses ls then s.raise { code := POISON, lanes := maskOf (s.markedLanes uses ls) }
  else ((s.putLanes dst wide sgn (ls.map (fun l => (l, lane l)))).popIqs uses).advance

/-- A format A instruction (R96, R136 to R138): its checks, its stalls, then its effect in every executing lane. -/
def runA (s : State) (h : Hdr) (f : FA) (cls : Cls) (sh : AShape) (lane : Nat → LaneRes) : Out :=
  let uses := sh.uses f
  let ls := s.execLanes h f.dst
  runSlot s (issueFault s h (classOk s cls false h.role.toNat) uses (sh.field f s.m.scalar))
    (s.hazard uses || (ls != [] && s.iqEmpty uses))
    (fun s => s.effectA uses f.dst (sh.dstWide f) (signedT f.ty.toNat) ls lane)

/-- A source operand of an entry in a lane, as the width its kind reads (R138). -/
def State.rdA (s : State) (k : SKind) (f : FA) (sp : Spec) (lane : Nat) : Nat :=
  match k with
  | .pred => b2n (s.rdPred sp lane)
  | .valOrPred => if 344 ≤ sp.toNat ∧ sp.toNat ≤ 351 then b2n (s.rdPred sp lane)
      else if wideT f.ty.toNat then (s.rd64 sp f.imm (signedT f.ty.toNat) lane).toNat else (s.rd32 sp f.imm lane).toNat
  | k => if k.wide f.ty.toNat then (s.rd64 sp f.imm (signedT f.ty.toNat) lane).toNat else (s.rd32 sp f.imm lane).toNat

/-- A result without status bits. -/
def plain (v : Nat) : LaneRes := { val := BitVec.ofNat 64 v }

/-- A format A entry of up to three value operands and a result of the type's width, no status. -/
def runOp (s : State) (h : Hdr) (f : FA) (cls : Cls) (sh : AShape) (op : Nat → Nat → Nat → Nat) : Out :=
  runA s h f cls sh (fun l => plain (op (s.rdA sh.a f f.sa l) (s.rdA sh.b f f.sb l) (s.rdA sh.c f f.sc l)))

end Sys2Proof.Machine

namespace Sys2Proof

/-- The operand width of a format A slot's type (R138). -/
def FA.w (f : FA) : Nat := Machine.widthT f.ty.toNat
/-- Whether the slot's type reads two's complement (R138). -/
def FA.sg (f : FA) : Bool := Machine.signedT f.ty.toNat

end Sys2Proof
end

