-- ==== Sys2Proof/Machine/Access.lean ====
section
/-!
DEFINITION. Access.lean: how a memory access forms its addresses, resolves and checks them in every lane, and how an
operation's data comes back (R167 to R171, R182).
-/
namespace Sys2Proof.Machine

/-! ### Spaces (R168) -/

/-- The scratchpad footprint of the workgroup in focus, in bytes. -/
def State.footBytes (s : State) : Nat := s.wg.launch.scr * 1024
/-- The workgroup of a rank in the cluster group of the workgroup in focus (R28). -/
def State.rankWg (s : State) (rank : Nat) : Option Workgroup :=
  if rank = s.wg.crank then some s.wg else (s.wg.group[rank]?).bind (fun wu => s.findWu wu)
/-- A range of a scratchpad footprint, the issuer's own or that of a rank; outside it PERM. -/
def State.spLoc (s : State) (rank : Option Nat) (off n : Nat) : Except (Nat × Nat) Loc :=
  match (match rank with | none => some s.wg | some k => s.rankWg k) with
  | none => .error (PERM, 2)
  | some w => if off + n ≤ s.footBytes then .ok ⟨.sp w.core, 8 * (w.spBase + off), 8 * n⟩ else .error (PERM, 2)
/-- The base of the scratchpad window of the generic space. -/
def winSc : Nat := 0x0FFFFFFFFF000000
/-- The base of the cluster window of the generic space. -/
def winCl : Nat := 0x0FFFFFFFFE000000
/-- A cluster address. -/
def State.clLoc (s : State) (a n : Nat) : Except (Nat × Nat) Loc :=
  if 2 ^ 24 ≤ a then .error (PERM, 2) else s.spLoc (some (a / 2 ^ 22)) (a % 2 ^ 22) n
/-- A global address: its location, and the virtual address it was translated from; the generic windows never translate. -/
def State.glLoc (s : State) (a n need : Nat) : Except (Nat × Nat) (Loc × Option Nat) :=
  if winCl ≤ a ∧ a < 2 ^ 60 then .error (XLATE, 1)
  else match s.xlate a need with
    | .error f => .error f
    | .ok pa => .ok (⟨.glob, 8 * pa, 8 * n⟩, some a)
/-- With no virtual address. -/
def noVa (r : Except (Nat × Nat) Loc) : Except (Nat × Nat) (Loc × Option Nat) :=
  match r with | .ok l => .ok (l, none) | .error f => .error f
/-- R168: resolve `n` bytes at an address of a space. -/
def State.resolve (s : State) (sp a n need : Nat) : Except (Nat × Nat) (Loc × Option Nat) :=
  match sp with
  | 2 => noVa (s.spLoc none a n)
  | 3 => noVa (s.clLoc a n)
  | 1 => s.glLoc a n need
  | _ =>
    if winSc ≤ a ∧ a < winSc + 2 ^ 24 then noVa (s.spLoc none (a - winSc) n)
    else if winCl ≤ a ∧ a < winCl + 2 ^ 24 then noVa (s.clLoc (a - winCl) n)
    else s.glLoc a n need

/-! ### Footprints under relayout (R52) -/

/-- R39: the workgroup of a workgroup's kernel that stands in a quad of its die, of a rank. -/
def State.quadWg (s : State) (w : Workgroup) (quad rank : Nat) : Option Workgroup :=
  s.allWgs.find? (fun x => decide (x.node = w.node) && decide (x.nodeId = w.nodeId) && decide (dieOf x.core = dieOf w.core) &&
    decide (quadOf x.core % 64 = quad) && decide (x.crank = rank) && x.stop != .ended)
/-- The workgroups in whose scratchpads a scratchpad layout of a workgroup lies (R39): its own, those of the ranks that a CORE field
names, or with a QUAD field those of its kernel in the quads that field names. -/
def State.spadOwners (s : State) (w : Workgroup) (img : Nat) : List Workgroup :=
  let ranks := List.range (2 ^ lyWidth img 5)
  if (lyLevels img).any (fun l => l.1 = 6) then
    (List.range (2 ^ lyWidth img 6)).flatMap (fun q => ranks.filterMap (s.quadWg w q))
  else if (lyLevels img).any (fun l => l.1 = 5) then (w.group.take (2 ^ lyWidth img 5)).filterMap s.findWu
  else [w]
/-- A location, or the virtual address it was reached by, lies in the footprint of a relayout in flight. -/
def RlySt.coversLoc (y : RlySt) (s : State) (e : EngOp) (l : Loc) (va : Option Nat) : Bool :=
  let sbits := lyS y.img
  match l.place with
  | .reg wu mem => decide (wu = e.owner.wu) && y.coversReg mem (l.bit / 1024)
  | .sp core => lySpace y.img == 1 &&
      (match s.findWu e.owner.wu with
      | none => false
      | some w => (s.spadOwners w y.img).any (fun x =>
        let lo := x.spBase + lyBase y.img
        decide (x.core = core) && decide (8 * lo < l.bit + l.bits) && decide (l.bit < 8 * (lo + spanBytes (lyWidth y.img 4) sbits))))
  | .glob => lySpace y.img == 2 && decide (e.ctx = s.wg.ctx) &&
      (match va with
      | none => false
      | some a => (List.range (2 ^ lyWidth y.img 8)).any (fun p => (List.range (2 ^ lyWidth y.img 7)).any (fun d =>
          let lo := lyBase y.img + d * 2 ^ lyDieStr y.img + p * 2 ^ lyPkgStr y.img
          decide (lo < a + (l.bits + 7) / 8) && decide (a < lo + spanBytes (lyWidth y.img 9) sbits))))
/-- R52: a location-addressed write into a footprint, or one through a layout other than `own`. -/
def State.lyHit (s : State) (own : Option LyRef) (l : Loc) (va : Option Nat) : Bool :=
  s.relayouts.any (fun ey => !(decide (some ey.2.x = own)) && ey.2.coversLoc s ey.1 l va)

/-! ### Checking every lane first (R169, R170) -/

/-- One resolved piece of a lane's access: byte offset in the access, where it is, its virtual address. -/
abbrev Part := Nat × Loc × Option Nat

/-- Resolve the pieces of an access (R169: cut at aligned 8-byte chunks). -/
def resolveParts (s : State) (sp a need : Nat) : List (Nat × Nat) → Except (Nat × Nat) (List Part)
  | [] => .ok []
  | (off, n) :: cs => match s.resolve sp ((a + off) % 2 ^ 64) n need with
    | .error f => .error f
    | .ok (l, va) => (match resolveParts s sp a need cs with
      | .error f => .error f
      | .ok ps => .ok ((off, l, va) :: ps))
/-- Resolve `n` bytes at an address. -/
def State.parts (s : State) (sp a n need : Nat) : Except (Nat × Nat) (List Part) := resolveParts s sp a need (chunks a (n + 1) n)

/-- A lane's failing check: lane, code, DETAIL, address. -/
abbrev LaneFault := Nat × Nat × Nat × Nat
/-- The checks of one lane: translation and bounds, the host window for an atomic (R304; the one access that needs both rights), then
alignment when the instruction needs it, then LYBUSY for a write. -/
def State.laneParts (s : State) (sp size need : Nat) (aligned : Bool) (own : Option LyRef) (la : Nat × Nat) :
    Except LaneFault (Nat × List Part) :=
  match s.parts sp la.2 size need with
  | .error (c, d) => .error (la.1, c, d, la.2)
  | .ok ps =>
    if need = 3 ∧ ps.any (fun p => decide (p.2.1.place = .glob) && inHostWindow (offOf (p.2.1.bit / 8))) = true then .error (la.1, PERM, 2, la.2)
    else if aligned && la.2 % size != 0 then .error (la.1, ALIGN, 0, la.2)
    else if bitN need 1 && ps.any (fun p => s.lyHit own p.2.1 p.2.2) then .error (la.1, LYBUSY, 0, la.2)
    else .ok (la.1, ps)
/-- The fault that a set of failing lanes gives (R170, R309): the first check that any lane fails, the lanes that fail it, the
address of the lowest; for PERM, DETAIL 1 when every such lane failed by page rights. -/
def laneFault (fs : List LaneFault) : Flt :=
  let pick (c : Nat) : List LaneFault := fs.filter (fun f => f.2.1 = c)
  let go (c : Nat) : Flt :=
    let l := pick c
    { code := c, detail := if c = PERM then (if l.all (fun f => f.2.2.1 = 1) then 1 else 2) else (l.map (·.2.2.1)).headD 0
      lanes := maskOf (l.map (·.1)), addr := BitVec.ofNat 64 ((l.map (·.2.2.2)).headD 0) }
  match [XLATE, PERM, REGBUDGET, ALIGN].find? (fun c => pick c != []) with
  | some c => go c
  | none => go LYBUSY
/-- The failing lanes of a list of results. -/
def failures {α : Type} : List (Except LaneFault α) → List LaneFault
  | [] => []
  | .error f :: rs => f :: failures rs
  | .ok _ :: rs => failures rs
/-- The results of the lanes that passed. -/
def passes {α : Type} : List (Except LaneFault α) → List α
  | [] => []
  | .error _ :: rs => passes rs
  | .ok a :: rs => a :: passes rs

/-! ### Touching pages and keeping translations (R310, R311) -/

/-- Touch the pages of some virtual addresses: the state after, and whether a move holds the access. -/
def State.touchAll (s : State) (vas : List Nat) : State × Bool :=
  vas.foldl (fun (st : State × Bool) va => let r := st.1.touch st.1.wg.ctx va; (r.1, st.2 || r.2)) (s, false)
/-- Keep the translations used. -/
def State.fillTlbs (s : State) (vas : List Nat) : State :=
  vas.foldl (fun t va => t.tlbFill t.wg.core t.wg.ctx va) s
/-- One address for each page. -/
def pagesOf (vas : List Nat) : List Nat := (vas.map (fun v => v / 65536 * 65536)).dedup
/-- After every check has passed: touch the pages; while one moves, the access waits; else go on, with the translations kept. -/
def State.reach (s : State) (vas : List Nat) (go : State → State) : State :=
  match s.touchAll (pagesOf vas) with
  | (t, true) => t
  | (t, false) => go (t.fillTlbs (pagesOf vas))
/-- The virtual addresses of some lanes' parts. -/
def partVas (ls : List (Nat × List Part)) : List Nat := ls.flatMap (fun l => l.2.filterMap (·.2.2))
/-- R170: check every lane, then do what the instruction does with the parts of every lane. -/
def State.withAccess (s : State) (sp size need : Nat) (aligned : Bool) (las : List (Nat × Nat))
    (go : State → List (Nat × List Part) → State) : State :=
  let rs := las.map (s.laneParts sp size need aligned none)
  if failures rs ≠ [] then s.raise (laneFault (failures rs))
  else s.reach (partVas (passes rs)) (fun t => go t (passes rs))

/-! ### Data that comes back (R169, R171) -/

/-- Extend a value of `size` bytes to `w` bits (R169). -/
def extendTo (w size x : Nat) (signed : Bool) : Nat := if signed then wrapN w (sext (8 * size) x) else x % 2 ^ (8 * size)
/-- Mark the words a specifier names in a lane as poison. -/
def RegFile.mark (r : RegFile) (n lane : Nat) : RegFile :=
  if n < 256 then { r with vmark := r.vmark ++ [32 * n + lane] } else { r with smark := r.smark ++ [n - 256] }
/-- Write the data of one lane to a destination. -/
def RegFile.putData (r : RegFile) (d : Dest) (lane x : Nat) (psn : Bool) : RegFile :=
  let n := d.spec.toNat
  let r1 :=
    if n < 256 then
      let lo := r.wv n lane (BitVec.ofNat 32 (if d.size < 4 then extendTo 32 d.size x d.signed else x))
      if d.size = 8 then lo.wv (n + 1) lane (BitVec.ofNat 32 (x / 2 ^ 32)) else lo
    else if n < 320 then r.ws (n - 256) (BitVec.ofNat 64 (extendTo 64 d.size x d.signed))
    else r
  if psn then d.regs.foldl (fun r k => r.mark k lane) r1 else r1
/-- Write a value in every lane of a destination. -/
def RegFile.putAll (r : RegFile) (d : Dest) (x : Nat) : RegFile := (lanesOf d.mask).foldl (fun r l => r.putData d l x false) r
/-- The value a lane's pieces make up. -/
def pieceVal (ps : List Piece) : Nat := ps.foldl (fun v p => v + p.val.getD 0 * 2 ^ p.off) 0
/-- Write what a load read: lanes with pieces, then lanes with a constant value. -/
def RegFile.putLoad (r : RegFile) (ps : List Piece) (d : Dest) (fill : List (Nat × W64)) : RegFile :=
  let r1 := (lanesOf d.mask).foldl (fun r l =>
    let mine := ps.filter (fun p => p.lane = l)
    if mine = [] then r else r.putData d l (pieceVal mine) (mine.any (·.psn))) r
  fill.foldl (fun r f => r.putData d f.1 f.2.toNat false) r1

/-! ### Retiring (R182, R290) -/

/-- Every write of an operation has retired. -/
def State.writesRetired (s : State) (r : MRef) (op : Nat) : Bool :=
  s.mem.writes.all (fun w => !(decide (w.owner = r) && decide (w.op = op)) || w.retired)
/-- The quad's writes to a line have reached the memory of a scope; at `.pkg` or wider, no modified copy of a peer line is left in the
package (R181). -/
def State.flushed (s : State) (quad line scope : Nat) : Bool :=
  let peer := decide (5 ≤ scope) && !(s.homed (128 * line))
  s.mem.writes.all (fun w => !(decide (w.place = .glob) && decide (w.addr / 128 = line)) ||
    (if peer && decide (3 ≤ w.stage.num) then false else decide (w.quad ≠ quad) || w.reached scope))
/-- The oldest operation of a class may retire. -/
def State.mayRetire (s : State) (o : OutOp) : Bool :=
  match o.kind with
  | .load _ _ _ => o.readsDone
  | .value _ _ => true
  | .store => s.writesRetired s.ref o.id
  | .atom _ _ _ _ => o.readsDone && (o.cls == 0 || s.writesRetired s.ref o.id)
  | .flush ls _ => ls.all (fun l => s.flushed (quadOf s.wg.core) l o.scope)
  | .message _ => o.done
  | .engine _ => o.done
  | .tile _ => o.done
/-- The line's bytes in the quad's view take the writes at the memory of the scope, the package's copy of a peer line is evicted and
taken from home anew, and the quad's instruction caches drop the line (R181, R294). -/
def State.invalidate (s : State) (quad scope line : Nat) : State :=
  let drop := fun (k : Nat × List Byte) => !(decide (quadOf (k.1 / 2 ^ 51) = quad) && decide (k.1 % 2 ^ 51 / 2 = line))
  let s1 := { s with mem := { s.mem with icache := s.mem.icache.filter drop } }
  if scope ≤ 2 then s1
  else
    let s2 := if 5 ≤ scope then (s1.fillLine none line).evictLine line else s1
    if scope = 6 then s2.takeHome quad line else s2.fillLine (some quad) line
/-- What an operation leaves when it retires: its data in its destination, its report among the member's. -/
def State.retireOp (s : State) (o : OutOp) : State :=
  let s1 := s.modM (fun m => { m with
    outs := dropFirst (fun x => x.id = o.id) m.outs
    reports := m.reports ++ o.report.toList })
  match o.kind with
  | .load ps d fill => s1.modR (fun r => r.putLoad ps d fill)
  | .value v d => s1.modR (fun r => r.putAll d v.toNat)
  | .atom _ size ls (some d) => s1.modR (fun r => ls.foldl (fun r l => match l.old with
      | some x => r.putData { d with size := size } l.lane x.toNat false
      | none => r) r)
  | .flush ls true => ls.foldl (fun t l => t.invalidate (quadOf t.wg.core) o.scope l) s1
  | _ => s1
/-- Retire the oldest operation of a class of the member in focus, if it may. -/
def State.retireHead (s : State) (cls : Nat) : State :=
  match s.m.outs.find? (fun o => o.cls = cls) with
  | none => s
  | some o => if s.mayRetire o then s.retireOp o else s
/-- Change an operation of the member in focus. -/
def State.modOut (s : State) (id : Nat) (f : OutOp → OutOp) : State :=
  s.modM (fun m => { m with outs := replaceFirst (fun o => o.id = id) f m.outs })
/-- R16: a counter that would reach 64 holds the issue. -/
def State.full (s : State) (cls : Nat) : Bool := decide (63 ≤ s.m.count cls)
/-- Retire, in order, the operations of a class of the member in focus that may. -/
def retireAll (cls : Nat) : Nat → State → State
  | 0, s => s
  | k + 1, s => match s.m.outs.find? (fun o => o.cls = cls) with
    | none => s
    | some o => if s.mayRetire o then retireAll cls k (s.retireOp o) else s
/-- Retire what may retire in a class of a named member. -/
def State.retireFor (s : State) (r : MRef) (cls : Nat) : State :=
  match s.findMem r with | none => s | some _ => retireAll cls 64 (s.focusOn r)
/-- Act on a named member, brought into focus; nothing when it is not resident. -/
def onMember (s : State) (r : MRef) (f : State → State) : Out :=
  match s.findMem r with
  | none => .next s
  | some _ => .next (f (s.focusOn r))

end Sys2Proof.Machine
end

