-- ==== Sys2Proof/Machine/Layout.lean ====
section
/-!
DEFINITION. Layout.lean: layout registers, handles, and where the element of a layout stands (R13, R39, R46 to R48, R52, R53,
R175, R210).
-/
namespace Sys2Proof.Machine

/-! ### Reading bytes as a member does -/

/-- What a synchronous read gives: the bytes, cut at aligned 8-byte chunks (R169), where they stand, the virtual addresses used, whether
a byte is poisoned. -/
structure Peek where
  bytes : List Byte
  chunks : List (List Byte)
  locs : List Loc
  vas : List Nat
  psn : Bool
deriving DecidableEq, Repr

/-- A relaxed read of `n` bytes by the member in focus, performed now (R196, R250). -/
def State.peek (s : State) (sp a n : Nat) : Except (Nat × Nat) Peek :=
  match s.parts sp a n 1 with
  | .error f => .error f
  | .ok ps =>
    let cs := ps.map (fun p => leBytes (p.2.1.bits / 8) (s.readLoc s.ref s.uid (quadOf s.wg.core) none p.2.1))
    .ok {
      bytes := cs.flatten
      chunks := cs
      locs := ps.map (·.2.1)
      vas := ps.filterMap (·.2.2)
      psn := ps.any (fun p => s.locPoison p.2.1) }

/-! ### Layout registers and handles -/

/-- The image a layout register holds; an unwritten one is empty (R13). -/
def State.lreg (s : State) (k : Nat) : Nat := (smGet 0 s.shared.lregs k).toNat
/-- Write a layout register. -/
def State.setLreg (s : State) (k img : Nat) : State :=
  s.modW (fun w => { w with lregs := smPut 0 w.lregs k (BitVec.ofNat 2048 img) })
/-- Entry k of codebook register c, as a BF16 code (R13). -/
def State.cbEntry (s : State) (c k : Nat) : Nat := bitsN (smGet 0 s.shared.cbs c).toNat (16 * k) 16
/-- The virtual address of a handle-table entry (R47). -/
def State.entryVa (s : State) (slot : Nat) : Nat := s.ctx.htbase + 512 * slot
/-- SLOT of a handle. -/
def hSlot (h : Nat) : Nat := bitsN h 12 20
/-- GEN of a handle. -/
def hGen (h : Nat) : Nat := bitsN h 0 12
/-- The control word of a handle-table entry. -/
def entryWord (bs : List Byte) : Nat := leNat ((bs.drop 288).take 8)
/-- A right of R48: bit 16 READ, 17 WRITE, 18 RELAYOUT, 19 ENGINE. -/
def entryHas (bs : List Byte) (bit : Nat) : Bool := bitN (entryWord bs) bit
/-- R48: check a handle for a list of rights; the 512 bytes of its entry. -/
def State.handle (s : State) (h : Nat) (rights : List Nat) : Except (Nat × Nat) Peek :=
  if hSlot h = 0 ∨ s.ctx.htsize ≤ hSlot h then .error (HNDSTALE, 0)
  else match s.peek 1 (s.entryVa (hSlot h)) 512 with
    | .error f => .error f
    | .ok p =>
      let w := entryWord p.bytes
      if p.psn then .error (POISON, 0)
      else if !(bitN w 12) || bitsN w 0 12 != hGen h then .error (HNDSTALE, 0)
      else if bitsN w 20 6 ≠ partOf s.wg.ctx then .error (PERM, 2)
      else if rights.all (entryHas p.bytes) then .ok p else .error (PERM, 2)
/-- The image of a handle-table entry. -/
def entryImg (bs : List Byte) : Nat := leNat (bs.take 256)

/-! ### The layout an access resolves through (R52, R53, R210) -/

/-- The relayout in flight on a layout. -/
def State.rlyOn (s : State) (x : LyRef) : Option RlySt := (s.relayouts.find? (fun ey => ey.2.x = x)).map (·.2)
/-- The exchange group of a location in the pass being run, by its number (R50). -/
def RlySt.groupOf (y : RlySt) (loc : Nat) : Nat :=
  match y.plan[y.pass - 1]? with
  | none => 0
  | some p => (match (lyLevels y.img).find? (fun l => l.1 = p.1) with
    | none => 0
    | some l => loc % 2 ^ l.2.1 + loc / 2 ^ (l.2.1 + l.2.2) * 2 ^ l.2.1)
/-- The matrix of the pass being run. -/
def RlySt.passMat (y : RlySt) : List Nat := ((y.plan[y.pass - 1]?).map (·.2)).getD (gfId (lyN y.img))
/-- The location of an element before the pass being run. -/
def RlySt.before (y : RlySt) (x : Nat) : Nat := gfVec (afterPasses y.img y.plan (y.pass - 1)) x
/-- Whether the element's group has still to commit the pass being run. -/
def RlySt.waits (y : RlySt) (x : Nat) : Bool := y.left.contains (y.groupOf (y.before x))
/-- The relayout that stands still on a layout between two passes: paused (R53), or suspended with its workgroup (R54). DESIGN CHOICE
(log 123): an access by another workgroup finds a suspended tensor where it finds a paused one, after the passes that have committed. -/
def State.stillOn (s : State) (x : LyRef) : Option RlySt :=
  (s.eng.paused ++ (s.eng.ops.filterMap (·.rly)).filter (·.suspended)).find? (fun p => p.x = x)
/-- The location an element-indexed access to an index vector finds now, through a layout whose image is `img`. -/
def State.lyWhere (s : State) (x : LyRef) (img idx : Nat) : Nat :=
  let i := idx % 2 ^ lyN img
  match s.rlyOn x with
  | some y => if y.waits i then y.before i else gfVec y.passMat (y.before i)
  | none => (match s.stillOn x with
    | some p => gfVec (afterPasses p.img p.plan (p.pass - 1)) i
    | none => gfVec (lyMat img) i)
/-- The current matrix of a layout that is not in flight (R206). -/
def State.curMat (s : State) (x : LyRef) (img : Nat) : List Nat :=
  match s.stillOn x with
  | some p => afterPasses p.img p.plan (p.pass - 1)
  | none => lyMat img

/-! ### From a location to storage (R39) -/

/-- Narrow a part to the nibble of a 4-bit element. -/
def nibble (up : Bool) (ps : List Part) : List Part :=
  ps.map (fun p => (p.1, { p.2.1 with bit := p.2.1.bit + (if up then 4 else 0), bits := 4 }, p.2.2))
/-- The workgroup whose scratchpad a scratchpad layout names at a location: the issuer's, a rank's, or, with a QUAD field, that of
the kernel's workgroup in that quad of the die. DESIGN CHOICE (log 121): the owning kernel is the issuer's own, the first of several of
its groups in the quad counts, and a QUAD field without a CORE field names rank 0. -/
def State.spadWg (s : State) (img y : Nat) : Option Workgroup :=
  let hasCore := (lyLevels img).any (fun l => l.1 = 5)
  if (lyLevels img).any (fun l => l.1 = 6) then s.quadWg s.wg (lyField img 6 y) (lyField img 5 y)
  else if hasCore then s.rankWg (lyField img 5 y)
  else some s.wg
/-- The virtual address of a memory layout's location. -/
def memVa (img y : Nat) : Nat :=
  (lyBase img + lyField img 9 y * lyS img / 8 + lyField img 7 y * 2 ^ lyDieStr img + lyField img 8 y * 2 ^ lyPkgStr img) % 2 ^ 64
/-- R39: the storage of a location, for an access that needs rights; `dflt` is the warp of a layout without a WARP field. -/
def State.storage (s : State) (img y dflt need : Nat) : Except (Nat × Nat) (List Part) :=
  let sb := lyS img
  let n := (sb + 7) / 8
  match lySpace img with
  | 0 =>
    let reg := lyBase img % 256 + lyField img 1 y
    let warp := if (lyLevels img).any (fun l => l.1 = 3) then lyField img 3 y else dflt
    if s.wg.launch.budget * 8 < lyBase img % 256 + 2 ^ lyWidth img 1 then .error (REGBUDGET, 0)
    else if !(s.team.any (fun m => decide (m.id = warp) && m.kind == 0)) then .error (PERM, 2)
    else .ok [(0, ⟨.reg s.wg.wu warp, 32 * (32 * reg + lyField img 2 y) + sb * lyField img 0 y, sb⟩, none)]
  | 1 => (match s.spadWg img y with
    | none => .error (PERM, 2)
    | some w =>
      let off := lyBase img + lyField img 4 y * sb / 8
      if s.footBytes < off + n then .error (PERM, 2)
      else
        let ps := (chunks off (n + 1) n).map (fun c => (c.1, (⟨.sp w.core, 8 * (w.spBase + off + c.1), 8 * c.2⟩ : Loc), none))
        .ok (if sb = 4 then nibble (lyField img 4 y % 2 = 1) ps else ps))
  | _ => (match s.parts 1 (memVa img y) n need with
    | .error f => .error f
    | .ok ps => .ok (if sb = 4 then nibble (lyField img 9 y % 2 = 1) ps else ps))

/-- A tensor as an instruction names it: what names it (none: no relayout can touch it), its image. -/
abbrev Tensor := LyRef × Nat
/-- R52: the parts of an element, found now through a tensor; LYBUSY when it would write another relayout's footprint. -/
def State.element (s : State) (t : Tensor) (idx dflt need : Nat) : Except (Nat × Nat) (List Part) :=
  match s.storage t.2 (s.lyWhere t.1 t.2 idx) dflt need with
  | .error f => .error f
  | .ok ps => if bitN need 1 && ps.any (fun p => s.lyHit (some t.1) p.2.1 p.2.2) then .error (LYBUSY, 0) else .ok ps

/-- The tensor that a BASE field names (R99, R175): a layout register, or an s register that holds a handle. -/
def State.tensorOf (s : State) (base : Spec) (right : Nat) : Except (Nat × Nat) (Tensor × List Nat) :=
  if base.toNat < 16 then
    let img := s.lreg base.toNat
    if lyN img = 0 then .error (LYSING, 0) else .ok ((.reg s.wg.wu base.toNat, img), [])
  else
    let h := (s.rf.rs (base.toNat - 256)).toNat % 2 ^ 32
    match s.handle h [right] with
    | .error f => .error f
    | .ok p =>
      let img := entryImg p.bytes
      if lyWellFormed img then .ok ((.handle s.wg.ctx (hSlot h), img), p.vas) else .error (LYSING, 0)

/-! ### `ldx` and `stx` (R175, R46) -/

/-- A lane's index vector (R175). -/
def State.idxOf (s : State) (sp : Spec) (img lane : Nat) : Nat :=
  (if lyN img ≤ 32 then (s.rf.rv sp.toNat lane).toNat
   else (s.rf.rv (sp.toNat + 1) lane).toNat * 2 ^ 32 + (s.rf.rv sp.toNat lane).toNat) % 2 ^ lyN img
/-- One lane's element: its parts, or none for a hole that is skipped; a fault where R46 or R39 gives one. -/
def State.laneElem (s : State) (t : Tensor) (chk : Bool) (need lane idx : Nat) : Except LaneFault (Nat × Option (List Part)) :=
  if isHole t.2 idx then (if chk then .error (lane, PERM, 2, idx) else .ok (lane, none))
  else match s.element t idx 0 need with
    | .error f => .error (lane, f.1, f.2, if lySpace t.2 = 2 then memVa t.2 (s.lyWhere t.1 t.2 idx) else 0)
    | .ok ps => .ok (lane, some ps)

end Sys2Proof.Machine
end

