-- ==== Sys2Proof/Machine/Sync.lean ====
section
/-!
DEFINITION. Sync.lean: paths and records of the parenthesis-stack area where a wait needs them, and barriers (R113 to R115, R121,
R186 to R188). A path parks at a barrier; the member arrives once every lane it has left is parked at one slot and its older
writes have reached the barrier's scope; a phase completes when every participant, or the count, has arrived.
-/
namespace Sys2Proof.Machine

/-! ### The area (R113) -/

/-- The lowest-numbered free entry. -/
def freeEntry (pool : SMap Entry) (d : Nat) : Option Nat := (List.range d).find? (fun n => (smFind pool n).isNone)
/-- Put an entry into the lowest-numbered free place. -/
def pushEntry (pool : SMap Entry) (d : Nat) (e : Entry) : SMap Entry :=
  match freeEntry pool d with | some n => smIns pool n e | none => pool
/-- The next push order: one above every SEQ in the area. -/
def nextSeq (pool : SMap Entry) : Nat := pool.foldl (fun n e => match e.2 with | .path q _ => max n (q + 1) | _ => n) 0

/-! ### Barriers (R186) -/

/-- The key of a barrier inside a workgroup, by the scope that R4 resolves. -/
def barIdx (scope num : Nat) : Nat := 16 * scope + num
/-- A kernel, by its node. -/
def kernKey (w : Workgroup) : Nat := slotKey w.node * 4096 + w.nodeId % 4096
/-- The identity of a barrier wider than a core: its kernel, its scope and number, and at `.quad` its cluster group. -/
def barKey (w : Workgroup) (scope num : Nat) : Nat × Nat × Nat :=
  (kernKey w, barIdx scope num, if scope = 2 then (w.group.find? (· != 0)).getD w.wu else 0)
/-- A wide barrier. -/
def State.wideBar (s : State) (k : Nat × Nat × Nat) : Barrier := ((s.eng.bars.find? (fun b => b.1 = k)).map (·.2)).getD {}
/-- Set a wide barrier. -/
def State.setWide (s : State) (k : Nat × Nat × Nat) (b : Barrier) : State :=
  { s with eng := { s.eng with bars := (k, b) :: s.eng.bars.filter (fun x => x.1 ≠ k) } }
/-- A workgroup's own view of a barrier: phases it has passed, members arrived in the present one. -/
def Workgroup.bar (w : Workgroup) (k : Nat) : Barrier := smGet {} w.bars k
/-- Change a workgroup's own view. -/
def State.modBar (s : State) (wu k : Nat) (f : Barrier → Barrier) : State :=
  s.modWu wu (fun w => { w with bars := smIns w.bars k (f (w.bar k)) })
/-- The phase of a workgroup at a barrier is over. -/
def State.passBar (s : State) (wu k : Nat) : State := s.modBar wu k (fun b => { b with phase := b.phase + 1, arrived := [] })
/-- The path a member waits with at a barrier: every lane it has left is parked at one slot. -/
def Member.barWait (m : Member) : Option (Nat × Nat × Nat) :=
  let left := m.allLanes &&& ~~~m.exited
  match m.parked with
  | [] => none
  | q :: qs => match q.kind with
    | .fuse => none
    | .bar sc n ph =>
      if (q :: qs).all (fun x => decide (x.kind = q.kind) && decide (x.path.pc = q.path.pc)) &&
        decide ((q :: qs).foldl (fun a x => a ||| x.path.mask) (0 : Mask) = left) then some (sc, n, ph) else none

/-- Merge parked paths that have one record; in ascending order of their lowest lane (R121). -/
def mergeParked (ps : List Path) : List Path :=
  sortBy (fun a b => decide (lowLane a.mask ≤ lowLane b.mask)) (ps.foldl (fun (acc : List Path) p =>
    if acc.any (fun q => q.jrec = p.jrec) then acc.map (fun q => if q.jrec = p.jrec then { q with mask := q.mask ||| p.mask } else q)
    else acc ++ [p]) [])
/-- R121: resume every parked path past the barrier, in an area of `d` entries; the watchdog restarts (R132). -/
def Member.barResume (m : Member) (d : Nat) : Member :=
  let ps := (mergeParked (m.parked.map (·.path))).map (fun p => { p with pc := p.pc.next })
  { m with parked := [], a := ps[0]?, b := ps[1]?, wdCount := 0
           pool := (ps.drop 2).reverse.foldl (fun pool p => pushEntry pool d (.path (nextSeq pool) p)) m.pool }

/-- R188, R381: the arrival of a workgroup at a barrier wider than its core, by the scope it acts as. At `.pod` an increment leaves for
the barrier's plane, with the count its slot gave. -/
def State.arriveWide (s : State) (w : Workgroup) (scope num count : Nat) : State :=
  let k := barKey w scope num
  let b := s.wideBar k
  if b.arrived.contains w.wu then s
  else
    let expect := if b.arrived = [] then count else b.expect
    let s1 := s.setWide k { b with arrived := b.arrived ++ [w.wu], counts := b.counts ++ [count], expect }
    if scope = 6 then
      let msg : BarMsg := { pkg := s.plat.pkg, die := w.node.die, part := partOf w.ctx, ctxid := w.ctx % 65536, node := w.nodeId
                            bar := num, phase := b.phase, n := 1, expect := count, src := s.plat.pkg, dst := s.plat.pkg }
      ({ s1 with fab := { s1.fab with sentArr := s1.fab.sentArr ++ [msg] } } : State).sendBar msg
    else s1
/-- Whether a wide barrier's phase is complete: every workgroup of the cluster group that has not ended, or the count. -/
def State.wideDone (s : State) (w : Workgroup) (scope : Nat) (b : Barrier) : Bool :=
  if scope = 2 then b.arrived != [] &&
    w.group.all (fun wu => b.arrived.contains wu || ((s.findWu wu).map (fun x => decide (x.stop = .ended))).getD true)
  else if scope = 6 then false
  else b.expect != 0 && decide (b.expect ≤ b.arrived.length)
/-- Complete a wide phase for the first `n` arrivals; later ones count toward the next phase, whose count the first of them gave
(R186). -/
def State.completeWide (s : State) (k : Nat × Nat × Nat) (n : Nat) : State :=
  let b := s.wideBar k
  let s1 := s.setWide k { b with phase := b.phase + 1, arrived := b.arrived.drop n, counts := b.counts.drop n, expect := (b.counts.drop n).headD 0 }
  (b.arrived.take n).foldl (fun t wu => t.passBar wu k.2.1) s1
/-- The participants of a workgroup at a barrier: its members that have a lane left (R186, R187, R232). -/
def State.barMembers (s : State) (wu : Nat) : List Nat := ((s.membersOf wu).filter (fun m => !m.gone)).map (·.id)
/-- Settle one barrier of a workgroup: when every participant has arrived, the phase is over at `.core`, and the workgroup
arrives wider; `count` is what its last arriving slot gave. -/
def State.settleBar (s : State) (w : Workgroup) (key count : Nat) : State :=
  let b := w.bar key
  let scope := key / 16
  if b.arrived = [] ∨ !((s.barMembers w.wu).all (fun m => b.arrived.contains m)) then s
  else if scope = 1 then s.passBar w.wu key
  else
    let s1 := s.arriveWide w scope (key % 16) count
    let k := barKey w scope (key % 16)
    let wb := s1.wideBar k
    if s1.wideDone w scope wb then s1.completeWide k (if scope = 2 then wb.arrived.length else wb.expect) else s1
/-- Settle every barrier of a workgroup (after a member has exited, R187). -/
def State.settleBars (s : State) (w : Workgroup) : State :=
  w.bars.foldl (fun t kb => match t.findWu w.wu with | some w1 => t.settleBar w1 kb.1 kb.2.expect | none => t) s

/-- Wake the members of a workgroup that wait at a barrier whose phase is over and not broken: an acquire at its scope (R188). -/
def State.wakeWu (s : State) (wu : Nat) : State :=
  match s.findWu wu with
  | none => s
  | some w => (s.membersOf wu).foldl (fun t m => match m.barWait with
    | none => t
    | some (sc, n, _) => (match m.bars.find? (fun p => p.scope = sc && p.num = n) with
      | none => t
      | some p =>
        let b := w.bar (barIdx sc n)
        if p.phase < b.phase && !(b.broken.contains p.phase) then
          (t.modMem ⟨wu, m.id⟩ (fun m => { m.barResume w.launch.stack with bars := m.bars.filter (fun x => x ≠ p) })).refresh (quadOf w.core) sc
        else t)) s
/-- Wake every workgroup. -/
def State.wakeAll (s : State) : State := (s.allWgs.map (·.wu)).foldl (fun t wu => t.wakeWu wu) s

/-- A member may arrive: it is parked at a barrier it has not arrived at, and its older writes have reached the scope (R188, R292). -/
def State.mayArrive (s : State) (r : MRef) (m : Member) : Option (Nat × Nat) :=
  match m.barWait with
  | none => none
  | some (sc, n, _) =>
    if m.bars.any (fun p => p.scope = sc && p.num = n) then none
    else if s.releaseReady r m s.uid sc then some (sc, n) else none
/-- The arrival of the member in focus in the present phase of a barrier (R187). -/
def State.arrive (s : State) (scope num count : Nat) : State :=
  let key := barIdx scope num
  let b := s.wg.bar key
  let s1 := s.modM (fun m => { m with bars := m.bars ++ [⟨scope, num, b.phase⟩] })
  let s2 := s1.modBar s.wg.wu key (fun b => { b with arrived := b.arrived ++ [s.m.id], expect := if b.arrived = [] then count else b.expect })
  (s2.settleBar s2.wg key (s2.wg.bar key).expect).wakeAll
/-! ### `bar` (R186 to R188) -/

/-- The barrier number of a `bar` slot. -/
def barNum (f : FM) : Nat := bitsN f.ofs.toNat 0 4
/-- The count of a `bar` slot. -/
def barCount (f : FM) : Nat := bitsN f.ofs.toNat 8 24
/-- The count that the slot of the parked paths gives. -/
def State.parkedCount (s : State) : Nat :=
  match s.m.parked with
  | [] => 0
  | q :: _ => (match (s.slotAt q.path.pc).map decode with | some (.bar _ f) => barCount f | _ => 0)
/-- Arrive if the parked member may. -/
def State.tryArrive (s : State) : State :=
  match s.mayArrive s.ref s.m with
  | some (sc, n) => s.arrive sc n s.parkedCount
  | none => s
/-- R186: the fields of a `bar` slot. -/
def barOk (s : State) (f : FM) : Bool :=
  f.data == 0 && f.base == 0 && f.index == 0 && f.space == 0 && f.size == 0 && f.order == 0 && f.cache == 0 && f.cls == 0 &&
  decide (f.sub.toNat ≤ 2) && f.scope != 0 && s.scopeOk f.scope.toNat && bitsN f.ofs.toNat 4 4 == 0 &&
  (if f.scope.toNat ≤ 2 then barCount f == 0 else barCount f != 0)
/-- Park the executing path at a barrier. -/
def State.parkBar (s : State) (scope num ph : Nat) : State :=
  s.modM (fun m => { (m.setPath none) with parked := m.parked ++ [⟨.bar scope num ph, m.path⟩] })
/-- The path holds every lane the member has left. -/
def Member.whole (m : Member) : Bool := m.path.mask == m.allLanes &&& ~~~m.exited

/-! ### Rings and the team barrier, as members leave (R237, R244, R247) -/

/-- The modulus of a ring's counts: 16 times its depth. -/
def Ring.modulus (r : Ring) : Nat := 16 * r.stages.length
/-- A difference of two counts (R237). -/
def Ring.diff (r : Ring) (a b : Nat) : Nat := (a + r.modulus - b % r.modulus) % r.modulus
/-- The members of a role that have not left. -/
def State.liveRole (s : State) (role : Nat) : List Member := s.team.filter (fun m => m.role == role && !m.gone)
/-- R237: the receive count: the least read count of the receivers left; with none left it stays (R247). -/
def State.ringRc (s : State) (k : Nat) (r : Ring) : Nat :=
  let ms := s.liveRole r.rrole
  if ms = [] then r.rc
  else
    let lag := ms.foldl (fun x m => max x (r.diff r.sc (smGet 0 m.ri k))) 0
    (r.sc + r.modulus - lag) % r.modulus
/-- Change the team of the workgroup in focus. -/
def State.modTeam (s : State) (f : Team → Team) : State := s.modW (fun w => { w with team := w.team.map f })
/-- Bring the receive counts up to date, and complete the team barrier when every member left has arrived. -/
def State.settleTeam (s : State) : State :=
  match s.wg.team with
  | none => s
  | some t =>
    let rings := (List.range t.rings.length).map (fun k => let r := t.rings.getD k {}; { r with rc := s.ringRc k r })
    let live := (s.team.filter (fun m => !m.gone)).map (·.id)
    let done := t.tsync != [] && live.all (fun i => t.tsync.contains i)
    s.modTeam (fun t => { t with rings := rings, tsync := if done then [] else t.tsync, tsPhase := if done then t.tsPhase + 1 else t.tsPhase })

end Sys2Proof.Machine
end

