-- ==== Sys2Proof/Machine/Control.lean ====
section
/-!
DEFINITION. Control.lean: paths, records and the control instructions, opcodes 0x00 to 0x0F and 0xFF (R107 to R135).
-/
namespace Sys2Proof.Machine

/-! ### The parenthesis-stack area (R113 to R115) -/

/-- The entries of the area of the member in focus (R25). -/
def State.depth (s : State) : Nat := s.wg.launch.stack
/-- Free entries of an area of `d` entries. -/
def freeCount (pool : SMap Entry) (d : Nat) : Nat := d - pool.length
/-- R114: whether a chain of records that starts at `r` holds record `x`. -/
def chainHas (pool : SMap Entry) (x : Nat) : Nat → Option Nat → Bool
  | _, none => false
  | 0, some _ => false
  | k + 1, some r =>
    r == x || (match smFind pool r with | some (.record _ o _ _ _) => chainHas pool x k o | _ => false)
/-- R114: a path belongs to a record. -/
def belongs (pool : SMap Entry) (x : Nat) (p : Path) : Bool := chainHas pool x 256 p.jrec
/-- Whether a live slot, or a path entry, belongs to a record; paths parked at a `fuse` or barrier still belong (R120, R121). -/
def Member.anyBelongs (m : Member) (x : Nat) : Bool :=
  (m.a.toList ++ m.b.toList ++ m.parked.map (·.path) ++
    m.pool.filterMap (fun e => match e.2 with | .path _ p => some p | _ => none)).any (belongs m.pool x)

/-- R115: fill a free slot with the path entry of highest SEQ. -/
def Member.popTop (m : Member) : Option (Nat × Path) :=
  m.pool.foldl (fun (acc : Option (Nat × Nat × Path)) e => match e.2, acc with
    | .path q p, none => some (q, e.1, p)
    | .path q p, some (q', _, _) => if q' < q then some (q, e.1, p) else acc
    | _, _ => acc) none |>.map (fun t => t.2)
/-- A record whose timeout is due (R119): its entry and contents. DESIGN CHOICE (log 115): of several, the lowest entry. -/
def Member.dueRecord (m : Member) : Option (Nat × Option Nat × Mask × Pc) :=
  m.pool.findSome? (fun e => match e.2 with
    | .record false o (.run 0) pm pc => if pm = 0 then none else some (e.1, o, pm, pc)
    | _ => none)

/-- Place a path in a free slot, the executing one first; false when both are live. -/
def Member.placeSlot (m : Member) (p : Path) : Member × Bool :=
  if m.curB ∧ m.b.isNone then ({ m with b := some p }, true)
  else if m.a.isNone then ({ m with a := some p }, true)
  else if m.b.isNone then ({ m with b := some p }, true)
  else (m, false)

/-- R114: settle a record: nothing while a path belongs to it; an empty one is deleted and its outer record settled; else its
parked lanes resume in a free slot, or as a path entry in its place. The second component says that a record completed. -/
def settle (m : Member) : Nat → Nat → Member × Bool
  | 0, _ => (m, false)
  | fuel + 1, r =>
    match smFind m.pool r with
    | some (.record ret outer _ pm pc) =>
      if m.anyBelongs r then (m, false)
      else if pm = 0 then
        let m1 := { m with pool := smDel m.pool r }
        (match outer with | some o => settle m1 fuel o | none => (m1, false))
      else
        let p : Path := { pc := if ret then pc else pc.next, mask := pm, jrec := outer }
        let m1 := { m with pool := smDel m.pool r }
        (match m1.placeSlot p with
        | (m2, true) => (m2, true)
        | (_, false) => ({ m1 with pool := smIns m1.pool r (.path (nextSeq m1.pool) p) }, true))
    | _ => (m, false)

/-- The timeout target that a `join` slot names (R119), with the slot's own line as origin. -/
def timeoutTarget (s : State) (pc : Pc) : Pc :=
  match (s.slotAt pc).map decode with
  | some (.ijoin _ f) => { line := pc.line + f.tofs.signExtend 54, slot := f.tslot }
  | _ => pc

/-- R115: fill free slots: lanes of a record whose timeout is due, else the top path entry. -/
def Member.fill (m : Member) (s : State) : Nat → Member
  | 0 => m
  | fuel + 1 =>
    if m.a.isSome ∧ m.b.isSome then m
    else match m.dueRecord with
      | some (e, o, pm, pc) =>
        let m1 := (m.placeSlot { pc := timeoutTarget s pc, mask := pm, jrec := o }).1
        Member.fill { m1 with pool := smIns m1.pool e (.record false o .spent 0 pc) } s fuel
      | none => (match m.popTop with
        | some (e, p) => Member.fill ((({ m with pool := smDel m.pool e } : Member).placeSlot p).1) s fuel
        | none => m)
/-- Fill the free slots of the member in focus (R115). -/
def State.fillSlots (s : State) : State := s.modM (fun m => m.fill s 4)

/-- Restart the watchdog count (R132). -/
def Member.kick (m : Member) : Member := { m with wdCount := 0 }

/-! ### Targets (R86, R90, R101) -/

/-- A target by line offset and slot from the executing slot. -/
def State.target (s : State) (ofs : BitVec 22) (slot : BitVec 3) : Pc :=
  { line := s.m.path.pc.line + ofs.signExtend 54, slot }
/-- Whether the offset leaves the addressable lines (R86, R112). -/
def State.leaves (s : State) (ofs : BitVec 22) : Bool :=
  let x : Int := s.m.path.pc.line.toNat + ofs.toInt
  decide (x < 0) || decide (2 ^ 54 ≤ x)
/-- R235: in a team kernel, a transfer by a role other than 0 stays inside a role block: this line and the target's have exactly
the member's role. -/
def State.blockOk (s : State) (p : Pc) : Bool :=
  match s.wg.team with
  | none => true
  | some _ => s.rolesOf s.m.path.pc.line == 2 ^ s.m.role && s.rolesOf p.line == 2 ^ s.m.role
/-- A transfer may reach a code pointer: TGT bit set (R90) and role block kept (R235). -/
def State.mayReach (s : State) (p : Pc) : Bool := s.tgt p && s.blockOk p
/-- After a transfer in a team kernel the member runs private (R235). -/
def State.goPrivate (s : State) : State := if s.wg.team.isSome then s.modM (fun m => { m with priv := true }) else s
/-- The lanes that a fault of the whole slot names. -/
def State.slotLanes (s : State) : Mask := if s.m.scalar then 1 else s.active
/-- A fault in fetching a line (R308, R309). -/
def State.fetchFault (s : State) (line : BitVec 54) (f : Nat × Nat) : State :=
  s.raise { code := f.1, detail := f.2, lanes := s.slotLanes, addr := BitVec.ofNat 64 (line.toNat * 64) }
/-- A target that may not be reached: the fault of its line's fetch, precise at the transfer (log 12), else ILLTARGET (R90, R235). -/
def State.noReach (s : State) (p : Pc) : State :=
  match s.fetch p.line with
  | .error f => s.fetchFault p.line f
  | .ok _ => s.fault ILLTARGET
/-- Move the whole path to a target it may reach. -/
def State.transfer (s : State) (p : Pc) : State := (s.setPc p).goPrivate

/-! ### Field checks (R111, R112) -/

/-- The fields of a format B slot that an entry leaves zero: whether each is used. -/
def zerosB (f : FB) (cond tgt join reg tmo : Bool) : Bool :=
  (cond || (f.cond == 0 && f.cneg == 0)) && (tgt || (f.tofs == 0 && f.tslot == 0)) && (join || (f.jofs == 0 && f.jslot == 0)) &&
  (reg || f.reg == 0) && (tmo || f.timeout == 0)
/-- R101: code fields in range. -/
def codesB (f : FB) : Bool :=
  decide (f.tslot.toNat < 5) && decide (f.jslot.toNat < 5) && decide (f.cond.toNat < 8) && !(f.cneg == 1 && f.cond == 7)

/-- A control slot: its checks, then its effect; `light` as `classOk`. -/
def runB (s : State) (h : Hdr) (light : Bool) (uses : List SpecUse) (ok : Bool) (go : State → State) : Out :=
  runSlot s (issueFault s h (classOk s .ctl light h.role.toNat) uses (needs ok)) (s.hazard uses)
    (fun s => if s.marked uses [lowLane s.active] then s.fault POISON else go s)

/-- The condition of a lane (R101). -/
def State.condIn (s : State) (f : FB) (lane : Nat) : Bool :=
  if f.cond = 7 then true else xor (f.cneg = 1) ((s.rf.rp f.cond.toNat).getLsbD lane)

/-! ### The instructions -/

/-- `trap.ill` (R108): ILLOP, whatever the other bits hold; in a team kernel, of the member that reaches it. -/
def execTrapIll (_h : Hdr) (_f : FB) (s : State) : Out := .next (s.fault ILLOP)
/-- An unassigned opcode (R107, R108): ILLOP, no effect. -/
def execUnassignedOpcode (_opc : BitVec 8) (_rest : BitVec 88) (s : State) : Out := .next (s.fault ILLOP)
/-- The empty slot (R108): `nop`. -/
def execEmptySlot (s : State) : Out := .next s.advance

/-- R116: the effect of `bra` once some lane takes it and some does not. -/
def State.diverge (s : State) (t n : Mask) (tgt j : Pc) : State :=
  let m := s.m
  let other := if m.curB then m.a else m.b
  let need := 1 + b2n other.isSome
  if freeCount m.pool s.depth < need then s.fault DIVSTACK
  else
    let r := (freeEntry m.pool s.depth).getD 0
    let pool1 := smIns m.pool r (.record false m.path.jrec .idle 0 j)
    let m1 := { m with pool := pool1 }.setPath (some { pc := tgt, mask := t, jrec := some r })
    let rest : Path := { pc := m.path.pc.next, mask := n, jrec := some r }
    let m2 : Member := if other.isNone then (if m.curB then { m1 with a := some rest } else { m1 with b := some rest })
      else { m1 with pool := pushEntry m1.pool s.depth (.path (nextSeq m1.pool) rest) }
    { s with m := m2 }.goPrivate
/-- `bra` (R116). In a team kernel its join line lies in the role block whether it diverges or not (R235). -/
def execBra (h : Hdr) (f : FB) (s : State) : Out :=
  runB s h false [] (codesB f && zerosB f true true true false false) (fun s =>
    let ls := lanesOf s.active
    let t := maskOf (ls.filter (fun l => s.guardIn h l && s.condIn f l))
    let n := s.active &&& ~~~t
    let tgt := s.target f.tofs f.tslot
    let j := s.target f.jofs f.jslot
    if t = 0 then s.advance
    else if s.leaves f.tofs then s.fault ILLTARGET
    else if !(s.mayReach tgt) then s.noReach tgt
    else if n = 0 then (if s.wg.team.isSome && !(s.blockOk j) then s.noReach j else s.transfer tgt)
    else if s.leaves f.jofs then s.fault ILLTARGET
    else if !(s.mayReach j) then s.noReach j
    else s.diverge t n tgt j)
/-- `bru` (R117): guard and condition of the lowest lane move the whole path. -/
def execBru (h : Hdr) (f : FB) (s : State) : Out :=
  runB s h false [] (codesB f && zerosB f true true false false false) (fun s =>
    let l := lowLane s.active
    let tgt := s.target f.tofs f.tslot
    if !(s.guardIn h l && s.condIn f l) then s.advance
    else if s.leaves f.tofs then s.fault ILLTARGET
    else if !(s.mayReach tgt) then s.noReach tgt
    else s.transfer tgt)
/-- `brx` (R127): the whole path to the code pointer in an s register; guard as `bru`. -/
def execBrx (h : Hdr) (f : FB) (s : State) : Out :=
  runB s h false [{ spec := f.reg }] (codesB f && zerosB f false false false true false && isS f.reg) (fun s =>
    if !(s.guardLow h) then s.advance
    else match pcOf (s.rf.rs (f.reg.toNat - 256)) with
      | none => s.fault ILLTARGET
      | some p => if s.mayReach p then s.transfer p else s.noReach p)

/-- R123: the check of one call target: the state of the fault it gives. -/
def callFault (s : State) (h : Hdr) (p : Pc) : Option State :=
  if !(s.mayReach p) then some (s.noReach p)
  else match (s.slotAt p).map decode with
    | some (.fnHeader h2 f2) =>
      if h2.role != h.role then some (s.fault ILLTARGET)
      else if s.wg.launch.budget < f2.timeout.toNat then some (s.fault REGBUDGET) else none
    | _ => some (s.fault ILLTARGET)
/-- R124, R125: call a list of targets with their lanes, lowest lane first. DESIGN CHOICE (log 116): of targets that fail different checks
of R123 the first group's fault is raised. The return line lies in the role block (R235). -/
def State.callTo (s : State) (h : Hdr) (gs : List (Pc × Mask)) : State :=
  let m := s.m
  let other := if m.curB then m.a else m.b
  let extra := gs.length - (if other.isNone then 2 else 1)
  match gs.findSome? (fun g => callFault s h g.1) with
  | some t => t
  | none =>
    if s.wg.team.isSome && !(s.blockOk m.path.pc.next) then s.noReach m.path.pc.next
    else if freeCount m.pool s.depth < 1 + extra then s.fault DIVSTACK
    else
      let r := (freeEntry m.pool s.depth).getD 0
      let m1 := { m with pool := smIns m.pool r (.record true m.path.jrec .idle 0 m.path.pc.next), made := r :: m.made.filter (· != r) }
      let paths := gs.map (fun g => ({ pc := g.1, mask := g.2, jrec := some r } : Path))
      let m2 := m1.setPath paths.head?
      let rest := paths.drop 1
      let m3 : Member := if other.isNone then (if m.curB then { m2 with a := rest.head? } else { m2 with b := rest.head? }) else m2
      let stacked := if other.isNone then rest.drop 1 else rest
      let m4 := stacked.reverse.foldl (fun (x : Member) p =>
        { x with pool := pushEntry x.pool s.depth (.path (nextSeq x.pool) p) }) m3
      { s with m := m4 }.goPrivate
/-- `call` (R124): guard as `bru`. -/
def execCall (h : Hdr) (f : FB) (s : State) : Out :=
  runB s h false [] (codesB f && zerosB f false true false false false) (fun s =>
    if !(s.guardLow h) then s.advance
    else if s.leaves f.tofs then s.fault ILLTARGET
    else s.callTo h [(s.target f.tofs f.tslot, s.active)])
/-- R125: group lanes by equal target, the groups in order of their lowest lane. -/
def groupLanes (ts : List (Nat × Pc)) : List (Pc × Mask) :=
  ts.foldl (fun gs t => if gs.any (fun g => g.1 = t.2) then
      gs.map (fun g => if g.1 = t.2 then (g.1, g.2 ||| maskOf [t.1]) else g)
    else gs ++ [(t.2, maskOf [t.1])]) []
/-- `calli` (R125): one target per active lane, from an s register or a v pair. -/
def execCalli (h : Hdr) (f : FB) (s : State) : Out :=
  let v := decide (f.reg.toNat < 256)
  let uses : List SpecUse := [{ spec := f.reg, pair := v }]
  runSlot s (issueFault s h (classOk s .ctl false h.role.toNat) uses
      (needs (codesB f && zerosB f false false false true false && (isS f.reg || v)))) (s.hazard uses)
    (fun s =>
      if !(s.guardLow h) then s.advance
      else if s.marked uses (lanesOf s.active) then s.fault POISON
      else
        let ws := (lanesOf s.active).map (fun l => (l, pcOf (s.rd64 f.reg 0 false l)))
        if ws.any (fun w => w.2.isNone) then s.fault ILLTARGET
        else s.callTo h (groupLanes (ws.filterMap (fun w => w.2.map (fun p => (w.1, p))))))

/-- Free the executing slot. -/
def Member.freeSlot (m : Member) : Member := m.setPath none
/-- Park the executing path in its record and settle it (R118, R126): the member, and whether a record completed. -/
def Member.park (m : Member) (r : Nat) : Member × Bool :=
  match smFind m.pool r with
  | some (.record ret o t pm pc) =>
    let p := m.path
    settle { (m.freeSlot) with pool := smIns m.pool r (.record ret o t (pm ||| p.mask) pc) } 256 r
  | _ => (m, false)
/-- `ret` (R126): the return point's TGT bit is checked when the record completes. -/
def execRet (h : Hdr) (f : FB) (s : State) : Out :=
  runB s h false [] (codesB f && zerosB f false false false false false) (fun s =>
    if !(s.guardLow h) then s.advance
    else match s.m.path.jrec with
      | none => s.fault ILLTARGET
      | some r => (match smFind s.m.pool r with
        | some (.record true _ _ _ pc) =>
          let (m1, done) := s.m.park r
          if done && !(s.mayReach pc) then s.noReach pc
          else ({ s with m := if done then m1.kick else m1 } : State).fillSlots.goPrivate
        | _ => s.fault ILLTARGET))

/-- `exit` (R122): the path's lanes leave for good; the slot is freed and the path's record settled. DESIGN CHOICE (log 117): a return
record that an exit completes resumes at its return point with no check of R126 and no fault. -/
def State.exitPath (s : State) : State :=
  let p := s.m.path
  let m1 := { (s.m.freeSlot) with exited := s.m.exited ||| p.mask }
  let m2 := match p.jrec with | some r => (settle m1 256 r).1 | none => m1
  ({ s with m := m2.kick } : State).fillSlots
/-- The return records in the OUTER chain that starts at a record, innermost first (R120). -/
def retChain (pool : SMap Entry) : Nat → Option Nat → List (Nat × Mask × Pc)
  | _, none => []
  | 0, some _ => []
  | k + 1, some r => (match smFind pool r with
    | some (.record true o _ pm pc) => (r, pm, pc) :: retChain pool k o
    | some (.record false o _ _ _) => retChain pool k o
    | _ => [])
/-- Re-link a chain of return records (R120 step 4). -/
def relink : List (Nat × Mask × Pc) → SMap Entry
  | [] => []
  | (r, pm, pc) :: rest => smIns (relink rest) r (.record true (rest.head?.map (·.1)) .idle pm pc)
/-- The return record created last (R120 step 3): the first of the entries that took one, newest first, which still holds one. -/
def lastReturn (pool : SMap Entry) (made : List Nat) : Option Nat :=
  made.find? (fun r => match smFind pool r with | some (.record true _ _ _ _) => true | _ => false)
/-- R120: every non-exited lane is parked at this `fuse`: the paths fuse. -/
def Member.fuse (m : Member) (pc : Pc) : Member :=
  let keep := lastReturn m.pool m.made
  { m with a := some { pc := pc.next, mask := m.allLanes &&& ~~~m.exited, jrec := keep }, b := none, parked := []
           pool := relink (retChain m.pool 256 keep) }
/-- R120: when every lane the member has left is parked at one `fuse`, the paths fuse. -/
def State.tryFuse (s : State) : State :=
  match s.m.parked with
  | [] => s
  | q :: _ =>
    let got := s.m.parked.foldl (fun x p => if p.kind = .fuse ∧ p.path.pc = q.path.pc then x ||| p.path.mask else x) (0 : Mask)
    if q.kind = .fuse ∧ got = s.m.allLanes &&& ~~~s.m.exited then { s with m := (s.m.fuse q.path.pc).kick } else s
/-- What an exit may complete: a `fuse` (R120), the member's own arrival at a barrier (R121), and, when the member has wholly exited,
a barrier's phase (R187) and what its team waited for it for (R247). -/
def State.afterExit (s : State) : State :=
  let s1 := s.tryFuse.tryArrive
  if s1.m.gone then (s1.settleBars s1.wg).wakeAll.settleTeam else s1
/-- The reports still pending when a workgroup ends go to the host as fault records (R184). -/
def State.flushReports (s : State) : State :=
  s.team.foldl (fun t m => m.reports.foldl (fun t c =>
    t.postCtx (dieOf t.wg.core) 1 t.wg.ctx (fltBody t.wg m false m.path.pc { code := c, flags := 16 } true)) t) s
/-- The workgroup has ended when every member's every lane has exited (R122). -/
def State.checkEnd (s : State) : State :=
  if s.team.all Member.gone && s.wg.stop == .running then
    (if s.team.any (fun m => m.reports != []) then
      let s1 := s.flushReports
      s1.applyPolicy s1.wg
     else s).endWu s.wg.wu
  else s
/-- `exit` (R122). The lanes whose guard holds leave where the guard divides the path (log 32). -/
def execIexit (h : Hdr) (f : FB) (s : State) : Out :=
  runB s h true [] (codesB f && zerosB f false false false false false) (fun s =>
    let g := maskOf (s.guarded h)
    if g = 0 then s.advance
    else if g = s.active then s.exitPath.afterExit.checkEnd
    else
      let rest : Path := { s.m.path with mask := s.m.path.mask &&& ~~~g, pc := s.m.path.pc.next }
      s.modM (fun m => ({ m with exited := m.exited ||| g } : Member).kick.setPath (some rest)))

/-- Start the join timer when lanes first park (R119); after a timeout none starts again. -/
def startTimer (m : Member) (r n : Nat) : Member :=
  match smFind m.pool r with
  | some (.record false o .idle pm pc) =>
    if n = 0 ∨ pm ≠ 0 then m else { m with pool := smIns m.pool r (.record false o (.run n) pm pc) }
  | _ => m
/-- `join` (R118, R119). In a team kernel the line where a completed join resumes lies in the role block (R235). -/
def execIjoin (h : Hdr) (f : FB) (s : State) : Out :=
  runB s h false [] (codesB f && zerosB f false (f.timeout != 0) false false true) (fun s =>
    if !(s.guardLow h) || s.m.scalar then s.advance
    else match s.m.path.jrec with
      | none => s.advance
      | some r => (match smFind s.m.pool r with
        | some (.record false _ timer pm pc) =>
          let first := f.timeout ≠ 0 ∧ pm = 0 ∧ timer = .idle
          if pc ≠ s.m.path.pc then s.advance
          else if first ∧ s.leaves f.tofs = true then s.fault ILLTARGET
          else if first ∧ s.mayReach (s.target f.tofs f.tslot) = false then s.noReach (s.target f.tofs f.tslot)
          else
            let (m1, done) := (startTimer s.m r f.timeout.toNat).park r
            if done && !(s.blockOk pc.next) then s.noReach pc.next
            else
              let t := ({ s with m := if done then m1.kick else m1 } : State).fillSlots
              if done then t.goPrivate else t
        | _ => s.advance))

/-- `fuse` (R120): parks the path without settling any record. -/
def execFuse (h : Hdr) (f : FB) (s : State) : Out :=
  runB s h false [] (codesB f && zerosB f false false false false false) (fun s =>
    if !(s.guardLow h) then s.advance
    else
      let m1 : Member := { (s.m.freeSlot) with parked := s.m.parked ++ [⟨.fuse, s.m.path⟩] }
      ({ s with m := m1 } : State).tryFuse.fillSlots)

/-- `loop` (R128): decrement an s register and branch the whole path while it is not zero. -/
def execIloop (h : Hdr) (f : FB) (s : State) : Out :=
  runB s h false [{ spec := f.reg, wr := true }, { spec := f.reg }] (codesB f && zerosB f false true false true false && isS f.reg) (fun s =>
    let x := s.rf.rs (f.reg.toNat - 256) - 1
    let tgt := s.target f.tofs f.tslot
    if !(s.guardLow h) then s.advance
    else if x = 0 then (s.modR (·.ws (f.reg.toNat - 256) x)).advance
    else if s.leaves f.tofs then s.fault ILLTARGET
    else if !(s.mayReach tgt) then s.noReach tgt
    else (s.modR (·.ws (f.reg.toNat - 256) x)).transfer tgt)

/-- `yield` (R129): the greedy run ends; no architectural change but the scheduler's. -/
def execYield (h : Hdr) (f : FB) (s : State) : Out :=
  runB s h false [] (codesB f && zerosB f false false false false false) (fun s =>
    if s.guardLow h then (s.modM (fun m => { m with yielded := m.yielded ++ [m.curB] })).advance else s.advance)
/-- `nop` (R129); a REG that is neither 0 nor 511 is refused (R112). -/
def execNop (h : Hdr) (f : FB) (s : State) : Out :=
  runB s h true [] (codesB f && zerosB f false false false false false) State.advance
/-- A function header reached by execution acts as `nop` (R123); n / 8 outside 1 to 32 is refused (R112). -/
def execFnHeader (h : Hdr) (f : FB) (s : State) : Out :=
  runB s h true [] (codesB f && zerosB f false false false true true && decide (1 ≤ f.timeout.toNat) && decide (f.timeout.toNat ≤ 32))
    State.advance
/-- `trap n` (R130): PROGTRAP with n as detail. -/
def execTrap (h : Hdr) (f : FB) (s : State) : Out :=
  runB s h false [] (codesB f && zerosB f false false false false true) (fun s =>
    let g := maskOf (s.guarded h)
    if g = 0 then s.advance else s.raise { code := PROGTRAP, detail := f.timeout.toNat, lanes := g })
/-- `brk n` (R131): with debug enable the workgroup stops and waits for the host, which may resume it after the slot. -/
def execBrk (h : Hdr) (f : FB) (s : State) : Out :=
  runB s h false [] (codesB f && zerosB f false false false false true) (fun s =>
    let g := maskOf (s.guarded h)
    if g = 0 || !s.ctx.dbg then s.advance
    else if s.holdFull (dieOf s.wg.core) then s
    else ((s.postFault s.m.path.pc { code := PROGTRAP, detail := f.timeout.toNat, lanes := g, flags := 2 } false).modW
      (fun w => { w with stop := .brk })).advance)

/-- The remaining watchdog count in cycles (R133); a disabled watchdog counts as unbounded: all ones (log 33). -/
def Member.wdRemaining (m : Member) : W64 :=
  if m.wdBudget = 0 then BitVec.allOnes 64 else BitVec.ofNat 64 (m.wdBudget * 1024 - m.wdCount)
/-- `wdog.rd` (R133). -/
def execWdogRd (h : Hdr) (f : FB) (s : State) : Out :=
  runB s h false [{ spec := f.reg, wr := true }] (codesB f && zerosB f false false false true true && f.timeout == 0 && isS f.reg) (fun s =>
    if s.guardLow h then (s.modR (·.ws (f.reg.toNat - 256) s.m.wdRemaining)).advance else s.advance)
/-- `wdog.kick` (R133). -/
def execWdogKick (h : Hdr) (f : FB) (s : State) : Out :=
  runB s h false [] (codesB f && zerosB f false false false false true && f.timeout == 1) (fun s =>
    if s.guardLow h then (s.modM Member.kick).advance else s.advance)
/-- R133: the budget `wdog.lim` sets. -/
def limBudget (budget n : Nat) : Nat := if n = 0 then budget else if budget = 0 then n else min budget n
/-- `wdog.lim` (R133). -/
def execWdogLim (h : Hdr) (f : FB) (s : State) : Out :=
  runB s h false [{ spec := f.reg }] (codesB f && zerosB f false false false true true && f.timeout == 2 && isS f.reg) (fun s =>
    if s.guardLow h then
      (s.modM (fun m => { m with wdBudget := limBudget m.wdBudget (s.rf.rs (f.reg.toNat - 256)).toNat, wdCount := 0 })).advance
    else s.advance)

end Sys2Proof.Machine
end

