-- ==== Sys2Proof/Machine/Int.lean ====
section
/-!
DEFINITION. Int.lean: opcodes 0x20 to 0x4D, integer, logic, address, predicate and move instructions (R136 to R144, R148).
The lane-crossing ones stand in Lane.lean.
-/
namespace Sys2Proof.Machine

/-- The types R139 calls Int: i32, n32, i64, n64. -/
def tInt : List Nat := [12, 13, 14, 15]
/-- The types of R142: b32, n64. -/
def tLog : List Nat := [0, 15]

/-- An Int entry of two operands computed exactly on their values and narrowed (R139). -/
def runInt2 (s : State) (h : Hdr) (f : FA) (sat : Bool) (op : Int → Int → Int) : Out :=
  runOp s h f .int { types := tInt, sat, b := .val } (fun a b _ =>
    narrow f.w f.sg (f.sat = 1) (op (valT f.w f.sg a) (valT f.w f.sg b)))

/-- `iadd` (R139). -/
def execIadd (h : Hdr) (f : FA) (s : State) : Out := runInt2 s h f true (· + ·)
/-- `isub` (R139). -/
def execIsub (h : Hdr) (f : FA) (s : State) : Out := runInt2 s h f true (· - ·)
/-- `imul` (R139). -/
def execImul (h : Hdr) (f : FA) (s : State) : Out := runInt2 s h f false (· * ·)
/-- `imin` (R139). -/
def execImin (h : Hdr) (f : FA) (s : State) : Out := runInt2 s h f false min
/-- `imax` (R139). -/
def execImax (h : Hdr) (f : FA) (s : State) : Out := runInt2 s h f false max
/-- `imulh` (R139): bits [2w - 1 : w] of the exact product. -/
def execImulh (h : Hdr) (f : FA) (s : State) : Out :=
  runOp s h f .int { types := tInt, b := .val } (fun a b _ =>
    wrapN (2 * f.w) (valT f.w f.sg a * valT f.w f.sg b) / 2 ^ f.w)
/-- `iadd3` (R139). -/
def execIadd3 (h : Hdr) (f : FA) (s : State) : Out :=
  runOp s h f .int { types := tInt, b := .val, c := .val } (fun a b c => (a + b + c) % 2 ^ f.w)
/-- `imad` (R139). -/
def execImad (h : Hdr) (f : FA) (s : State) : Out :=
  runOp s h f .int { types := tInt, b := .val, c := .val } (fun a b c => (a * b + c) % 2 ^ f.w)
/-- `imadw` (R139): 32-bit operands a and b, 64-bit c and result. -/
def execImadw (h : Hdr) (f : FA) (s : State) : Out :=
  runOp s h f .int { types := [12, 13], a := .w32, b := .w32, c := .w64, dwide := true } (fun a b c =>
    wrapN 64 (valT 32 f.sg a * valT 32 f.sg b + c))

/-- The shape of `iadc`. -/
def iadcShape : AShape := { types := [13, 15], subs := [0, 1, 2, 3, 4, 5, 6, 7], b := .val, c := .pred }
/-- Write the carries of `iadc` to p0 to p6, by SUB; SUB 7 writes none (R139). -/
def State.putCarry (s : State) (sub : Nat) (res : List (Nat × LaneRes)) : State :=
  if sub < 7 then res.foldl (fun t lr => t.modR (·.wp sub lr.1 lr.2.carry)) s else s
/-- One lane of `iadc`. -/
def iadcLane (s : State) (f : FA) (l : Nat) : LaneRes :=
  let a := s.rdA .val f f.sa l
  let b := s.rdA .val f f.sb l
  let c := s.rdA .pred f f.sc l
  { val := BitVec.ofNat 64 ((a + b + c) % 2 ^ f.w), carry := carryOut f.w a b c }
/-- `iadc` (R139): sum with carry in, and a carry out for SUB 0 to 6. -/
def execIadc (h : Hdr) (f : FA) (s : State) : Out :=
  let uses := iadcShape.uses f
  let ls := s.execLanes h f.dst
  let res := ls.map (fun l => (l, iadcLane s f l))
  runSlot s (issueFault s h (classOk s .int false h.role.toNat) uses (iadcShape.field f s.m.scalar))
    (s.hazard uses || (ls != [] && s.iqEmpty uses))
    (fun s => if ls = [] then s.advance
      else if s.marked uses ls then s.raise { code := POISON, lanes := maskOf (s.markedLanes uses ls) }
      else (((s.putLanes f.dst (iadcShape.dstWide f) false res).putCarry f.sub.toNat res).popIqs uses).advance)

/-- One lane of `idiv` or `irem` (R140). -/
def divLane (s : State) (f : FA) (rem : Bool) (l : Nat) : LaneRes :=
  let r := divRem f.w f.sg (s.rdA .val f f.sa l) (s.rdA .val f f.sb l)
  { val := BitVec.ofNat 64 (if rem then r.2.1 else r.1), istat := r.2.2 }
/-- The conditions that the launch's integer trap covers (R30, R141). -/
def trapCover (itrap : Nat) : W64 := match itrap with | 1 => DIVZ | 2 => DIVZ ||| IMIN | _ => 0
/-- The trap R141 gives, if some executing lane meets a covered condition. -/
def divTrap (s : State) (res : List (Nat × LaneRes)) : Option Flt :=
  let hit := res.filter (fun lr => lr.2.istat &&& trapCover s.wg.launch.itrap != 0)
  if hit = [] then none
  else some { code := PROGTRAP, flags := 1, lanes := maskOf (hit.map (·.1)),
              detail := (hit.foldl (fun a lr => a ||| (lr.2.istat &&& trapCover s.wg.launch.itrap)) (0 : W64)).toNat }
/-- `idiv` and `irem` (R140, R141). -/
def runDiv (s : State) (h : Hdr) (f : FA) (rem : Bool) : Out :=
  let sh : AShape := { types := tInt, b := .val }
  let uses := sh.uses f
  let ls := s.execLanes h f.dst
  let res := ls.map (fun l => (l, divLane s f rem l))
  runSlot s (issueFault s h (classOk s .int false h.role.toNat) uses (sh.field f s.m.scalar))
    (s.hazard uses || (ls != [] && s.iqEmpty uses))
    (fun s => if s.marked uses ls then s.effectA uses f.dst (sh.dstWide f) f.sg ls (divLane s f rem)
      else match divTrap s res with
        | some t => s.raise t
        | none => s.effectA uses f.dst (sh.dstWide f) f.sg ls (divLane s f rem))
/-- `idiv` (R140, R141). -/
def execIdiv (h : Hdr) (f : FA) (s : State) : Out := runDiv s h f false
/-- `irem` (R140, R141). -/
def execIrem (h : Hdr) (f : FA) (s : State) : Out := runDiv s h f true

/-- `ineg` (R139). -/
def execIneg (h : Hdr) (f : FA) (s : State) : Out :=
  runOp s h f .int { types := [12, 14], sat := true } (fun a _ _ => narrow f.w true (f.sat = 1) (-(valT f.w true a)))
/-- `iabs` (R139). -/
def execIabs (h : Hdr) (f : FA) (s : State) : Out :=
  runOp s h f .int { types := [12, 14], sat := true } (fun a _ _ => narrow f.w true (f.sat = 1) |valT f.w true a|)

/-! ### Logic, shifts, bit fields (R142) -/

/-- A two-operand entry of R142. -/
def runLog2 (s : State) (h : Hdr) (f : FA) (op : Nat → Nat → Nat) : Out :=
  runOp s h f .int { types := tLog, b := .val } (fun a b _ => op a b % 2 ^ f.w)
/-- `and` (R142). -/
def execIand (h : Hdr) (f : FA) (s : State) : Out := runLog2 s h f (· &&& ·)
/-- `or` (R142). -/
def execIor (h : Hdr) (f : FA) (s : State) : Out := runLog2 s h f (· ||| ·)
/-- `xor` (R142). -/
def execIxor (h : Hdr) (f : FA) (s : State) : Out := runLog2 s h f (· ^^^ ·)
/-- `andn` (R142): a and not b. -/
def execAndn (h : Hdr) (f : FA) (s : State) : Out := runLog2 s h f (fun a b => a &&& (2 ^ f.w - 1 - b % 2 ^ f.w))
/-- `not` (R142). -/
def execInot (h : Hdr) (f : FA) (s : State) : Out :=
  runOp s h f .int { types := tLog } (fun a _ _ => 2 ^ f.w - 1 - a % 2 ^ f.w)

/-- A number from its bits, bit 0 first. -/
def ofBits (w : Nat) (b : Nat → Bool) : Nat := (List.range w).foldl (fun v i => v + b2n (b i) * 2 ^ i) 0

/-- `lgc3` (R142): the map's bit at a + 2 b + 4 c, in every position. A 511 source is refused. -/
def execLgc3 (h : Hdr) (f : FA) (s : State) : Out :=
  let sh : AShape := { types := tLog, b := .val, c := .val, immOwn := true }
  let uses := (sh.uses f).map (fun u => { u with ok511 := false })
  let ls := s.execLanes h f.dst
  runSlot s (issueFault s h (classOk s .int false h.role.toNat) uses
      (match sh.field f s.m.scalar with | some c => some c | none => if bitsN f.imm.toNat 8 24 = 0 then none else some ILLOP))
    (s.hazard uses || (ls != [] && s.iqEmpty uses))
    (fun s => s.effectA uses f.dst (sh.dstWide f) false ls (fun l =>
      let a := s.rdA .val f f.sa l
      let b := s.rdA .val f f.sb l
      let c := s.rdA .val f f.sc l
      plain (ofBits f.w (fun i => bitN f.imm.toNat (b2n (bitN a i) + 2 * b2n (bitN b i) + 4 * b2n (bitN c i))))))

/-- `shl` (R142). -/
def execShl (h : Hdr) (f : FA) (s : State) : Out :=
  runLog2 s h f (fun a b => let n := b % 256; if f.w ≤ n then 0 else a * 2 ^ n)
/-- `shr` (R142). -/
def execShr (h : Hdr) (f : FA) (s : State) : Out := runLog2 s h f (fun a b => a / 2 ^ (b % 256))
/-- R142: i32 and i64 behave as b32 and n64. -/
def rawType (f : FA) : FA := { f with ty := if f.ty = 12 then 0 else if f.ty = 14 then 15 else f.ty }
/-- `sar` (R142): it also takes i32 and i64. -/
def execSar (h : Hdr) (f : FA) (s : State) : Out :=
  runOp s h (rawType f) .int { types := tLog, b := .val } (fun a b _ => wrapN f.w (sext f.w a / 2 ^ (b % 256)))
/-- Rotate left within `w` bits. -/
def rotl (w a n : Nat) : Nat := (a * 2 ^ (n % w) + a / 2 ^ (w - n % w)) % 2 ^ w
/-- `rol` (R142). -/
def execRol (h : Hdr) (f : FA) (s : State) : Out := runLog2 s h f (fun a b => rotl f.w a (b % 256))
/-- `ror` (R142). -/
def execRor (h : Hdr) (f : FA) (s : State) : Out := runLog2 s h f (fun a b => rotl f.w a (f.w - b % 256 % f.w))

/-- R142 `bfe`: the field of LEN bits at POS, a position beyond the width reading 0 or the sign bit. -/
def bfe (w : Nat) (sx : Bool) (a ctl : Nat) : Nat :=
  let pos := bitsN ctl 0 8
  let len := bitsN ctl 8 8
  let bit (i : Nat) : Bool := if i < w then bitN a i else sx && bitN a (w - 1)
  if len = 0 then 0
  else ofBits w (fun i => if i < len then bit (pos + i) else sx && bit (pos + len - 1))
/-- `bfe` (R142). -/
def execBfe (h : Hdr) (f : FA) (s : State) : Out :=
  runOp s h f .int { types := tLog, subs := [0, 1], b := .val } (fun a b _ => bfe f.w (f.sub = 1) a b)
/-- R142 `bfi`: b with LEN bits at POS replaced by the low bits of a. -/
def bfi (w a b ctl : Nat) : Nat :=
  let pos := bitsN ctl 0 8
  let len := bitsN ctl 8 8
  ofBits w (fun i => if pos ≤ i ∧ i < pos + len then bitN a (i - pos) else bitN b i)
/-- `bfi` (R142). -/
def execBfi (h : Hdr) (f : FA) (s : State) : Out :=
  runOp s h f .int { types := tLog, b := .val, c := .val } (fun a b c => bfi f.w a b c)
/-- `brev` (R142). -/
def execBrev (h : Hdr) (f : FA) (s : State) : Out :=
  runOp s h f .int { types := tLog } (fun a _ _ => ofBits f.w (fun i => bitN a (f.w - 1 - i)))
/-- `popc` (R142). -/
def execPopc (h : Hdr) (f : FA) (s : State) : Out := runOp s h f .int { types := tLog } (fun a _ _ => popcount f.w a)
/-- Leading zeros among `w` bits. -/
def clz (w a : Nat) : Nat := ((List.range w).find? (fun i => bitN a (w - 1 - i))).getD w
/-- Trailing zeros among `w` bits. -/
def ctz (w a : Nat) : Nat := ((List.range w).find? (fun i => bitN a i)).getD w
/-- `clz` (R142). -/
def execClz (h : Hdr) (f : FA) (s : State) : Out := runOp s h f .int { types := tLog } (fun a _ _ => clz f.w a)
/-- `ctz` (R142). -/
def execCtz (h : Hdr) (f : FA) (s : State) : Out := runOp s h f .int { types := tLog } (fun a _ _ => ctz f.w a)
/-- R142 `bytx`: byte k of the result. -/
def bytxByte (a b c k : Nat) : Nat :=
  let byte := bitsN (a + b * 2 ^ 32) (8 * bitsN c (3 * k) 3) 8
  if bitN c (16 + k) then 0 else if bitN c (12 + k) then (if bitN byte 7 then 255 else 0) else byte
/-- `bytx` (R142). -/
def execBytx (h : Hdr) (f : FA) (s : State) : Out :=
  runOp s h f .int { types := [0], b := .val, c := .val } (fun a b c =>
    bytxByte a b c 0 + bytxByte a b c 1 * 2 ^ 8 + bytxByte a b c 2 * 2 ^ 16 + bytxByte a b c 3 * 2 ^ 24)

/-! ### Address, compare, select, predicates, moves (R143, R144) -/

/-- `lea` (R143): a (64 bits) + (b extended by its type, shifted left by k). -/
def execLea (h : Hdr) (f : FA) (s : State) : Out :=
  runOp s h f .int { types := [12, 13], subs := List.range 16, a := .w64, b := .w32, dwide := true } (fun a b _ =>
    wrapN 64 (a + valT 32 f.sg b * 2 ^ f.sub.toNat))
/-- `icmp` (R143): 1 or 0 into a predicate, all ones or 0 elsewhere. -/
def execIcmp (h : Hdr) (f : FA) (s : State) : Out :=
  runOp s h f .int { types := tInt, subs := [0, 1, 2, 3, 4, 5], dk := .anyPred, b := .val } (fun a b _ =>
    if icc f.sub.toNat (valT f.w f.sg a) (valT f.w f.sg b) then 2 ^ f.w - 1 else 0)
/-- `sel` (R143). -/
def execSel (h : Hdr) (f : FA) (s : State) : Out :=
  runOp s h f .int { types := tLog, b := .val, c := .pred } (fun a b c => if c = 1 then a else b)
/-- The shape of the predicate instructions (R143), by SUB. -/
def predShape (sub : Nat) (two : Bool) : AShape :=
  { types := [0], subs := [sub], dk := .pred, a := .pred, b := if two then .pred else .none }
/-- `pand` (R143): SUB 0; the SUB codes 4 to 15 that share its opcode are refused. -/
def execPand (h : Hdr) (f : FA) (s : State) : Out := runOp s h f .int (predShape 0 true) (fun a b _ => a * b)
/-- `por` (R143). -/
def execPor (h : Hdr) (f : FA) (s : State) : Out := runOp s h f .int (predShape 1 true) (fun a b _ => max a b)
/-- `pxor` (R143). -/
def execPxor (h : Hdr) (f : FA) (s : State) : Out := runOp s h f .int (predShape 2 true) (fun a b _ => (a + b) % 2)
/-- `pnot` (R143). -/
def execPnot (h : Hdr) (f : FA) (s : State) : Out := runOp s h f .int (predShape 3 false) (fun a _ _ => 1 - a)
/-- `mov` (R143, R17, R189): it also writes sq0 to sq3, `%istat`, `%fstat` and predicates, and reads predicates. -/
def execMov (h : Hdr) (f : FA) (s : State) : Out :=
  runOp s h f .int { types := tLog, dk := .mov, a := .valOrPred } (fun a _ _ => a)
/-- `movi` (R143): with `.hi` the upper half of a pair or s register is replaced and its lower half kept: a pair's lower word is not
written. -/
def execMovi (h : Hdr) (f : FA) (s : State) : Out :=
  let hi : Bool := f.sub = 1
  let sh : AShape := { types := [0, 12, 15], subs := [0, 1], dk := .movi, a := .imm, dwide := hi || decide (256 ≤ f.dst.toNat) }
  let uses := sh.uses f
  let ls := s.execLanes h f.dst
  let bad := match sh.field f s.m.scalar with
    | some c => some c
    | none => if hi && decide (320 ≤ f.dst.toNat) && decide (f.dst.toNat < 511) then some ILLOP else none
  runSlot s (issueFault s h (classOk s .int false h.role.toNat) uses bad) (s.hazard uses)
    (fun s =>
      if hi && decide (f.dst.toNat < 256) then s.effectA uses (f.dst + 1) false false ls (fun _ => { val := f.imm.setWidth 64 })
      else s.effectA uses f.dst (sh.dstWide f) (f.ty = 12) ls (fun l =>
        if hi then { val := f.imm ++ (s.rdScalar f.dst.toNat l).setWidth 32 }
        else { val := if f.ty = 12 then f.imm.signExtend 64 else f.imm.setWidth 64 }))
/-- R144: the lane `movs` reads: b's lane when it is a source, else the lowest source lane. -/
def movsLane (srcs : List Nat) (b : Nat) : Option Nat := if srcs.contains (b % 32) then some (b % 32) else srcs.head?
/-- `movs` (R143, R144): once, when the guard holds in the lowest lane of the mask (R137); with no source lane d is unchanged. -/
def execMovs (h : Hdr) (f : FA) (s : State) : Out :=
  let sh : AShape := { types := tLog, dk := .scalar, a := .vec, b := .val, vecOk := true }
  let uses := sh.uses f
  let bad := match sh.field f s.m.scalar with
    | some c => some c
    | none => if f.sb.toNat < 256 then some ILLOP else none
  runSlot s (issueFault s h (classOk s .int false h.role.toNat) uses bad)
    (s.hazard uses || (s.guardLow h && s.iqEmpty uses))
    (fun s => match (if s.guardLow h then movsLane (s.guarded h) (s.rdA .val f f.sb (lowLane s.active)) else none) with
      | none => s.advance
      | some l => s.effectA uses f.dst (sh.dstWide f) false [l] (fun l => plain (s.rdA .val f f.sa l)))

/-! ### Integer conversion (R148) -/

/-- The width of an integer TYPE code 0x8 to 0xF (R98). -/
def intWidth (ty : Nat) : Nat := match ty with | 8 => 8 | 9 => 8 | 10 => 16 | 11 => 16 | 12 => 32 | 13 => 32 | _ => 64
/-- The register image of a converted integer: 8 and 16 bit results are extended to 32 by signedness (R148). -/
def intImage (ty : Nat) (x : Int) : Nat := if wideT ty then wrapN 64 x else wrapN 32 (valT (intWidth ty) (signedT ty) (wrapN (intWidth ty) x))
/-- One conversion of R148. -/
def icvtVal (dt st : Nat) (sat : Bool) (a : Nat) : LaneRes :=
  let x := valT (intWidth st) (signedT st) a
  let y := if sat then clampT (intWidth dt) (signedT dt) x else x
  { val := BitVec.ofNat 64 (intImage dt y), fstat := if sat && decide (y ≠ x) then SAT else 0 }
/-- `icvt` (R148): the destination type in TYPE, the source type in SUB. -/
def execIcvt (h : Hdr) (f : FA) (s : State) : Out :=
  let st := f.sub.toNat
  let k : SKind := if wideT st then .w64 else .w32
  runA s h f .int { types := [8, 9, 10, 11, 12, 13, 14, 15], subs := [8, 9, 10, 11, 12, 13, 14, 15], sat := true, a := k }
    (fun l => icvtVal f.ty.toNat st (f.sat = 1)
      (if wideT st then (s.rd64 f.sa f.imm (signedT st) l).toNat else (s.rd32 f.sa f.imm l).toNat))

end Sys2Proof.Machine
end

