-- ==== Sys2Proof/Machine/Float.lean ====
section
/-!
DEFINITION. Float.lean: number formats and exact arithmetic (R56 to R65). Every value is an exact dyadic number; a result is
rounded once. Formats are named by their TYPE codes (R98): 1 f32, 2 f16, 3 bf16, 4 e4m3, 5 e5m2, 7 e8m0.
-/
namespace Sys2Proof.Machine

/-- Mantissa bits of a format (R56). -/
def manBits (ty : Nat) : Nat := match ty with | 1 => 23 | 2 => 10 | 3 => 7 | 4 => 3 | 5 => 2 | _ => 0
/-- Exponent bias of a format (R56). -/
def biasOf (ty : Nat) : Int := match ty with | 1 => 127 | 2 => 15 | 3 => 127 | 4 => 7 | 5 => 15 | _ => 127
/-- Bits of a format (R56). -/
def fBits (ty : Nat) : Nat := match ty with | 1 => 32 | 2 => 16 | 3 => 16 | _ => 8
/-- The magnitude code of the largest finite value (R57). -/
def maxCode (ty : Nat) : Nat := match ty with | 1 => 0x7F7FFFFF | 2 => 0x7BFF | 3 => 0x7F7F | 4 => 0x7E | 5 => 0x7B | _ => 0xFE
/-- The canonical NaN (R57). -/
def canonNan (ty : Nat) : Nat := match ty with | 1 => 0x7FC00000 | 2 => 0x7E00 | 3 => 0x7FC0 | 4 => 0x7F | 5 => 0x7E | _ => 0xFF
/-- The exponent of the smallest step of a format: that of its subnormals (R57). -/
def qMin (ty : Nat) : Int := 1 - biasOf ty - manBits ty

/-- A code as a value (R56, R57). -/
def fDec (ty x : Nat) : FVal :=
  if ty = 7 then (if x % 256 = 255 then .nan else .fin false 1 (((x % 256 : Nat) : Int) - 127))
  else
    let mb := manBits ty
    let mag := x % 2 ^ (fBits ty - 1)
    let neg := bitN x (fBits ty - 1)
    let ef := mag / 2 ^ mb
    let man := mag % 2 ^ mb
    if maxCode ty < mag then
      (if ty ≠ 4 ∧ man = 0 then .inf neg else .nan)
    else if ef = 0 then .fin neg man (qMin ty)
    else .fin neg (man + 2 ^ mb) (qMin ty + ((ef : Int) - 1))

/-- A signed magnitude code. -/
def withSign (ty : Nat) (neg : Bool) (mag : Nat) : Nat := mag + (if neg then 2 ^ (fBits ty - 1) else 0)
/-- The infinity of a format; E4M3 has none (R61: its NaN). -/
def infCode (ty : Nat) (neg : Bool) : Nat := if ty = 4 then canonNan 4 else withSign ty neg (maxCode ty + 1)

/-- Whether the magnitude is rounded away from zero (R60, R63): `r` over `2 ^ k` is the part below the last place kept, more
when `sticky`; `odd` says the kept part is odd; `u` is the draw of R63 in units of 2 to the -32. -/
def roundUp (mode : Nat) (neg odd : Bool) (r k : Nat) (sticky : Bool) (u : Nat) : Bool :=
  let inexact := r != 0 || sticky
  match mode with
  | 0 => decide (2 ^ k < 2 * r) || (decide (2 * r = 2 ^ k) && (sticky || odd))
  | 1 => false
  | 2 => neg && inexact
  | 3 => !neg && inexact
  | _ =>
    if !inexact then false
    else
      -- u < frac, for the fraction (r + sticky) / 2^k; for a negative value u < 1 - frac keeps the magnitude
      if neg then !(decide (u * 2 ^ k + r * 2 ^ 32 < 2 ^ (k + 32)))
      else decide (u * 2 ^ k < r * 2 ^ 32) || (sticky && decide (u * 2 ^ k = r * 2 ^ 32))

/-- Round `m` times 2 to the `e` (and a little more when `sticky`) to a multiple of 2 to the `q`, with `64` guard bits: the kept
part, and whether it is inexact. -/
def roundAt (mode : Nat) (neg : Bool) (m : Nat) (e q : Int) (sticky : Bool) (u : Nat) : Nat × Bool :=
  let k := (q - (e - 64)).toNat
  let m' := m * 2 ^ (64 + (e - 64 - q).toNat)
  let sig := m' / 2 ^ k
  let r := m' % 2 ^ k
  (sig + b2n (roundUp mode neg (sig % 2 == 1) r k sticky u), r != 0 || sticky)

/-- R61: the code and status of an overflowed result. -/
def overflowF (ty mode : Nat) (sat neg : Bool) : Nat × W64 :=
  if sat then (withSign ty neg (maxCode ty), SAT ||| NX)
  else if ty = 4 then (canonNan 4, OF ||| NX)
  else
    let toMax := mode == 1 || (mode == 2 && !neg) || (mode == 3 && neg)
    (if toMax then withSign ty neg (maxCode ty) else infCode ty neg, OF ||| NX)

/-- R60 to R63: round an exact non-zero magnitude to a format: code and status. -/
def roundF (ty mode : Nat) (sat neg : Bool) (m : Nat) (e : Int) (sticky : Bool) (u : Nat) : Nat × W64 :=
  if m = 0 then (withSign ty neg 0, 0)
  else
    let top : Int := e + Nat.log2 m
    let mb : Int := manBits ty
    if 1000 < top then overflowF ty mode sat neg
    else
      let q := max (top - mb) (qMin ty)
      let (sig, inexact) := roundAt mode neg m e q sticky u
      let code := (q - qMin ty).toNat * 2 ^ manBits ty + sig
      if maxCode ty < code then overflowF ty mode sat neg
      else
        let (sigU, _) := roundAt mode neg m e (top - mb) sticky u
        let emin := 1 - biasOf ty
        let tiny := decide (top < emin - 1) || (decide (top = emin - 1) && decide (sigU < 2 ^ (manBits ty + 1)))
        (withSign ty neg code, if inexact then (if tiny then NX ||| UF else NX) else 0)

/-- R58: the sign of an exact zero sum, by the signs of its addends. -/
def zeroNeg (mode : Nat) (negs : List Bool) : Bool :=
  if mode = 2 then negs.any id else negs.all id

/-- The exact sum of finite terms over a common exponent: sign, magnitude, exponent. -/
def sumFin (mode : Nat) (ts : List (Bool × Nat × Int)) : Bool × Nat × Int :=
  let e := ts.foldl (fun e t => min e t.2.2) ((ts.head?.map (·.2.2)).getD 0)
  let x : Int := ts.foldl (fun x t => let v : Int := ((t.2.1 * 2 ^ (t.2.2 - e).toNat : Nat) : Int); if t.1 then x - v else x + v) 0
  if x = 0 then (zeroNeg mode (ts.map (·.1)), 0, e) else (decide (x < 0), x.natAbs, e)

/-- The exact product (R154): none is 0 times infinity. -/
def mulV (a b : FVal) : Option FVal :=
  match a, b with
  | .nan, _ => some .nan
  | _, .nan => some .nan
  | .inf n, .inf k => some (.inf (xor n k))
  | .inf n, .fin k m _ => if m = 0 then none else some (.inf (xor n k))
  | .fin n m _, .inf k => if m = 0 then none else some (.inf (xor n k))
  | .fin n m e, .fin k m2 e2 => some (.fin (xor n k) (m * m2) (e + e2))

/-- The exact sum of values (R58, R154): none where infinities of both signs meet. -/
def sumV (mode : Nat) (vs : List FVal) : Option FVal :=
  if vs.any (· == .nan) then some .nan
  else if vs.any (· == .inf true) then (if vs.any (· == .inf false) then none else some (.inf true))
  else if vs.any (· == .inf false) then some (.inf false)
  else
    let r := sumFin mode (vs.filterMap (fun v => match v with | .fin n m e => some (n, m, e) | _ => none))
    some (.fin r.1 r.2.1 r.2.2)

/-- Negate a value. -/
def negV : FVal → FVal
  | .nan => .nan
  | .inf n => .inf (!n)
  | .fin n m e => .fin (!n) m e

/-- A value as a result of a format (R58, R60, R61): code and status. DESIGN CHOICE (log 113): an infinite operand converted to E4M3
sets OF and NX, not NV; with `.sat` the bits are the same but for OF, and SAT. -/
def encV (ty mode : Nat) (sat : Bool) (u : Nat) (v : FVal) : Nat × W64 :=
  match v with
  | .nan => (canonNan ty, 0)
  | .inf n => if sat then (withSign ty n (maxCode ty), if ty = 4 then SAT ||| NX else SAT) else if ty = 4 then (canonNan 4, OF ||| NX) else (infCode ty n, 0)
  | .fin n m e => roundF ty mode sat n m e false u

/-- A result that may be an invalid operation (R154): none is the canonical NaN with NV. -/
def encO (ty mode : Nat) (sat : Bool) (u : Nat) (v : Option FVal) : Nat × W64 :=
  match v with
  | none => (canonNan ty, NV)
  | some v => encV ty mode sat u v

/-- R154 `ffma`: 0 times infinity is invalid even when c is a NaN, unless a or b is. -/
def fmaV (mode : Nat) (a b c : FVal) : Option FVal :=
  match mulV a b with
  | none => none
  | some p => sumV mode [p, c]

/-- R153, R154 `fdiv`: code and status. -/
def divF (ty mode : Nat) (sat : Bool) (u : Nat) (a b : FVal) : Nat × W64 :=
  match a, b with
  | .nan, _ => (canonNan ty, 0)
  | _, .nan => (canonNan ty, 0)
  | .inf _, .inf _ => (canonNan ty, NV)
  | .inf n, .fin k _ _ => encV ty mode sat u (.inf (xor n k))
  | .fin n _ _, .inf k => (withSign ty (xor n k) 0, 0)
  | .fin n m e, .fin k m2 e2 =>
    if m2 = 0 then
      (if m = 0 then (canonNan ty, NV)
       else ((encV ty mode sat u (.inf (xor n k))).1, DZ ||| (if sat then SAT else 0)))
    else
      let x := m * 2 ^ 160
      roundF ty mode sat (xor n k) (x / m2) (e - e2 - 160) (x % m2 != 0) u

/-- Integer square root, one bit of the result per step. -/
def isqrtGo (x : Nat) : Nat → Nat → Nat
  | 0, r => r
  | i + 1, r => let t := r + 2 ^ i; isqrtGo x i (if t * t ≤ x then t else r)
/-- The integer square root of a number below 2 to the 512. -/
def isqrt (x : Nat) : Nat := isqrtGo x 256 0

/-- The square root of m times 2 to the e with guard bits: root, exponent, whether something is left. -/
def sqrtParts (m : Nat) (e : Int) : Nat × Int × Bool :=
  let odd := e % 2 != 0
  let x := m * 2 ^ (160 + b2n odd)
  let r := isqrt x
  (r, (e - b2n odd) / 2 - 80, r * r != x)

/-- R153, R154 `fsqrt`. -/
def sqrtF (ty mode : Nat) (sat : Bool) (u : Nat) (a : FVal) : Nat × W64 :=
  match a with
  | .nan => (canonNan ty, 0)
  | .inf true => (canonNan ty, NV)
  | .inf false => encV ty mode sat u (.inf false)
  | .fin n m e =>
    if m = 0 then (withSign ty n 0, 0)
    else if n then (canonNan ty, NV)
    else let p := sqrtParts m e; roundF ty mode sat false p.1 p.2.1 p.2.2 u

/-- Compare finite or infinite values: -1, 0 or 1; zeros of both signs are equal (R155). -/
def cmpV (a b : FVal) : Int :=
  let key (v : FVal) : Int × Int := match v with
    | .nan => (0, 0)
    | .inf n => (if n then -1 else 1, 0)
    | .fin _ _ _ => (0, 0)
  match a, b with
  | .fin n m e, .fin k m2 e2 =>
    let q := min e e2
    let x : Int := (m * 2 ^ (e - q).toNat : Nat)
    let y : Int := (m2 * 2 ^ (e2 - q).toNat : Nat)
    let d := (if n then -x else x) - (if k then -y else y)
    d.sign
  | x, y => ((key x).1 - (key y).1).sign

/-- Whether a value is negative, zeros by their sign. -/
def negOf : FVal → Bool
  | .nan => false
  | .inf n => n
  | .fin n _ _ => n

/-- R65: the smaller or larger code; `num` is the form that lets one NaN operand pass. -/
def minMaxF (ty : Nat) (big num : Bool) (x y : Nat) : Nat :=
  let a := fDec ty x
  let b := fDec ty y
  if a = .nan ∧ b = .nan then canonNan ty
  else if a = .nan then (if num then y % 2 ^ fBits ty else canonNan ty)
  else if b = .nan then (if num then x % 2 ^ fBits ty else canonNan ty)
  else
    let c := cmpV a b
    let aLess := decide (c < 0) || (decide (c = 0) && negOf a && !(negOf b))
    if xor aLess big then x % 2 ^ fBits ty else y % 2 ^ fBits ty

/-- Round a value to an integer by a mode (R64): none for a NaN or an infinity; and whether it is inexact. -/
def roundInt (mode : Nat) (u : Nat) (n : Bool) (m : Nat) (e : Int) : Int × Bool :=
  if m = 0 then (0, false)
  else if 0 ≤ e then
    let x : Int := (m * 2 ^ (min e 1000).toNat : Nat)
    (if n then -x else x, false)
  else
    let r := roundAt mode n m e 0 false u
    (if n then -(r.1 : Int) else r.1, r.2)

/-- R61, R62, R64: a value to an integer type: the register image and the status. -/
def toInt (dt mode : Nat) (sat : Bool) (u : Nat) (v : FVal) : Nat × W64 :=
  let w := intWidth dt
  let sg := signedT dt
  let indef : Int := if sg then tMin w true else tMax w false
  match v with
  | .nan => if sat then (0, SAT) else (intImage dt indef, 0)
  | .inf n => if sat then (intImage dt (if n then tMin w sg else tMax w sg), SAT) else (intImage dt indef, NV)
  | .fin n m e =>
    let r := roundInt mode u n m e
    if tMin w sg ≤ r.1 ∧ r.1 ≤ tMax w sg then (intImage dt r.1, if r.2 then NX else 0)
    else if sat then (intImage dt (clampT w sg r.1), SAT)
    else (intImage dt indef, NV)

/-- R158: a value to E8M0. -/
def toE8m0 (mode : Nat) (sat : Bool) (u : Nat) (v : FVal) : Nat × W64 :=
  match v with
  | .nan => (0xFF, 0)
  | .inf _ => if sat then (0xFE, SAT ||| NX) else (0xFF, OF ||| NX)
  | .fin _ m e =>
    if m = 0 then (0, UF ||| NX)
    else
      let k : Int := e + Nat.log2 m
      let exact := m = 2 ^ Nat.log2 m
      let r := m - 2 ^ Nat.log2 m
      let up : Bool := match mode with
        -- log2 is above its integer part by at least one half when the square of the mantissa reaches 2
        | 0 => decide (2 * (2 ^ Nat.log2 m) ^ 2 < m * m)
        | 1 => decide (k < 0) && !exact
        | 2 => false
        | 3 => !exact
        | _ => decide (u * 2 ^ Nat.log2 m < r * 2 ^ 32)
      let x := if up then k + 1 else k
      let nx : W64 := if exact then 0 else NX
      if x < -127 then (0, UF ||| NX)
      else if 127 < x then (if sat then (0xFE, SAT ||| nx) else (0xFF, OF ||| nx))
      else ((x + 127).toNat, nx)

/-! ### The generator of R63 -/

/-- R63 `splitmix64`. -/
def splitmix64 (x : W64) : W64 :=
  let z := x + 0x9E3779B97F4A7C15
  let z := (z ^^^ (z >>> 30)) * 0xBF58476D1CE4E5B9
  let z := (z ^^^ (z >>> 27)) * 0x94D049BB133111EB
  z ^^^ (z >>> 31)
/-- R63 `draw`, in units of 2 to the -32. -/
def draw (seed pos : W64) : Nat := (splitmix64 (seed ^^^ (pos * 0xD1B54A32D192ED03))).toNat / 2 ^ 32
/-- R63: the draw of a lane of an instruction that writes a register: seed from word 3 of L0, position from warp, lane and
first source operand. DESIGN CHOICE (log 114): for what executes once in a warp the lane is the lowest of the slot's mask. -/
def State.laneDraw (s : State) (lane : Nat) (a : Nat) : Nat :=
  draw (BitVec.ofNat 64 ((smGet 0 s.shared.lregs 0).toNat / 2 ^ 192))
    (BitVec.ofNat 64 (32 * s.m.id + lane + (a % 2 ^ 32) * 2 ^ 11))

end Sys2Proof.Machine
end

