-- ==== Sys2Proof/Machine/Mem.lean ====
section
/-!
DEFINITION. Mem.lean: the memory, atomic and synchronisation instructions, opcodes 0x78 to 0x89 (R166 to R192). An access checks
every lane, then leaves an outstanding operation, whose reads and writes the events of Orrery.lean's moves perform.
-/
namespace Sys2Proof

/-- The bytes an access moves (R169). -/
def FM.bytes (f : FM) : Nat := 2 ^ f.size.toNat
/-- Whether a vector DATA names a pair (R100). -/
def FM.wide (f : FM) : Bool := f.size == 3

end Sys2Proof

namespace Sys2Proof.Machine

/-! ### Field checks (R166) -/

/-- Which fields of format M an entry leaves zero. -/
def zerosM (f : FM) (sub data base index ofs size space order scope cache cls : Bool) : Bool :=
  (sub || f.sub == 0) && (data || f.data == 0) && (base || f.base == 0) && (index || f.index == 0) && (ofs || f.ofs == 0) &&
  (size || f.size == 0) && (space || f.space == 0) && (order || f.order == 0) && (scope || f.scope == 0) &&
  (cache || f.cache == 0) && (cls || f.cls == 0)
/-- CLS ld or st. -/
def clsLdSt (f : FM) : Bool := decide (f.cls.toNat ≤ 1)
/-- CACHE 0 to 3. -/
def cacheOk (f : FM) : Bool := decide (f.cache.toNat ≤ 3)
/-- SPACE 0 to 3. -/
def spaceOk (f : FM) : Bool := decide (f.space.toNat ≤ 3)
/-- The orders an entry accepts, at a scope the mode accepts; an order other than `.rlx` not at `.lane` (R166). -/
def ordOk (s : State) (f : FM) (os : List Nat) : Bool :=
  os.contains f.order.toNat && s.scopeOk f.scope.toNat && (f.order == 0 || f.scope != 0)
/-- R167: what BASE may name in a space. -/
def baseOk (f : FM) : Bool := isS f.base || (isV f.base && (decide (2 ≤ f.space.toNat) || f.base.toNat % 2 == 0))
/-- A v register, or 511. -/
def vOrNone (sp : Spec) : Bool := isV sp || sp.toNat == 511
/-- SUB of a load: zero- or sign-extension, the latter with SIZE 0 or 1. -/
def extOk (f : FM) : Bool := f.sub == 0 || (f.sub == 1 && decide (f.size.toNat ≤ 1))
/-- The register uses of an address. -/
def addrUses (f : FM) : List SpecUse :=
  [{ spec := f.base, pair := decide (f.space.toNat ≤ 1) && isV f.base, ok511 := true }, { spec := f.index, ok511 := true }]

/-! ### Addresses and lanes (R167, R170) -/

/-- The address of a lane (R167); an atomic has no address index. -/
def State.addrOf (s : State) (f : FM) (idx : Bool) (lane : Nat) : Nat :=
  let n := f.base.toNat
  let b := if n = 511 then 0
    else if n < 256 then (if f.space.toNat ≤ 1 then (s.rd64 f.base 0 false lane).toNat else (s.rf.rv n lane).toNat)
    else if f.space.toNat ≤ 1 then (s.rf.rs (n - 256)).toNat else (s.rf.rs (n - 256)).toNat % 2 ^ 32
  let i := if idx && isV f.index then (s.rf.rv f.index.toNat lane).toNat else 0
  wrapN 64 (b + i + f.ofs.toInt)
/-- The lanes an access executes in: every guarded lane, or once. -/
def State.memLanes (s : State) (h : Hdr) (once : Bool) : List Nat :=
  if once then (if s.guardLow h then [lowLane s.active] else []) else s.guarded h
/-- Lanes with their addresses. -/
def State.laneAddrs (s : State) (f : FM) (idx : Bool) (ls : List Nat) : List (Nat × Nat) := ls.map (fun l => (l, s.addrOf f idx l))
/-- A memory slot: its checks and stalls; nothing when no lane executes; POISON on a marked source; then its effect. -/
def runM (s : State) (h : Hdr) (light : Bool) (uses : List SpecUse) (ok : Bool) (cls : Option Nat) (ls : List Nat)
    (go : State → State) : Out :=
  runSlot s (issueFault s h (classOk s .mem light h.role.toNat) uses (needs ok))
    (s.hazard uses || (ls != [] && (cls.map s.full).getD false))
    (fun s => if ls = [] then s.advance
      else if s.marked uses ls then s.raise { code := POISON, lanes := maskOf (s.markedLanes uses ls) } else go s)
/-- The pieces of a lane's read. -/
def piecesOf (elem : Option LyRef) (ls : List (Nat × List Part)) : List Piece :=
  ls.flatMap (fun l => l.2.map (fun p => { lane := l.1, off := 8 * p.1, loc := p.2.1, elem := elem }))
/-- A source value of a lane: the low bits of a register or pair. -/
def State.dataOf (s : State) (sp : Spec) (wide : Bool) (lane : Nat) : Nat :=
  if wide || decide (256 ≤ sp.toNat) then (s.rd64 sp 0 false lane).toNat else (s.rf.rv sp.toNat lane).toNat

/-! ### Loads and stores (R172, R173) -/

/-- Issue a load: its pieces are read by READ_PERFORM, its data comes back by LOAD_RETURN. -/
def State.issueLoad (s : State) (f : FM) (ps : List Piece) (d : Dest) (fill : List (Nat × W64)) : State :=
  (s.addOut { id := s.uid, cls := f.cls.toNat, kind := .load ps d fill, scope := s.scope f.scope.toNat, acq := f.order == 1 }).tick.advance
/-- A load, per lane or once. -/
def runLoad (s : State) (h : Hdr) (f : FM) (ok : Bool) (ls : List Nat) : Out :=
  runM s h false ({ spec := f.data, pair := f.wide, wr := true } :: addrUses f)
    (ok && zerosM f true true true true true true true true true true true && extOk f && decide (f.size.toNat ≤ 3) &&
      spaceOk f && ordOk s f [0, 1] && cacheOk f && clsLdSt f) (some f.cls.toNat) ls
    (fun s => s.withAccess f.space.toNat f.bytes 1 false (s.laneAddrs f true ls) (fun s acc =>
      s.issueLoad f (piecesOf none acc) { spec := f.data, size := f.bytes, signed := f.sub == 1, mask := maskOf ls } []))
/-- `ld` (R172). -/
def execLd (h : Hdr) (f : FM) (s : State) : Out :=
  runLoad s h f (isV f.data && baseOk f && vOrNone f.index) (s.memLanes h false)
/-- `lds` (R172). -/
def execLds (h : Hdr) (f : FM) (s : State) : Out :=
  runLoad s h f (isS f.data && isS f.base && f.index.toNat == 511) (s.memLanes h true)

/-- The writes of one lane's parts. -/
def State.writeParts (s : State) (op scope : Nat) (rel : Bool) (ps : List Part) (v : Nat) : State :=
  ps.foldl (fun t p => t.issueWrite op p.2.1 (v / 2 ^ (8 * p.1)) scope rel) s
/-- Note the release write of a lane (R295): one write where its parts lie together, else one for each. -/
def State.noteParts (s : State) (ps : List Part) (n v : Nat) : State :=
  match ps with
  | [] => s
  | p :: _ =>
    if ps.all (fun q => decide (q.2.1.place = p.2.1.place) && decide (q.2.1.bit = p.2.1.bit + 8 * q.1)) then
      s.noteRel p.2.1.place (p.2.1.bit / 8) (leBytes n v)
    else ps.foldl (fun t q => t.noteRel q.2.1.place (q.2.1.bit / 8) (leBytes (q.2.1.bits / 8) (v / 2 ^ (8 * q.1)))) s
/-- Issue a store: its writes enter the outbox, or are held (R292); the operation is retired by STORE_RETIRE. -/
def State.issueStore (s : State) (f : FM) (acc : List (Nat × List Part)) (val : Nat → Nat) : State :=
  let op := s.uid
  let rel := f.order == 2
  let s1 := (s.addOut { id := op, cls := f.cls.toNat, kind := .store, scope := s.scope f.scope.toNat, rel }).tick
  let s2 := if rel then acc.foldl (fun t l => t.noteParts l.2 f.bytes (val l.1)) s1 else s1
  (acc.foldl (fun t l => t.writeParts op (t.scope f.scope.toNat) rel l.2 (val l.1)) s2).advance
/-- A store, per lane or once. -/
def runStore (s : State) (h : Hdr) (f : FM) (ok : Bool) (ls : List Nat) : Out :=
  runM s h false ({ spec := f.data, pair := f.wide } :: addrUses f)
    (ok && zerosM f false true true true true true true true true true true && decide (f.size.toNat ≤ 3) && spaceOk f &&
      ordOk s f [0, 2] && cacheOk f && clsLdSt f) (some f.cls.toNat) ls
    (fun s => s.withAccess f.space.toNat f.bytes 2 false (s.laneAddrs f true ls) (fun s acc =>
      s.issueStore f acc (s.dataOf f.data f.wide)))
/-- `st` (R172). -/
def execSt (h : Hdr) (f : FM) (s : State) : Out :=
  runStore s h f (isV f.data && baseOk f && vOrNone f.index) (s.memLanes h false)
/-- `sts` (R172). -/
def execSts (h : Hdr) (f : FM) (s : State) : Out :=
  runStore s h f (isS f.data && isS f.base && f.index.toNat == 511) (s.memLanes h true)

/-- A lane's read of the constant segment (R84, R173, R316), whose bytes the launch holds; beyond its end PERM. -/
def State.constAt (s : State) (a n : Nat) : Option Nat :=
  if a + n ≤ s.wg.launch.args.length then some (leNat ((s.wg.launch.args.drop a).take n)) else none
/-- `ldk` (R173). A v base gives its 32 bits; an s base its 64. -/
def execLdk (h : Hdr) (f : FM) (s : State) : Out :=
  let ls := s.memLanes h (isS f.data)
  let uses : List SpecUse := [{ spec := f.data, pair := f.wide, wr := true }, { spec := f.base, ok511 := true }]
  runM s h false uses
    (zerosM f true true true false true true false false false true true && extOk f && decide (f.size.toNat ≤ 3) && cacheOk f && clsLdSt f &&
      (isV f.data || (isS f.data && !(isV f.base && !s.m.scalar))) && (isS f.base || isV f.base || f.base.toNat == 511)) (some f.cls.toNat) ls
    (fun s =>
      let rd (l : Nat) : Nat := wrapN 64 ((if isS f.base then (s.rf.rs (f.base.toNat - 256)).toNat
        else if isV f.base then (s.rf.rv f.base.toNat l).toNat else 0) + f.ofs.toInt)
      let bad := ls.filter (fun l => (s.constAt (rd l) f.bytes).isNone)
      if bad ≠ [] then s.raise { code := PERM, detail := 2, lanes := maskOf bad, addr := BitVec.ofNat 64 (rd (bad.headD 0)) }
      else s.issueLoad f [] { spec := f.data, size := f.bytes, signed := f.sub == 1, mask := maskOf ls }
        (ls.map (fun l => (l, BitVec.ofNat 64 ((s.constAt (rd l) f.bytes).getD 0)))))

/-- `pref` (R174): a line brought nearer; no fault, no counter, no architectural change but the touch of R311 (log 36). An address that
would fault, or that a marked register gives, is ignored. -/
def execPref (h : Hdr) (f : FM) (s : State) : Out :=
  let ls := s.memLanes h (!(isV f.base || isV f.index))
  let uses := addrUses f
  runSlot s (issueFault s h (classOk s .mem false h.role.toNat) uses
      (needs (zerosM f false false true true true false true false false true false && baseOk f && vOrNone f.index && spaceOk f && cacheOk f)))
    (s.hazard uses)
    (fun s =>
      let vas := (s.laneAddrs f true (ls.filter (fun l => !(s.marked uses [l])))).flatMap (fun la => match s.parts f.space.toNat la.2 1 1 with
        | .ok ps => ps.filterMap (·.2.2)
        | .error _ => [])
      (s.touchAll (pagesOf vas)).1.advance)

/-! ### Element accesses (R175) -/

/-- The fields that `ldx` and `stx` share. -/
def elemOk (s : State) (f : FM) (ords : List Nat) : Bool :=
  zerosM f true true true true false false false true true true true && decide (f.sub.toNat ≤ 1) && (isV f.data || isS f.data) &&
  (decide (f.base.toNat < 16) || isS f.base) && isV f.index && ordOk s f ords && cacheOk f && clsLdSt f
/-- The register uses of an element access, but for BASE when it names a layout register. -/
def elemUses (f : FM) (wr : Bool) : List SpecUse :=
  [{ spec := f.data, wr }, { spec := f.index }] ++ (if isS f.base then [{ spec := f.base }] else [])
/-- R175: what an element access does once its tensor is known: the checks on its index pair and a stall on it, the mark of a register
word that it would read (R171), then its effect with every lane's elements. -/
def State.withElems (s : State) (f : FM) (need : Nat) (ls : List Nat) (go : State → Tensor → List (Nat × Option (List Part)) → State) : State :=
  match s.tensorOf f.base (if need = 1 then 16 else 17) with
  | .error (c, d) => s.raise { code := c, detail := d, lanes := maskOf ls }
  | .ok (t, hv) =>
    let pair : SpecUse := { spec := f.index, pair := decide (32 < lyN t.2) }
    let psn (r : Nat × Option (List Part)) : Bool :=
      (r.2.getD []).any (fun p => (match p.2.1.place with | .reg _ _ => true | _ => false) && s.locPoison p.2.1)
    match specFault s pair with
    | some c => s.fault c
    | none =>
      if s.hazard [pair] then s
      else if s.marked [pair] ls then s.raise { code := POISON, lanes := maskOf (s.markedLanes [pair] ls) }
      else
        let rs := ls.map (fun l => s.laneElem t (f.sub == 1) need l (s.idxOf f.index t.2 l))
        let own := (passes rs).flatMap (fun r => (r.2.getD []).filterMap (fun p =>
          if p.2.1.place = .reg s.wg.wu s.m.id then some (p.2.1.bit / 1024) else none))
        if failures rs ≠ [] then s.raise (laneFault (failures rs))
        else if own.any (fun r => s.busyWrites.contains r || (need == 2 && s.busyReads.contains r)) then s
        else if need = 1 ∧ (passes rs).any psn = true then
          s.raise { code := POISON, lanes := maskOf (((passes rs).filter psn).map (·.1)) }
        else s.reach (hv ++ (passes rs).flatMap (fun r => (r.2.getD []).filterMap (·.2.2))) (fun s => go s t (passes rs))
/-- `ldx` (R175): a hole reads the fill value. -/
def execLdx (h : Hdr) (f : FM) (s : State) : Out :=
  let ls := s.memLanes h (isS f.data)
  runM s h false (elemUses f true) (elemOk s f [0, 1]) (some f.cls.toNat) ls (fun s => s.withElems f 1 ls (fun s t rs =>
    s.issueLoad f (piecesOf (some t.1) (rs.filterMap (fun r => r.2.map (fun ps => (r.1, ps)))))
      { spec := f.data, size := 4, mask := maskOf ls }
      (rs.filterMap (fun r => if r.2.isNone then some (r.1, BitVec.ofNat 64 (fillOf t.2)) else none))))
/-- `stx` (R175): a hole is not written; an element whose group has still to commit the pass being run holds the store (R52). -/
def execStx (h : Hdr) (f : FM) (s : State) : Out :=
  let ls := s.memLanes h (isS f.data)
  runM s h false (elemUses f false) (elemOk s f [0, 2]) (some f.cls.toNat) ls (fun s => s.withElems f 2 ls (fun s' t rs =>
    let waits := match s'.rlyOn t.1 with
      | none => false
      | some y => ls.any (fun l => let i := s'.idxOf f.index t.2 l; !(isHole t.2 i) && y.waits i)
    if waits then s
    else s'.issueStore f (rs.filterMap (fun r => r.2.map (fun ps => (r.1, ps)))) (s'.dataOf f.data false)))

/-! ### Atomics (R176 to R179) -/

/-- R176: SUB against SIZE. -/
def atomOk (f : FM) (ret : Bool) : Bool :=
  (f.size == 2 || f.size == 3) && decide (f.sub.toNat ≤ (if ret then 10 else 8)) && (f.sub != 1 || f.size == 2)
/-- R177: the register groups of the operands of `.cas`. -/
def casAlign (f : FM) : Nat := if isS f.index || f.size == 2 then 2 else 4
/-- R177: operands a and b of an atomic that INDEX names. -/
def State.atomOps (s : State) (f : FM) (lane : Nat) : W64 × W64 :=
  let n := f.index.toNat
  if isS f.index then (s.rf.rs (n - 256), if f.sub = 10 then s.rf.rs (n - 255) else 0)
  else if f.size = 3 then (s.rd64 f.index 0 false lane, if f.sub = 10 then s.rd64 (f.index + 2) 0 false lane else 0)
  else ((s.rf.rv n lane).setWidth 64, if f.sub = 10 then (s.rf.rv (n + 1) lane).setWidth 64 else 0)
/-- The lanes of an atomic. -/
def atomLanes (acc : List (Nat × List Part)) (ops : Nat → W64 × W64) (size : Nat) : List AtomLane :=
  acc.filterMap (fun l => l.2.head?.map (fun p =>
    { lane := l.1, loc := { p.2.1 with bits := 8 * size }, a := (ops l.1).1, b := (ops l.1).2 }))
/-- Issue an atomic. -/
def State.issueAtom (s : State) (f : FM) (ls : List AtomLane) (d : Option Dest) : State :=
  (s.addOut { id := s.uid, cls := f.cls.toNat, kind := .atom f.sub.toNat f.bytes ls d, scope := s.scope f.scope.toNat
              acq := f.order == 1 || f.order == 3, rel := f.order == 2 || f.order == 3 }).tick.advance
/-- `atom` (R176, R177). -/
def execAtom (h : Hdr) (f : FM) (s : State) : Out :=
  let ls := s.memLanes h (isS f.data)
  let cas := f.sub == 10
  let ops : List SpecUse := (if cas && isV f.index then
      (List.range (if f.wide then 4 else 2)).map (fun k => { spec := f.index + BitVec.ofNat 9 k }) else
    [{ spec := f.index, pair := f.wide && isV f.index }]) ++ (if cas && isS f.index then [{ spec := f.index + 1 }] else [])
  runM s h false ([{ spec := f.data, pair := f.wide, wr := true }, { spec := f.base, pair := decide (f.space.toNat ≤ 1) && isV f.base }] ++ ops)
    (atomOk f true && zerosM f true true true true true true true true true true true && spaceOk f && ordOk s f [0, 1, 2, 3] && cacheOk f &&
      clsLdSt f && baseOk f && ((isV f.data && (isV f.index || (isS f.index && !cas))) || (isS f.data && isS f.index && isS f.base)) &&
      (!cas || f.index.toNat % casAlign f == 0)) (some f.cls.toNat) ls
    (fun s => s.withAccess f.space.toNat f.bytes 3 true (s.laneAddrs f false ls) (fun s acc =>
      s.issueAtom f (atomLanes acc (s.atomOps f) f.bytes) (some { spec := f.data, size := f.bytes, mask := maskOf ls })))
/-- `ared` (R176, R177). -/
def execAred (h : Hdr) (f : FM) (s : State) : Out :=
  let ls := s.memLanes h (!(isV f.data || isV f.base || isV f.index))
  runM s h false ({ spec := f.data, pair := f.wide } :: addrUses f)
    (atomOk f false && zerosM f true true true true true true true true true true true && spaceOk f && ordOk s f [0, 2] && cacheOk f && clsLdSt f &&
      baseOk f && vOrNone f.index && (isV f.data || isS f.data)) (some f.cls.toNat) ls
    (fun s => s.withAccess f.space.toNat f.bytes 3 true (s.laneAddrs f true ls) (fun s acc =>
      s.issueAtom f (atomLanes acc (fun l => (BitVec.ofNat 64 (s.dataOf f.data f.wide l), 0)) f.bytes) none))

/-! ### Fences, cache maintenance (R180, R181) -/

/-- `fence` (R180, R292, R294): it waits until every older write of the member has reached the memory of its scope and every older read
has been performed; then, with an acquire part, the quad's view is refreshed. -/
def execFence (h : Hdr) (f : FM) (s : State) : Out :=
  let sc := s.scope f.scope.toNat
  let relPart := f.order != 1
  let acqPart := f.order != 2
  runM s h true [] (zerosM f false false false false false false false true true false false && f.scope != 0 && s.scopeOk f.scope.toNat) none
    (s.memLanes h true)
    (fun s =>
      if relPart && !(s.releaseReady s.ref s.m s.uid sc) then s
      else if acqPart then (s.acquire sc).advance else s.advance)
/-- `cflush`, `cinv` (R181): the lines leave the quad; the operation retires once they have reached the memory of the scope. -/
def runFlush (s : State) (h : Hdr) (f : FM) (inv : Bool) : Out :=
  let ls := s.memLanes h (!(isV f.base || isV f.index))
  runM s h false (addrUses f)
    (zerosM f false false true true true false true false true false true && baseOk f && vOrNone f.index && spaceOk f && f.scope != 0 &&
      s.scopeOk f.scope.toNat && clsLdSt f) (some f.cls.toNat) ls
    (fun s => s.withAccess f.space.toNat 1 1 false (s.laneAddrs f true ls) (fun s acc =>
      let lines := (acc.flatMap (fun l => l.2.filterMap (fun p => if p.2.1.place = .glob then some (p.2.1.bit / 1024) else none))).dedup
      (s.addOut { id := s.uid, cls := f.cls.toNat, kind := .flush lines inv, scope := s.scope f.scope.toNat }).tick.advance))
/-- `cflush` (R181). -/
def execCflush (h : Hdr) (f : FM) (s : State) : Out := runFlush s h f false
/-- `cinv` (R181). -/
def execCinv (h : Hdr) (f : FM) (s : State) : Out := runFlush s h f true

/-! ### Waits (R183 to R185) -/

/-- R183: the bound of a class in the operand word. -/
def wcntBound (f : FM) (cls : Nat) : Nat := bitsN f.ofs.toNat (8 * cls) 6
/-- `wcnt` (R183, R184): stalls until every counter is at or below its bound, then raises the oldest report, if there is one. -/
def execWcnt (h : Hdr) (f : FM) (s : State) : Out :=
  runM s h true [] (zerosM f false false false false true false false false false false false &&
      (List.range 4).all (fun k => bitsN f.ofs.toNat (8 * k + 6) 2 == 0)) none (s.memLanes h true)
    (fun s =>
      if (List.range 4).any (fun k => decide (wcntBound f k < s.m.count k)) then s
      else match s.m.reports with
        | [] => s.advance
        | c :: cs => if s.holdFull (dieOf s.wg.core) then s else (s.modM (fun m => { m with reports := cs })).raise
            { code := c, lanes := if s.m.scalar then 1 else s.active, flags := 16 })

/-- R185: the comparison of `wtval`. -/
def wtCmp (sub size v c : Nat) : Bool :=
  let (x, y) := if bitN sub 3 then (sext (8 * size) v, sext (8 * size) c) else ((v : Int), (c % 2 ^ (8 * size) : Int))
  match sub % 8 with
  | 0 => decide (x = y) | 1 => decide (x ≠ y) | 2 => decide (x < y) | 3 => decide (x ≤ y) | 4 => decide (y < x) | _ => decide (y ≤ x)
/-- One read of a running `wtval`: the value and whether it is poisoned, or the fault or wait it meets. -/
def State.wtRead (s : State) (f : FM) (go : State → Nat → Bool → State) : State :=
  let l := lowLane s.active
  s.withAccess f.space.toNat f.bytes 1 true [(l, s.addrOf f false l)] (fun s acc =>
    let loc := ((acc.head?.bind (fun a => a.2.head?)).map (fun p => p.2.1)).getD ⟨.glob, 0, 0⟩
    if !(s.mayRead s.uid loc) then s
    else go s (s.readLoc s.ref s.uid (quadOf s.wg.core) (if f.order = 1 then some (s.scope f.scope.toNat) else none) loc) (s.locPoison loc))
/-- End a `wtval` with a value: d is written, with a mark when the value is poisoned (R171), the acquire is taken, the path goes on. -/
def State.wtEnd (s : State) (f : FM) (v : Nat) (psn : Bool) : State :=
  let s1 := s.modM (fun m => { m with
    wt := m.wt.filter (fun w => w.slotB != m.curB)
    r := m.r.putData { spec := f.data, size := 8, mask := 1 } 0 v psn })
  (if f.order = 1 then s1.acquire (s1.scope f.scope.toNat) else s1).advance
/-- `wtval` (R185): one read; while the comparison fails the slot stays and the timeout runs. DESIGN CHOICE (log 127): a poisoned value is
compared as the bytes that stand there. -/
def execWtval (h : Hdr) (f : FM) (s : State) : Out :=
  let t := bitsN f.ofs.toNat 0 16
  runM s h false [{ spec := f.data, wr := true }, { spec := f.base }, { spec := f.index }]
    (zerosM f true true true true true true true true true false false && isS f.data && isS f.base && isS f.index && bitsN f.ofs.toNat 16 16 == 0 &&
      (f.size == 2 || f.size == 3) && spaceOk f && ordOk s f [0, 1] && decide (f.sub.toNat < 16) && decide (f.sub.toNat % 8 ≤ 5)) none
    (s.memLanes h true)
    (fun s => s.wtRead { f with ofs := 0 } (fun s v psn =>
      if wtCmp f.sub.toNat f.bytes v (s.rf.rs (f.index.toNat - 256)).toNat then s.wtEnd f v psn
      else
        let ws := s.m.wt.filter (fun w => w.slotB != s.m.curB)
        let mine : WtSt := (s.m.wt.find? (fun w => w.slotB == s.m.curB)).getD ⟨s.m.curB, if t = 0 then none else some t, 0⟩
        s.modM (fun m => { m with wt := ws ++ [{ mine with last := BitVec.ofNat 64 v }] })))

/-! ### Barriers (R186 to R188) -/

/-- `bar` (R121, R186, R187). -/
def execBar (h : Hdr) (f : FM) (s : State) : Out :=
  let sc := s.scope f.scope.toNat
  let n := barNum f
  runM s h true [] (barOk s f) none (s.memLanes h true)
    (fun s =>
      let part := s.m.bars.find? (fun p => p.scope = sc && p.num = n)
      match f.sub.toNat with
      | 0 => if part.isSome then s.fault ILLOP else ((s.parkBar sc n 0).tryArrive).fillSlots
      | 1 =>
        if !s.m.whole || part.isSome then s.fault ILLOP
        else if s.releaseReady s.ref s.m s.uid sc then (s.arrive sc n (barCount f)).advance else s
      | _ => if part.isNone then s.fault ILLOP else ((s.parkBar sc n 0).wakeWu s.wg.wu).fillSlots)

/-! ### Messages (R189 to R192) -/

/-- A forwarding entry for a workgroup takes what a sender sends: its new place is not known yet, or not to that sender (R326, R348). -/
def Forward.takes (f : Forward) (wu sender : Nat) : Bool := f.wu == wu && (f.toCore.isNone || f.senders.contains sender)
/-- `snd` (R189): the message leaves; MESSAGE_APPEND delivers it. -/
def execSnd (h : Hdr) (f : FM) (s : State) : Out :=
  let t := if f.base.toNat = 511 then f.ofs.toNat else (s.rf.rs (f.base.toNat - 256)).toNat
  runM s h false [{ spec := f.data }, { spec := f.base, ok511 := true }]
    (zerosM f false true true false true true false true true false true && decide (336 ≤ f.data.toNat) && decide (f.data.toNat < 340) &&
      (isS f.base || f.base.toNat == 511) && (isS f.base → f.ofs = 0) && f.size == 3 && ordOk s f [0, 2] && (f.scope == 1 || f.scope == 2) && f.cls == 1)
    (some 1) (s.memLanes h true)
    (fun s =>
      if 16 ≤ t then s.fault ILLOP
      else match s.rankWg (t / 4) with
        | none => s.raise { code := PERM, detail := 2, lanes := if s.m.scalar then 1 else s.active }
        | some w =>
          let id := s.uid
          let s1 := (s.addOut { id, cls := 1, kind := .message id, scope := f.scope.toNat, rel := f.order == 2 }).tick
          { s1 with mem := { s1.mem with msgs := s1.mem.msgs ++
            [(⟨id, s.ref, id, w.wu, t % 4, ⟨smGet 0 s.shared.sq (f.data.toNat - 336), f.order == 2⟩, f.scope.toNat,
              s.plat.forwards.any (·.takes w.wu (2 * s.wg.wu + 1))⟩ : Msg)] } }.advance)
/-- `rcv` (R192). -/
def execRcv (h : Hdr) (f : FM) (s : State) : Out :=
  let k := f.base.toNat - 340
  let cnt := f.sub == 1
  let ls := s.memLanes h (isS f.data)
  runM s h false [{ spec := f.data, pair := isV f.data, wr := true }, { spec := f.base }]
    (zerosM f true true true false false true false true true false true && decide (f.sub.toNat ≤ 1) && (isV f.data || isS f.data) &&
      decide (340 ≤ f.base.toNat) && decide (f.base.toNat < 344) && f.size == 3 && ordOk s f [0, 1] && (f.scope == 1 || f.scope == 2) && f.cls == 0)
    (some 0) ls
    (fun s =>
      let d : Dest := { spec := f.data, size := 8, mask := maskOf ls }
      let go (s : State) (v : W64) : State :=
        (s.addOut { id := s.uid, cls := 0, kind := .value v d, scope := f.scope.toNat, acq := f.order == 1, done := true }).tick.advance
      if cnt then go s (BitVec.ofNat 64 (smGet [] s.wg.iq k).length)
      else match s.iqHead k with
        | none => s
        | some e => go (s.iqPop k) e.val)

end Sys2Proof.Machine
end

