-- ==== Sys2Proof/Machine/MemEvents.lean ====
section
/-!
DEFINITION. MemEvents.lean: what happens to an access after it has issued, and to a member that waits: reads and atomics are
performed, data returns, writes move through the orrery, messages are appended, timers expire, pages move (R88, R119, R132, R182,
R185, R191, R288 to R296, R308 to R314). An event whose condition does not hold changes nothing.
-/
namespace Sys2Proof.Machine

/-! ### Reads (R291) -/

/-- The byte that some pieces have read at an address of a place. -/
def pieceByte (ps : List Piece) (pl : Place) (a : Nat) : Option Byte :=
  (ps.find? (fun p => decide (p.loc.place = pl) && decide (p.loc.bit / 8 ≤ a) && decide (8 * a < p.loc.bit + p.loc.bits))).map (fun p =>
    BitVec.ofNat 8 (p.val.getD 0 / 2 ^ (8 * (a - p.loc.bit / 8))))
/-- R295: some pieces have read some but not all bytes of a release write. -/
def State.readsPart (s : State) (ps : List Piece) : Bool :=
  s.mem.rels.any (fun r =>
    let hits := (List.range r.2.2.length).filter (fun k => pieceByte ps r.1 (r.2.1 + k) == some (r.2.2.getD k 0))
    hits != [] && decide (hits.length < r.2.2.length))
/-- R295: a lane of an acquire stands as a relaxed read: every piece was read so, and it read part of a release write. -/
def State.laneRelaxed (s : State) (ps : List Piece) (lane : Nat) : Bool :=
  let mine := ps.filter (fun p => p.lane = lane)
  mine.all (·.rlx) && s.readsPart mine
/-- When every read of an acquire has been performed, the quad's view is refreshed and the acquire is over (R293). A lane read as relaxed
needs no refresh where R295 allows that; else it is read again. -/
def State.acqDone (s : State) (op : Nat) : State :=
  match s.m.outs.find? (fun o => o.id = op) with
  | none => s
  | some o =>
    if !o.acq || o.done || !o.readsDone then s
    else
      let finish (t : State) : State := t.modOut op (fun o => { o with done := true })
      match o.kind with
      | .load ps d fill =>
        if !(ps.any (·.rlx)) then finish (s.acquire o.scope)
        else if ps.all (fun p => s.laneRelaxed ps p.lane) then finish s
        else if ps.any (fun p => p.rlx && !(s.laneRelaxed ps p.lane)) then
          let again (p : Piece) : Piece := if p.rlx && !(s.laneRelaxed ps p.lane) then { p with val := none, rlx := false } else p
          s.modOut op (fun o => { o with kind := .load (ps.map again) d fill })
        else finish (s.acquire o.scope)
      | _ => finish (s.acquire o.scope)
/-- Perform one piece of a load; `rlx` performs a piece of an acquire as a relaxed read (R295). -/
def State.performPiece (s : State) (op k : Nat) (rlx : Bool) : State :=
  match s.m.outs.find? (fun o => o.id = op) with
  | some o => (match o.kind with
    | .load ps d fill => (match ps[k]? with
      | some p =>
        if p.val.isSome || !(s.mayRead op p.loc) then s
        else
          let v := s.readLoc s.ref op (quadOf s.wg.core) (if o.acq && !rlx then some o.scope else none) p.loc
          let p' := { p with val := some v, psn := s.locPoison p.loc, rlx := o.acq && rlx }
          (s.modOut op (fun o => { o with kind := .load (setAt ps k p') d fill })).acqDone op
      | none => s)
    | _ => s)
  | none => s
/-- `READ_PERFORM` (R291). -/
def execReadPerform (r : MRef) (op piece : Nat) (s : State) : Out := onMember s r (·.performPiece op piece false)
/-- `LOAD_RETURN` (R182): the oldest operation of the ld class retires, when its data is there. -/
def execLoadReturn (r : MRef) (s : State) : Out := onMember s r (fun s => s.retireHead 0)
/-- `STORE_RETIRE` (R182, R290): the oldest operation of the st class retires, when its writes have got far enough. -/
def execStoreRetire (r : MRef) (s : State) : Out := onMember s r (fun s => s.retireHead 1)

/-! ### Atomics (R176 to R179, R296) -/

/-- R176: the new value of one read-modify-write. -/
def atomStep (sub size old : Nat) (l : AtomLane) : Nat :=
  if sub = 1 then (encO 1 0 false 0 (sumV 0 [fDec 1 old, fDec 1 (l.a.toNat % 2 ^ 32)])).1
  else atomNew sub size old (l.a.toNat % 2 ^ (8 * size)) (l.b.toNat % 2 ^ (8 * size))
/-- The old value that each lane of one location sees, ascending, and the value left at the end (R178). -/
def atomRun (sub size : Nat) : Nat → List AtomLane → List (Nat × Nat) × Nat
  | v, [] => ([], v)
  | v, l :: ls => let r := atomRun sub size (atomStep sub size v l) ls; ((l.lane, v) :: r.1, r.2)
/-- How far the member's own older writes must be for an atomic at a place (R170): drained for QV, in PM, or at the home copy. -/
def placeNeed (place : Nat) : Nat := match place with | 0 => 1 | 1 => 3 | _ => 5
/-- The write that an atomic leaves on its way (R296): in QV, or in PM where PM is not the home copy. -/
def State.atomWrite (s : State) (o : OutOp) (a : Nat) (bs : List Byte) (stage : WStage) : State :=
  { s with uid := s.uid + 1, mem := { s.mem with writes := s.mem.writes ++
    [{ id := s.uid, quad := quadOf s.wg.core, owner := s.ref, op := o.id, place := .glob, addr := a, bytes := bs, scope := o.scope, stage }] } }
/-- Put bytes that have just reached their home into a quad's view, where it holds no later write (R289). -/
def State.fillBytes (s : State) (quad a : Nat) (bs : List Byte) : State :=
  let qv := (List.range bs.length).foldl (fun m i =>
    if s.viewLater quad (a + i) then m else memPut m (a + i) (bs.getD i 0)) (smGet [] s.mem.qv quad)
  { s with mem := { s.mem with qv := smPut [] s.mem.qv quad qv } }
/-- Put bytes into PM where the package has no later write on its way. -/
def State.fillPm (s : State) (a : Nat) (bs : List Byte) : State :=
  let own := s.mem.writes.filter (fun w => decide (3 ≤ w.stage.num))
  { s with mem := { s.mem with pm := (List.range bs.length).foldl (fun m i =>
      if own.any (fun w => w.covers .glob (a + i)) then m else memPut m (a + i) (bs.getD i 0)) s.mem.pm } }
/-- The value at an atomic's place, and the state with the new value there (R296). -/
def State.atomAt (s : State) (o : OutOp) (l : Loc) (size : Nat) (f : Nat → Nat) : Nat × State :=
  let a := l.bit / 8
  let q := quadOf s.wg.core
  match l.place with
  | .sp c =>
    let sp := smGet [] s.mem.sp c
    let old := memNat sp a size
    (old, s.spPuts c a (leBytes size (f old)))
  | .reg _ _ => (0, s)
  | .glob => (match s.atomPlace o.scope a with
    | 0 =>
      let s1 := s.drainAll q (fun w => l.meets w)
      let qv := smGet [] s1.mem.qv q
      let old := memNat qv a size
      let bs := leBytes size (f old)
      (old, ({ s1 with mem := { s1.mem with qv := smPut [] s1.mem.qv q (memPuts qv a bs) } } : State).atomWrite o a bs .qv)
    | 1 =>
      let old := memNat s.mem.pm a size
      let bs := leBytes size (f old)
      let s1 := (s.pmPuts a bs).fillBytes q a bs
      (old, if s.homed a && !(s.remoteHeld a) then s1 else s1.atomWrite o a bs .pm)
    | _ =>
      let old := leNat ((List.range size).map (fun i => s.gmByte (a + i)))
      let bs := leBytes size (f old)
      (old, ((s.homePuts a bs).fillPm a bs).fillBytes q a bs))
/-- Perform the lanes of an atomic that share a lane's location (R178, R179). -/
def State.performAtom (s : State) (op lane : Nat) : State :=
  match s.m.outs.find? (fun o => o.id = op) with
  | some o => (match o.kind with
    | .atom sub size ls d => (match ls.find? (fun l => l.lane = lane && l.old.isNone) with
      | none => s
      | some l =>
        let grp := ls.filter (fun k => decide (k.loc = l.loc) && k.old.isNone)
        let need := if l.loc.place = .glob then placeNeed (s.atomPlace o.scope (l.loc.bit / 8)) else 5
        let atHome := decide (l.loc.place = .glob) && s.atomPlace o.scope (l.loc.bit / 8) == 2
        if (o.rel && !(s.releaseReady s.ref s.m op o.scope)) || (atHome && !(s.lineReady (l.loc.bit / 1024))) ||
            !(s.mayRead op l.loc) ||
            s.mem.writes.any (fun w => decide (w.owner = s.ref) && decide (w.op < op) && l.loc.meets w && decide (w.stage.num < need)) then s
        else if s.locPoison l.loc then
          let left := ls.filter (fun k => !(decide (k.loc = l.loc)))
          (s.modOut op (fun o => { o with report := some ATOMPOISON, kind := .atom sub size left d })).acqDone op
        else
          let v0 := (s.atomAt o l.loc size id).1
          let run := atomRun sub size v0 grp
          let s0 := (s.atomAt o l.loc size (fun _ => run.2)).2
          let s1 := if o.rel then s0.noteRel l.loc.place (l.loc.bit / 8) (leBytes size run.2) else s0
          let done := ls.map (fun k => match run.1.find? (fun x => x.1 = k.lane) with
            | some x => { k with old := some (BitVec.ofNat 64 x.2) }
            | none => k)
          (s1.modOut op (fun o => { o with kind := .atom sub size done d })).acqDone op)
    | _ => s)
  | none => s
/-- `ATOMIC_PERFORM` (R296). -/
def execAtomicPerform (r : MRef) (op : Nat) (lane : Nat) (s : State) : Out := onMember s r (·.performAtom op lane)

/-! ### Writes (R288) -/

/-- Do something to a pending write. -/
def onWrite (s : State) (w : Nat) (f : PWrite → State) : Out := .next (match s.findWrite w with | some x => f x | none => s)
/-- `WRITE_DRAIN` (R288): a write that was held back enters the outbox; one in the outbox drains. -/
def execWriteDrain (w : Nat) (s : State) : Out :=
  onWrite s w (fun x =>
    if x.stage = .held then (if s.mayEnter x then s.enterWrite x else s) else if s.mayDrain x then s.drainWrite x else s)
/-- `WRITE_PUSH` (R288). -/
def execWritePush (w : Nat) (s : State) : Out := onWrite s w (fun x => if s.mayPush x then s.pushWrite x else s)
/-- This package has a request for a line on its way. -/
def State.asked (s : State) (line : Nat) : Bool :=
  let mine (m : FabMsg) : Bool := m.src == s.plat.pkg && m.line == line && decide (1 ≤ m.kind) && decide (m.kind ≤ 3)
  s.fab.net.any mine || s.fab.waiting.any mine || s.fab.trans.any (fun t => t.req.any mine)
/-- Send a request for a line, once. -/
def State.request (s : State) (kind line : Nat) : State :=
  if s.asked line then s
  else
    let m : FabMsg := { kind := kind, src := s.plat.pkg, dst := pkgOf (128 * line), tag := s.fab.tag % 65536, line := line }
    ({ s with fab := { s.fab with tag := s.fab.tag + 1 } } : State).send m
/-- R373: the request that a write's send is: an upgrade where the package holds the line, else a read exclusive. -/
def State.requestLine (s : State) (line : Nat) : State :=
  let st := smGet 0 s.fab.peer line
  if st = 2 ∨ st = 3 then s else s.request (if st = 0 then 2 else 3) line
/-- `WRITE_SEND` (R288); a write in GI whose line was taken away meanwhile asks for it again. -/
def execWriteSend (w : Nat) (s : State) : Out :=
  onWrite s w (fun x =>
    if s.maySend x then (s.modWrite w (fun x => { x with stage := .gi })).requestLine (x.addr / 128)
    else if x.stage = .gi then s.requestLine (x.addr / 128) else s)
/-- R375: this package's request for a line waits at the switch for an entry of a full set. -/
def State.waitsForSet (s : State) (line : Nat) : Bool :=
  s.fab.waiting.any (fun m => m.src == s.plat.pkg && m.line == line && (m.kind == 2 || m.kind == 3)) && !(s.fab.trans.any (fun t => t.line = line))
/-- R373, R375: a write may be granted once its package owns the line in M, or is its home and no other package holds it, or the
line waits behind a recall and the write goes home uncached. -/
def State.ownsLine (s : State) (line : Nat) : Bool :=
  (s.homed (128 * line) && !(s.fab.remote.contains line)) || s.waitsForSet line ||
  (match smFind s.fab.dir line with
   | some d => (d.st == 3 && d.owner == s.plat.pkg) || s.fab.trans.any (fun t => decide (t.line = line) && t.recallCause.isSome)
   | none => s.fab.trans.any (fun t => decide (t.line = line) && t.recallCause.isSome))
/-- R367: whether a transaction on a line goes astray, because the plane tables differ there: a free choice. -/
def State.strays (s : State) (line : Nat) : Bool := s.splitLine line && Config.choice s.fab.tag
/-- `WRITE_GRANT` (R288, R373). A write that goes to the wrong plane may be lost from its line (R367). -/
def execWriteGrant (w : Nat) (s : State) : Out :=
  onWrite s w (fun x =>
    if s.mayGrant x && s.ownsLine (x.addr / 128) then
      (if s.strays (x.addr / 128) then { s.dropWrite x.id with fab := { s.fab with tag := s.fab.tag + 1 } } else s.grantWrite x)
    else s)
/-- Fill the bytes of a line that a mask names (R288, R289). A fill from GM of a line that this package does not hold is a read-shared
transaction (R373): the line comes with its data. One to the wrong plane may leave what is stale there (R367). -/
def State.fillMove (s : State) (toQuad : Option Nat) (line mask : Nat) : State :=
  if toQuad.isNone && s.strays line then { s with fab := { s.fab with tag := s.fab.tag + 1 } }
  else if toQuad.isSome || (s.homed (128 * line) && !(s.remoteHeld (128 * line))) || smGet 0 s.fab.peer line != 0 then s.fillSome toQuad line mask
  else s.request 1 line
/-- `WRITE_FILL` (R288, R289): a whole line. -/
def execWriteFill (toQuad : Option Nat) (line : Nat) (s : State) : Out := .next (s.fillMove toQuad line (2 ^ 128 - 1))

/-! ### Messages (R189 to R191) -/

/-- Whether a message may be appended now: in send order from one sender to one queue; a release first waits for older writes. -/
def State.mayAppend (s : State) (q : Msg) : Bool :=
  !((s.mem.msgs.takeWhile (fun x => x.id != q.id)).any (fun x => x.owner = q.owner && x.toWu == q.toWu && x.queue == q.queue)) &&
  (!q.entry.rel || (match s.findMem q.owner with
    | none => true
    | some m => s.mem.writes.all (fun w => !(decide (w.owner = q.owner) && decide (w.op < q.op)) || w.reached q.scope) &&
        m.outs.all (fun o => !(decide (o.id < q.op)) || o.readsDone)))
/-- End the `snd` of a message, with a report when it was refused. -/
def State.sndDone (s : State) (q : Msg) (report : Option Nat) : State :=
  s.modMem q.owner (fun m => { m with outs := replaceFirst (fun o => o.id = q.op) (fun o => { o with done := true, report }) m.outs })
/-- Append a message to the receive queues of a workgroup: none when 32 entries wait there. -/
def Workgroup.appendMsg (w : Workgroup) (q : Nat) (e : QEntry) : Option Workgroup :=
  if Config.queueDepth ≤ (smGet [] w.iq q).length then none else some { w with iq := smPut [] w.iq q (smGet [] w.iq q ++ [e]) }
/-- Traffic for a workgroup from a sender; `via` says that it went by way of a forwarding entry: that one's path is not quiet (R326). -/
def State.noteTraffic (s : State) (wu sender : Nat) (via : Bool) : State :=
  let fs := s.plat.forwards.map (fun f => if f.takes wu sender || (via && f.wu == wu) then { f with quiet := 0 } else f)
  { s with plat := { s.plat with forwards := fs } }
/-- `MESSAGE_APPEND` (R191): appended, or refused with QFULL when 32 entries wait. A message to a workgroup saved away goes to its saved
queues (R348). -/
def execMessageAppend (msg : Nat) (s : State) : Out := .next (
  match s.mem.msgs.find? (fun q => q.id = msg) with
  | none => s
  | some q =>
    if !(s.mayAppend q) then s
    else
      let s1 := ({ s with mem := { s.mem with msgs := dropFirst (fun x => x.id = msg) s.mem.msgs } } : State).noteTraffic q.toWu (2 * q.owner.wu + 1) q.via
      match s1.findWu q.toWu, s1.eng.saves.find? (fun w => w.wu = q.toWu) with
      | some w, _ => (match w.appendMsg q.queue q.entry with
        | none => s1.sndDone q (some QFULL)
        | some w1 => (s1.modWu q.toWu (fun w => { w with iq := w1.iq })).sndDone q none)
      | none, some w => (match w.appendMsg q.queue q.entry with
        | none => s1.sndDone q (some QFULL)
        | some w1 =>
          let saves := replaceFirst (fun x => x.wu = q.toWu) (fun _ => w1) s1.eng.saves
          ({ s1 with eng := { s1.eng with saves := saves } } : State).sndDone q none)
      | none, none => s1.sndDone q none)

/-! ### Timers (R119, R132, R185) -/

/-- `WTVAL_TIMEOUT` (R185): the last value read is written. -/
def execWtvalTimeout (r : MRef) (s : State) : Out :=
  onMember s r (fun s => match s.m.wt.find? (fun w => w.left = some 0) with
    | none => s
    | some w =>
      let s1 := s.modM (fun m => { m with curB := w.slotB })
      match (s1.slotAt s1.m.path.pc).map decode with
      | some (.wtval _ f) => s1.wtRead { f with ofs := 0 } (fun t v psn => t.wtEnd f v psn)
      | _ => s1.modM (fun m => { m with wt := m.wt.filter (fun x => x ≠ w) }))
/-- `JOIN_TIMEOUT` (R119): the parked lanes of a record whose timer has run out leave for the timeout target, when a slot is free. -/
def execJoinTimeout (r : MRef) (e : Nat) (s : State) : Out :=
  onMember s r (fun s => match smFind s.m.pool e with
    | some (.record false o (.run 0) pm pc) =>
      if pm = 0 then s
      else (match s.m.placeSlot { pc := timeoutTarget s pc, mask := pm, jrec := o } with
        | (m1, true) => { s with m := { m1 with pool := smIns m1.pool e (.record false o .spent 0 pc) } }
        | (_, false) => s)
    | _ => s)
/-- R132: the watchdog of a member is due. -/
def Member.wdDue (m : Member) : Bool := m.wdBudget != 0 && decide (m.wdBudget * 1024 ≤ m.wdCount) && !m.gone
/-- The path that holds the member's lowest lane left, when no slot is live: where it waits, and its lanes. DESIGN CHOICE (log 118): lanes
parked in a return record count as waiting at its return point, the only pointer the record holds. -/
def Member.waitingPath (m : Member) : Pc × Mask :=
  let low := lowLane (m.allLanes &&& ~~~m.exited)
  let ps := m.parked.map (fun q => (q.path.pc, q.path.mask)) ++ m.pool.map (fun e => match e.2 with
    | .path _ p => (p.pc, p.mask)
    | .record _ _ _ pm pc => (pc, pm))
  (ps.find? (fun p => p.2.getLsbD low)).getD ({}, 0)
/-- The WATCHDOG records of a member: one for each live slot, else one for the path that waits (R132). -/
def State.watchdogRecords (s : State) : State :=
  let flt (l : Mask) : Flt := { code := WATCHDOG, lanes := if s.m.scalar then 1 else l }
  match s.m.a, s.m.b with
  | none, none => (s.modM (fun m => { m with curB := false })).postFault s.m.waitingPath.1 (flt s.m.waitingPath.2) true
  | a, b =>
    let s1 := (match a with | some p => (s.modM (fun m => { m with curB := false })).postFault p.pc (flt p.mask) true | none => s)
    match b with | some p => (s1.modM (fun m => { m with curB := true })).postFault p.pc (flt p.mask) true | none => s1
/-- `WATCHDOG` (R132): the records, the stop, the policy. -/
def execWatchdog (r : MRef) (s : State) : Out :=
  onMember s r (fun s =>
    if !s.m.wdDue || s.wg.stop != .running || s.holdFull (dieOf s.wg.core) then s
    else
      let s1 := s.watchdogRecords.modW (fun w => { w with stop := .fault false })
      s1.applyPolicy s1.wg)

/-! ### Fetch and issue (R88, R329) -/

/-- An almanac count rises, and saturates at 2^64 - 1 (R404). -/
def bump (m : SMap Nat) (k n : Nat) : SMap Nat := smPut 0 m k (min (smGet 0 m k + n) (2 ^ 64 - 1))
/-- Change the almanac. -/
def State.modAlm (s : State) (f : Almanac → Almanac) : State := { s with plat := { s.plat with almanac := f s.plat.almanac } }
/-- The almanac's number of the unit that a soft error strikes: a scratchpad by core, an HBM stack, a CXL port, a cache (R314, R404). -/
def softUnit (place : ErrPlace) (addr : Nat) : Nat :=
  match place with
  | .scratch c => c
  | .global => if inFar (offOf addr) then 4352 + portOf (offOf addr) else 4096 + stackOf (offOf addr)
  | .cache kind unit => 16384 + 4096 * kind + unit
/-- A soft error is corrected and counted (R314). -/
def State.softError (s : State) (place : ErrPlace) (addr : Nat) : State :=
  s.modAlm (fun a => { a with soft := bump a.soft (softUnit place addr) 1 })
/-- The slot that the executing path of a member would fetch. -/
def State.toSlot (s : State) (slotB : Bool) : State := s.modM (fun m => { m with curB := slotB })
/-- R88: the parity of each slot and of the line's own fields. -/
def lineParityOk (bs : List Byte) : Bool :=
  (List.range 5).all (fun k => parity 96 (slotBits bs k).toNat == bitN (lineWord bs) (16 + k)) &&
  parity 16 (lineWord bs) == bitN (lineWord bs) 21
/-- `LINE_REFETCH` (R88): a line whose parity failed counts as a soft error and is fetched anew from memory; when that fails too,
MALLINE. -/
def execLineRefetch (r : MRef) (slotB : Bool) (s : State) : Out :=
  onMember s r (fun s =>
    let s := s.toSlot slotB
    if (if slotB then s.m.b else s.m.a).isNone || s.wg.stop != .running then s
    else match s.xlate (s.m.path.pc.line.toNat * 64) 4 with
      | .error _ => s
      | .ok pa =>
        let q := quadOf s.wg.core
        let k := icKey s.wg.core pa
        let held := (smFind s.mem.icache k).getD (s.viewLine q pa)
        if lineParityOk held then s
        else
          let s1 := ({ s with mem := { s.mem with icache := smDel s.mem.icache k } } : State).softError (.cache 1 s.wg.core) 0
          if lineParityOk (s1.viewLine q pa) then s1 else s1.fault MALLINE)
/-- R329: a slot left ready and unpicked for 64 cycles is promoted; its wait is told by its count alone. -/
def execSlotPromotion (r : MRef) (slotB : Bool) (s : State) : Out :=
  onMember s r (fun s => s.modM (fun m => if slotB then { m with waitB := max m.waitB 64 } else { m with waitA := max m.waitA 64 }))

/-! ### Storage errors, walks, moves (R308 to R314) -/

/-- `STORAGE_ERROR` (R314): an uncorrectable error marks the line; a correctable one is corrected and counted. -/
def execStorageError (place : ErrPlace) (addr : Nat) (hard : Bool) (s : State) : Out := .next (
  let mark : State :=
    let psn := if s.mem.psn.contains (addr / 128) then s.mem.psn else addr / 128 :: s.mem.psn
    { s with mem := { s.mem with psn := psn, cover := smDel s.mem.cover (addr / 128) } }
  if hard then match place with
    | .global => mark
    | .cache _ _ => mark
    | .scratch c =>
      let psn := if s.mem.spPsn.contains (c, addr / 128) then s.mem.spPsn else (c, addr / 128) :: s.mem.spPsn
      { s with mem := { s.mem with spPsn := psn, spCover := smDel s.mem.spCover (c * 2 ^ 24 + addr / 128) } }
  else s.softError place addr)
/-- `PAGE_WALK` (R308, R310): a walk of the tables ends; its translation is kept, a fault is not. -/
def execPageWalk (ctx va : Nat) (s : State) : Out := .next (s.tlbFill s.wg.core ctx va)

/-- An address after the page of `n` bytes it lies in has moved. -/
def movedAddr (old new n a : Nat) : Nat := if a / n = old / n then a - old + new else a
/-- A location after the page it lies in has moved. -/
def Loc.moved (l : Loc) (old new n : Nat) : Loc :=
  if l.place = .glob then { l with bit := 8 * movedAddr old new n (l.bit / 8) + l.bit % 8 } else l
/-- Bytes of a command have landed for its target node (R252). -/
def State.landBytes (s : State) (node : Option (NRef × Nat)) (n : Nat) : State :=
  match node with
  | none => s
  | some (r, g) => s.modNode r (fun x => if x.gen = g then { x with bytes := x.bytes - n } else x)
/-! ### Where things on their way stand, after a move -/

/-- The parts of a value, each moved. -/
def Slice.mapLoc (f : Loc → Loc) (sl : Slice) : Slice := sl.map (fun p => (p.1, f p.2))
/-- An engine move's locations, each moved. -/
def EMove.mapLoc (f : Loc → Loc) (mv : EMove) : EMove :=
  { mv with srcs := mv.srcs.map (Slice.mapLoc f), dsts := mv.dsts.map (Slice.mapLoc f) }
/-- The locations of a command's other work. -/
def EngWork.mapLoc (f : Loc → Loc) (w : EngWork) : EngWork :=
  match w with
  | .alloc pool seqs k => .alloc pool (seqs.map (fun q => (q.1, q.2.map (Slice.mapLoc f)))) k
  | w => w
/-- A relayout's locations. -/
def RlySt.mapLoc (f : Loc → Loc) (y : RlySt) : RlySt := { y with locs := y.locs.map (Slice.mapLoc f) }
/-- A command's locations. -/
def EngOp.mapLoc (f : Loc → Loc) (e : EngOp) : EngOp :=
  { e with moves := e.moves.map (EMove.mapLoc f), work := e.work.mapLoc f, rly := e.rly.map (RlySt.mapLoc f) }
/-- The locations of a member's operation. -/
def OutOp.mapLoc (f : Loc → Loc) (o : OutOp) : OutOp :=
  let kind := match o.kind with
    | .load ps d fill => .load (ps.map (fun p => { p with loc := f p.loc })) d fill
    | .atom sub sz ls d => .atom sub sz (ls.map (fun l => { l with loc := f l.loc })) d
    | k => k
  { o with kind := kind }
/-- The locations of a matrix instruction. -/
def MxOp.mapLoc (f : Loc → Loc) (q : MxOp) : MxOp :=
  let go := List.map (Slice.mapLoc f)
  { q with src1 := go q.src1, src2 := go q.src2, sc1 := go q.sc1, sc2 := go q.sc2, dst := go q.dst }
/-- The locations of a workgroup's operations. -/
def Workgroup.mapLoc (f : Loc → Loc) (w : Workgroup) : Workgroup :=
  let members := w.members.map (fun m => { m with outs := m.outs.map (OutOp.mapLoc f) })
  let queue := w.mx.queue.map (MxOp.mapLoc f)
  { w with members := members, mx := { w.mx with queue := queue } }
/-- Move every location that something on its way still has to touch. -/
def State.mapLocs (s : State) (f : Loc → Loc) : State :=
  let outs := s.m.outs.map (OutOp.mapLoc f)
  let nodes := s.eng.nodes.map (fun n => { n with engMoves := n.engMoves.map (EMove.mapLoc f) })
  let eng := { s.eng with
    ops := s.eng.ops.map (EngOp.mapLoc f)
    nodes := nodes
    paused := s.eng.paused.map (RlySt.mapLoc f)
    saves := s.eng.saves.map (Workgroup.mapLoc f) }
  { s with m := { s.m with outs := outs }, wg := s.wg.mapLoc f, wgs := s.wgs.map (Workgroup.mapLoc f), eng := eng }
/-- A line's number after the page of `n` bytes it lies in has moved. -/
def movedLine (old new n line : Nat) : Nat := movedAddr old new n (128 * line) / 128
/-- Keyed data after its keys have moved: what stood at a new place is gone. -/
def SMap.moved {α : Type} (m : SMap α) (move : Nat → Nat) : SMap α :=
  let gone (k : Nat) : Bool := m.any (fun x => decide (move x.1 ≠ x.1) && decide (move x.1 = k))
  (m.filter (fun x => decide (move x.1 ≠ x.1) || !(gone x.1))).foldl (fun t x => smIns t (move x.1) x.2) []
/-- Copy a frame's bytes in one memory. -/
def moveFrame (m : Memory) (old new n : Nat) : Memory :=
  (m.filter (fun c => c.1 / n = old / n)).foldl (fun x c => memPut x (movedAddr old new n c.1) c.2)
    (m.filter (fun c => c.1 / n ≠ new / n))
/-- A handle's entry follows its page. -/
def RlySt.entryMoved (y : RlySt) (old new n : Nat) : RlySt := { y with entry := movedAddr old new n y.entry }
/-- The lines of a flush follow their page. -/
def OutOp.linesMoved (o : OutOp) (old new n : Nat) : OutOp :=
  match o.kind with
  | .flush ls inv => { o with kind := .flush (ls.map (movedLine old new n)) inv }
  | _ => o
/-- The flushes of a workgroup follow their page. -/
def Workgroup.linesMoved (w : Workgroup) (old new n : Nat) : Workgroup :=
  { w with members := w.members.map (fun m => { m with outs := m.outs.map (·.linesMoved old new n) }) }
/-- What the fabric knows of a page's lines follows it: entries, transactions, messages, peer lines, remote-held bits (R369). -/
def Fabric.linesMoved (f : Fabric) (old new n : Nat) : Fabric :=
  let mv := movedLine old new n
  let msg (m : FabMsg) : FabMsg := { m with line := mv m.line }
  { f with
    dir := SMap.moved f.dir mv
    trans := f.trans.map (fun t => { t with line := mv t.line, req := t.req.map msg })
    waiting := f.waiting.map msg
    net := f.net.map msg
    peer := SMap.moved f.peer mv
    evict := SMap.moved f.evict mv
    remote := (f.remote.filter (fun l => decide (128 * l / n ≠ new / n))).map mv }
/-- Everything on its way, and every copy, follows a page of `n` bytes to its new frame (R311). -/
def State.followPage (s : State) (old new n : Nat) : State :=
  let s0 := s.mapLocs (·.moved old new n)
  let ops := s0.eng.ops.map (fun e => { e with rly := e.rly.map (·.entryMoved old new n) })
  let paused := s0.eng.paused.map (·.entryMoved old new n)
  let outs := s0.m.outs.map (·.linesMoved old new n)
  let psn := (s.mem.psn.filter (fun l => decide (128 * l / n ≠ new / n))).map (movedLine old new n)
  let wr := fun (w : PWrite) => if w.place = .glob then { w with addr := movedAddr old new n w.addr } else w
  let mem := { s.mem with
    pm := moveFrame s.mem.pm old new n
    gm := moveFrame s.mem.gm old new n
    qv := s.mem.qv.map (fun q => (q.1, moveFrame q.2 old new n))
    psn := psn
    cover := SMap.moved s.mem.cover (movedLine old new n)
    rels := s.mem.rels.map (fun r => if r.1 = .glob then (r.1, movedAddr old new n r.2.1, r.2.2) else r)
    writes := s.mem.writes.map wr }
  { s0 with
    m := { s0.m with outs := outs }
    wg := s0.wg.linesMoved old new n
    wgs := s0.wgs.map (·.linesMoved old new n)
    eng := { s0.eng with ops := ops, paused := paused }
    fab := s.fab.linesMoved old new n
    mem := mem }
/-- The released-frame queue takes a frame (R311, R387): entry RFTAIL mod 4,096 of the context's queue. -/
def State.releaseFrame (s : State) (ctx frame : Nat) : State :=
  let c := smGet {} s.ctxs ctx
  let s1 := s.homePuts (c.relq + 8 * (c.rftail.toNat % Config.relqEntries)) (leBytes 8 frame)
  { s1 with ctxs := smIns s1.ctxs ctx { c with rftail := c.rftail + 1 } }
/-- `PAGE_MOVE` (R311): the copy is complete; in one step the leaf names the new frame and every TLB drops the page. A `mig` that waits
for it counts the page. -/
def execPageMove (move : Nat) (s : State) : Out := .next (
  match s.mem.moves.find? (fun v => v.id = move) with
  | none => s
  | some v =>
    let n := pageBytes v.large
    let e := s.pmNat v.leafAddr 8
    let leaf := putBits (putBits (putBits e 16 41 (v.newFrame / 65536)) 11 1 0) 10 1 (b2n (v.far && v.mot))
    let s1 := (s.followPage v.oldFrame v.newFrame n).homePuts v.leafAddr (leBytes 8 leaf)
    let s2 := { s1 with mem := { s1.mem with
      moves := dropFirst (fun x => x.id = move) s1.mem.moves
      tlb := s1.mem.tlb.filter (fun t => !(decide (t.large = v.large) && t.covers v.ctx v.va)) } }
    let s3 := s2.releaseFrame v.ctx v.oldFrame
    match v.op.bind (fun id => s3.eng.ops.find? (fun o => o.id = id)) with
    | none => s3
    | some o =>
      let ops := replaceFirst (fun x => x.id = o.id) (fun x => { x with value := x.value + 1, expect := x.expect - 8 * n }) s3.eng.ops
      ({ s3 with eng := { s3.eng with ops := ops } } : State).landBytes o.node n)

end Sys2Proof.Machine
end

