-- ==== Sys2Proof/Machine/LayoutOps.lean ====
section
/-!
DEFINITION. LayoutOps.lean: the layout register instructions, opcodes 0x98 to 0xA2 (R193 to R210).
-/
namespace Sys2Proof.Machine

/-! ### Synchronous reads -/

/-- Raise a fault of the executing path with a DETAIL and an address. -/
def State.faultAt (s : State) (f : Nat × Nat) (a : Nat) : State :=
  s.raise { code := f.1, detail := f.2, lanes := if s.m.scalar then 1 else s.active, addr := BitVec.ofNat 64 a }
/-- The bytes of the constant segment (R316). -/
def State.constBytes (s : State) (a n : Nat) : Option (List Byte) :=
  if a + n ≤ s.wg.launch.args.length then some ((s.wg.launch.args.drop a).take n) else none
/-- A synchronous read is complete: what it gives, with the chunks performed before (R196). -/
def Peek.with (p : Peek) (early : SMap (List Byte)) : List Byte :=
  ((List.range p.chunks.length).map (fun k => (smFind early k).getD (p.chunks.getD k []))).flatten
/-- Perform one chunk of a synchronous read, or all that are left and go on (R196). -/
def State.readChunks (s : State) (p : Peek) (go : State → List Byte → State) : State :=
  let early := if s.m.earlyB == s.m.curB then s.m.early else []
  match s.m.probe with
  | some k => s.modM (fun m => { m with earlyB := m.curB, early := smIns early k ((smFind early k).getD (p.chunks.getD k [])) })
  | none => go (s.modM (fun m => { m with early := [] })) (p.with early)
/-- Read `n` bytes now, at an address of a space or of the constant segment: alignment, then what R170 checks (R196, R250; log 62); an
open acquire, an older access of the member to the same bytes, or a page that moves, holds the instruction. -/
def State.syncRead (s : State) (k : Bool) (sp a n align : Nat) (go : State → List Byte → State) : State :=
  if a % align ≠ 0 then s.faultAt (ALIGN, 0) a
  else if k then match s.constBytes a n with
    | none => s.faultAt (PERM, 2) a
    | some bs => go s bs
  else match s.peek sp a n with
    | .error f => s.faultAt f a
    | .ok p =>
      if p.psn then s.faultAt (POISON, 0) a
      else if s.m.acqPending s.uid || !(p.locs.all (s.mayRead s.uid)) then s
      else s.reach p.vas (fun t => t.readChunks p go)

/-! ### Fields -/

/-- The fields that every layout instruction leaves zero (R193). -/
def zerosL (f : FL) : Bool := f.rnd == 0 && f.sat == 0 && f.ty == 0 && f.z51 == 0 && f.sb == 0
/-- A value source (R193). -/
def valueSrc (sp : Spec) : Bool :=
  let n := sp.toNat
  isS sp || (decide (320 ≤ n) && decide (n < 336)) || (decide (340 ≤ n) && decide (n < 344)) || (decide (384 ≤ n) && decide (n < 404))
/-- R194: what DST may name in a `.test` form. -/
def testDst (sp : Spec) : Bool := isS sp || (decide (344 ≤ sp.toNat) && decide (sp.toNat ≤ 350))
/-- DST of a form that may be a `.test`. -/
def dstOk (f : FL) : Bool := if bitN f.sub.toNat 3 then testDst f.dst else f.dst == 0
/-- The use of DST in a `.test` form. -/
def testUse (f : FL) : List SpecUse := if bitN f.sub.toNat 3 then [{ spec := f.dst, wr := true }] else []
/-- An s base, or with `.k` an s base or 511. -/
def lyBaseOk (f : FL) (k : Bool) : Bool := isS f.sa || (k && f.sa.toNat == 511)
/-- The address a record form names. -/
def State.lyAddr (s : State) (f : FL) : Nat :=
  wrapN 64 ((if f.sa.toNat = 511 then 0 else (s.rf.rs (f.sa.toNat - 256)).toNat) + f.imm.toInt)
/-- A layout slot: checks, stalls, guard in the lowest lane, poison, effect. -/
def runL (s : State) (h : Hdr) (uses : List SpecUse) (ok : Bool) (go : State → State) : Out :=
  runSlot s (issueFault s h (classOk s .lay false h.role.toNat) uses (needs ok))
    (s.hazard uses || (s.guardLow h && s.iqEmpty uses))
    (fun s => if !(s.guardLow h) then s.advance
      else if s.marked uses [lowLane s.active] then s.fault POISON else go s)
/-- Write a test's code: a predicate in every active lane, or an s register (R194). -/
def State.putTest (s : State) (dst : Spec) (code : Nat) : State :=
  if isS dst then s.modR (·.ws (dst.toNat - 256) (BitVec.ofNat 64 code))
  else s.modR (fun r => (lanesOf s.active).foldl (fun r l => r.wp (dst.toNat - 344) l (code == 0)) r)
/-- The fault a code stands for (R194). -/
def codeFault (code : Nat) : Nat := if code = 12 then LYBUSY else LYSING
/-- End an instruction whose checks gave a code: a `.test` reports it, a plain form raises it, or has its effect when it is 0. -/
def State.endTest (s : State) (f : FL) (uses : List SpecUse) (code : Nat) (eff : State → State) : State :=
  if bitN f.sub.toNat 3 then ((s.putTest f.dst code).popIqs uses).advance
  else if code ≠ 0 then s.fault (codeFault code) else ((eff s).popIqs uses).advance

/-! ### Busy registers (R208) -/

/-- Every relayout not yet over, in flight, suspended or paused. -/
def State.pendingRly (s : State) : List RlySt := s.eng.ops.filterMap (·.rly) ++ s.eng.paused
/-- A layout register is busy. -/
def State.busyL (s : State) (k : Nat) : Bool :=
  lyPstate (s.lreg k) != 0 || s.pendingRly.any (fun y => decide (y.x = .reg s.wg.wu k) || decide (y.target = .reg s.wg.wu k))
/-- A codebook register is busy. -/
def State.busyCb (s : State) (k : Nat) : Bool :=
  (List.range 16).any (fun j => s.busyL j && lyFmt (s.lreg j) == 6 && lyCb (s.lreg j) == k)
/-- The code of an image that would be placed into a register (R194: 12, then 1 to 8). -/
def State.placeCode (s : State) (k img : Nat) : Nat := if s.busyL k then 12 else lyDefect img true

/-! ### The instructions -/

/-- `lyld` (R196, R197). -/
def execLyld (h : Hdr) (f : FL) (s : State) : Out :=
  let k := bitN f.sub.toNat 2
  let uses := testUse f ++ [{ spec := f.sa, ok511 := true }]
  runL s h uses (zerosL f && f.lx == 0 && dstOk f && lyBaseOk f k && (!k || f.sub.toNat % 4 == 0)) (fun s =>
    s.syncRead k (f.sub.toNat % 4) (s.lyAddr f) 256 8 (fun s bs =>
      s.endTest f uses (s.placeCode f.ly.toNat (leNat bs)) (fun s => s.setLreg f.ly.toNat (leNat bs))))
/-- `lyst` (R196, R198): the member's next instruction waits until its write is complete. -/
def execLyst (h : Hdr) (f : FL) (s : State) : Out :=
  runL s h [{ spec := f.sa }] (zerosL f && f.ly == 0 && f.dst == 0 && isS f.sa && decide (f.sub.toNat < 4)) (fun s =>
    let a := s.lyAddr f
    if a % 8 ≠ 0 then s.faultAt (ALIGN, 0) a
    else match s.parts f.sub.toNat a 256 2 with
    | .error e => s.faultAt e a
    | .ok ps =>
      if ps.any (fun p => s.lyHit none p.2.1 p.2.2) then s.faultAt (LYBUSY, 0) a
      else s.reach (ps.filterMap (·.2.2)) (fun s =>
        ((s.writeParts s.uid 1 false ps (s.lreg f.lx.toNat)).modM (fun m => { m with syncOp := some s.uid })).tick.advance))

/-- R199: the place of a field in an image, its width, and whether `lyset` may write it. -/
def lyFieldAt (code idx : Nat) : Option (Nat × Nat × Bool) :=
  if idx ≠ 0 ∧ code ≠ 0x20 ∧ code ≠ 0x30 then none
  else match code with
    | 0x00 => some (0, 8, true) | 0x01 => some (8, 4, true) | 0x02 => some (12, 6, false) | 0x03 => some (18, 3, true)
    | 0x04 => some (21, 3, true) | 0x05 => some (24, 4, true) | 0x06 => some (32, 4, true) | 0x07 => some (28, 4, false)
    | 0x08 => some (58, 3, true) | 0x09 => some (46, 6, true) | 0x0A => some (52, 6, true) | 0x0B => some (38, 2, false)
    | 0x0C => some (40, 4, false) | 0x0D => some (612, 4, false) | 0x10 => some (64, 64, true) | 0x11 => some (128, 64, true)
    | 0x12 => some (192, 64, true) | 0x13 => some (0, 64, false)
    | 0x20 => if idx < 8 then some (256 + 32 * idx, 32, true) else none
    | 0x30 => if idx < 10 then some (512 + 10 * idx, 10, true) else none
    | _ => none
/-- The field an IMM names. -/
def lyImmField (imm : W32) : Option (Nat × Nat × Bool) :=
  if bitsN imm.toNat 12 20 ≠ 0 then none else lyFieldAt (bitsN imm.toNat 0 8) (bitsN imm.toNat 8 4)
/-- R200, R202: the code of a change to a register: 13 empty, 12 busy, 9 the value does not fit, then the defects of the result. -/
def State.changeCode (s : State) (k w x img : Nat) : Nat :=
  if lyN (s.lreg k) = 0 then 13 else if s.busyL k then 12 else if 2 ^ w ≤ x then 9 else lyDefect img true
/-- `lyset` (R199, R200). -/
def execLyset (h : Hdr) (f : FL) (s : State) : Out :=
  let uses := testUse f ++ [{ spec := f.sa }]
  let fld := lyImmField f.imm
  runL s h uses (zerosL f && f.lx == 0 && dstOk f && valueSrc f.sa && f.sub.toNat % 8 == 0 && (fld.map (·.2.2)).getD false) (fun s =>
    let (lo, w, _) := fld.getD (0, 0, false)
    let x := (s.rd64 f.sa 0 false (lowLane s.active)).toNat
    let img0 := putBits (s.lreg f.ly.toNat) lo w x
    let img := if lo = 32 then putBits img0 28 4 (if x % 16 = 1 then 5 else 0) else img0
    s.endTest f uses (s.changeCode f.ly.toNat w x img) (fun s => s.setLreg f.ly.toNat img))
/-- Write a value read from a layout register: an s register once, a v register in every active lane (R201). -/
def State.putField (s : State) (dst : Spec) (x : Nat) : State :=
  if isS dst then s.modR (·.ws (dst.toNat - 256) (BitVec.ofNat 64 x))
  else s.modR (fun r => (lanesOf s.active).foldl (fun r l => r.wv dst.toNat l (BitVec.ofNat 32 x)) r)
/-- `lyget` (R199, R201). -/
def execLyget (h : Hdr) (f : FL) (s : State) : Out :=
  let fld := lyImmField f.imm
  runL s h [{ spec := f.dst, wr := true }] (zerosL f && f.sub == 0 && f.sa == 0 && f.ly == 0 && (isS f.dst || isV f.dst) && fld.isSome) (fun s =>
    let (lo, w, _) := fld.getD (0, 0, false)
    (s.putField f.dst (bitsN (s.lreg f.lx.toNat) lo w)).advance)
/-- `lycol.rd` (R202). -/
def execLycolRd (h : Hdr) (f : FL) (s : State) : Out :=
  runL s h [{ spec := f.dst, wr := true }]
    (zerosL f && f.sub == 0 && f.sa == 0 && f.ly == 0 && (isS f.dst || isV f.dst) && decide (f.imm.toNat < 36)) (fun s =>
    let img := s.lreg f.lx.toNat
    (s.putField f.dst (if f.imm.toNat < lyN img then lyCol img f.imm.toNat else 0)).advance)
/-- `lycol.wr` (R202). -/
def execLycolWr (h : Hdr) (f : FL) (s : State) : Out :=
  let uses := testUse f ++ [{ spec := f.sa }]
  runL s h uses (zerosL f && f.lx == 0 && dstOk f && valueSrc f.sa && f.sub.toNat % 8 == 1 && decide (f.imm.toNat < 36)) (fun s =>
    let x := (s.rd64 f.sa 0 false (lowLane s.active)).toNat
    let img := putBits (s.lreg f.ly.toNat) (640 + 36 * f.imm.toNat) 36 x
    s.endTest f uses (s.changeCode f.ly.toNat 36 x img) (fun s => s.setLreg f.ly.toNat img))

/-- R203, R194: whether `rly` from one image to another would be accepted: 13, 12, 10, 11. -/
def rlyCode (empty busy : Bool) (a b : Nat) : Nat :=
  if empty then 13 else if busy then 12 else if !(sameButMatrix a b) then 10
  else if 4 < (touchedLevels a (changeOf (lyN a) (lyMat a) (lyMat b))).length then 11 else 0
/-- `lychk` (R203). -/
def execLychk (h : Hdr) (f : FL) (s : State) : Out :=
  let form := f.sub.toNat / 4
  let uses : List SpecUse := { spec := f.dst, wr := true } :: (if form = 2 then [] else [{ spec := f.sa, ok511 := true }])
  runL s h uses (zerosL f && testDst f.dst && decide (form ≤ 2) && (form == 0 || f.sub.toNat % 4 == 0) &&
      (if form = 2 then f.sa == 0 && f.imm == 0 else f.lx == 0 && f.ly == 0 && lyBaseOk f (form == 1))) (fun s =>
    if form = 2 then
      let a := s.lreg f.lx.toNat
      let b := s.lreg f.ly.toNat
      (s.putTest f.dst (rlyCode (lyN a == 0 || lyN b == 0) (s.busyL f.lx.toNat || s.busyL f.ly.toNat) a b)).advance
    else s.syncRead (form == 1) (f.sub.toNat % 4) (s.lyAddr f) 256 8 (fun s bs => (s.putTest f.dst (lyDefect (leNat bs) true)).advance))
/-- `lycp` (R204). -/
def execLycp (h : Hdr) (f : FL) (s : State) : Out :=
  runL s h (testUse f) (zerosL f && f.sa == 0 && dstOk f && f.sub.toNat % 8 == 0 && f.imm == 0) (fun s =>
    let img := s.lreg f.lx.toNat
    let code := if lyN img = 0 then 13 else if s.busyL f.ly.toNat then 12 else if lyPstate img ≠ 0 then 8 else 0
    s.endTest f [] code (fun s => s.setLreg f.ly.toNat img))
/-- `lyh` (R205). -/
def execLyh (h : Hdr) (f : FL) (s : State) : Out :=
  let uses := testUse f ++ [{ spec := f.sa }]
  runL s h uses (zerosL f && f.lx == 0 && dstOk f && isS f.sa && f.sub.toNat % 8 == 0 && decide (f.imm.toNat < 32)) (fun s =>
    match s.handle ((s.rf.rs (f.sa.toNat - 256)).toNat % 2 ^ 32) [16] with
    | .error e => s.faultAt e 0
    | .ok p =>
      if s.m.acqPending s.uid then s
      else s.reach p.vas (fun s =>
        let img := entryImg p.bytes
        let cbk := f.imm.toNat % 16
        let cb := bitN f.imm.toNat 4 && lyFmt img == 6
        let code := if lyPstate img ≠ 0 || s.busyL f.ly.toNat || (cb && s.busyCb cbk) then 12 else lyDefect img true
        s.endTest f uses code (fun s =>
          let s1 := s.setLreg f.ly.toNat (putBits img 24 4 (if cb then cbk else 0))
          if cb then s1.modW (fun w => { w with cbs := smPut 0 w.cbs cbk (BitVec.ofNat 256 (leNat ((p.bytes.drop 256).take 32))) }) else s1)))

/-- R206: the 64-bit address of a location. -/
def adrOf (img y : Nat) : Nat :=
  if lySpace img = 2 then memVa img y
  else
    let off := lyBase img + lyField img 4 y * lyS img / 8
    (if (lyLevels img).any (fun l => l.1 = 5) then winCl + lyField img 5 y * 2 ^ 22 + off else winSc + off) % 2 ^ 64
/-- `lyloc`, `lyidx` (R206): per lane, or once for a scalar destination. `wide` tells the widths of the operand and the result. -/
def runMap (s : State) (h : Hdr) (f : FL) (ok adr : Bool) (go : State → Nat → Nat → Nat) : Out :=
  let img := s.lreg f.lx.toNat
  let big := decide (32 < lyN img)
  let uses : List SpecUse := [{ spec := f.dst, pair := isV f.dst && (big || adr), wr := true }, { spec := f.sa, pair := isV f.sa && big, ok511 := true }]
  let ls := if isS f.dst then (if s.guardLow h then [lowLane s.active] else []) else s.guarded h
  runSlot s (issueFault s h (classOk s .lay false h.role.toNat) uses
      (needs (ok && zerosL f && f.ly == 0 && (isS f.dst || isV f.dst) && (valueSrc f.sa || f.sa.toNat == 511 || (isV f.sa && isV f.dst)) &&
        (f.sa.toNat == 511 || f.imm == 0))))
    (s.hazard uses || (ls != [] && s.iqEmpty uses))
    (fun s =>
      if ls = [] then s.advance
      else if s.marked uses ls then s.raise { code := POISON, lanes := maskOf (s.markedLanes uses ls) }
      else if lyN img = 0 then s.fault LYSING
      else if adr && lySpace img == 0 then s.fault ILLOP
      else if (s.rlyOn (.reg s.wg.wu f.lx.toNat)).isSome || lyPstate img == 1 || lyPstate img == 3 then s.fault LYBUSY
      else
        let rd (l : Nat) : Nat := (if f.sa.toNat = 511 then f.imm.toNat
          else if isV f.sa && !big then (s.rf.rv f.sa.toNat l).toNat else (s.rd64 f.sa f.imm false l).toNat) % 2 ^ lyN img
        let d : Dest := { spec := f.dst, size := if big || adr || isS f.dst then 8 else 4, mask := maskOf ls }
        let s1 := s.modR (fun r => ls.foldl (fun r l => r.putData d l (go s img (rd l)) false) r)
        (s1.popIqs uses).advance)
/-- `lyloc` (R206). -/
def execLyloc (h : Hdr) (f : FL) (s : State) : Out :=
  let adr := f.sub == 1
  runMap s h f (decide (f.sub.toNat ≤ 1)) adr (fun s img x =>
    let y := gfVec (s.curMat (.reg s.wg.wu f.lx.toNat) img) x
    if adr then adrOf img y else y)
/-- `lyidx` (R206). -/
def execLyidx (h : Hdr) (f : FL) (s : State) : Out :=
  runMap s h f (f.sub == 0) false (fun s img y =>
    gfVec ((gfInv (lyN img) (s.curMat (.reg s.wg.wu f.lx.toNat) img)).getD []) y)
/-- `cbld` (R207). -/
def execCbld (h : Hdr) (f : FL) (s : State) : Out :=
  let k := bitN f.sub.toNat 2
  runL s h [{ spec := f.sa, ok511 := true }]
    (zerosL f && f.lx == 0 && f.dst == 0 && lyBaseOk f k && decide (f.sub.toNat < 8) && (!k || f.sub.toNat % 4 == 0)) (fun s =>
    s.syncRead k (f.sub.toNat % 4) (s.lyAddr f) 32 8 (fun s bs =>
      if s.busyCb f.ly.toNat then s.fault LYBUSY
      else (s.modW (fun w => { w with cbs := smPut 0 w.cbs f.ly.toNat (BitVec.ofNat 256 (leNat bs)) })).advance))

end Sys2Proof.Machine
end

