-- ==== Sys2Proof/Machine/Tensor.lean ====
section
/-!
DEFINITION. Tensor.lean: the tensor instructions, opcodes 0x6D to 0x71 (R69 to R72, R160 to R162). A tensor is read whole, then
written whole.
-/
namespace Sys2Proof.Machine

/-! ### Exact values -/

/-- A value times 2 to the k. -/
def shiftV (v : FVal) (k : Int) : FVal := match v with | .fin n m e => .fin n m (e + k) | x => x
/-- The magnitude of a value. -/
def absV (v : FVal) : FVal := match v with | .fin _ m e => .fin false m e | .inf _ => .inf false | .nan => .nan
/-- Whether a value is finite. -/
def finV (v : FVal) : Bool := match v with | .fin _ _ _ => true | _ => false
/-- Whether a value is zero. -/
def isZeroV (v : FVal) : Bool := match v with | .fin _ m _ => m == 0 | _ => false
/-- The position of the leading bit of a finite value. -/
def topV (v : FVal) : Int := match v with | .fin _ m e => e + Nat.log2 m | _ => 0
/-- The greatest of some finite magnitudes; zero for none. -/
def maxAbs (vs : List FVal) : FVal := vs.foldl (fun a v => if cmpV a (absV v) < 0 then absV v else a) (.fin false 0 0)
/-- ceil(log2(a / b)) of two positive finite values, exactly (R71). -/
def ceilLog2 (a b : FVal) : Int :=
  let e0 := topV a - topV b
  if cmpV a (shiftV b e0) ≤ 0 then e0 else e0 + 1
/-- The index of the finite entry nearest to a value, ties to the lower index (R71); 0 when no entry is finite. -/
def nearest (entries : List FVal) (x : FVal) : Nat :=
  let d (v : FVal) : FVal := absV ((sumV 0 [x, negV v]).getD .nan)
  let fin := (List.range entries.length).filter (fun i => finV (entries.getD i .nan))
  (fin.foldl (fun (b : Option Nat) i => match b with
    | none => some i
    | some j => if cmpV (d (entries.getD i .nan)) (d (entries.getD j .nan)) < 0 then some i else some j) none).getD 0
/-- The index of the finite entry of greatest (or least) value, ties to the lower index. -/
def extremeEntry (entries : List FVal) (least : Bool) : Nat :=
  let fin := (List.range entries.length).filter (fun i => finV (entries.getD i .nan))
  (fin.foldl (fun (b : Option Nat) i => match b with
    | none => some i
    | some j =>
      let c := cmpV (entries.getD i .nan) (entries.getD j .nan)
      if (if least then decide (c < 0) else decide (0 < c)) then some i else some j) none).getD 0

/-! ### Reading a tensor -/

/-- An element of a tensor as it was read: its coordinates, its raw code, its scale code. -/
structure Elem where
  cs : List Nat
  code : Nat
  scale : Nat := 127
deriving DecidableEq, Repr

/-- The bits that some parts hold, read by the member now. -/
def State.readParts (s : State) (ps : List Part) : Nat :=
  ps.foldl (fun v p => v + s.readLoc s.ref s.uid (quadOf s.wg.core) none p.2.1 * 2 ^ (8 * p.1)) 0
/-- The codebook of a layout register's CB, as values. -/
def State.codebook (s : State) (c : Nat) : List FVal := (List.range 16).map (fun k => fDec 3 (s.cbEntry c k))
/-- R69: the scaled value of an element: its code by its format (a CB4 code through a codebook) times its scale. -/
def scaledVal (fmt : Nat) (cb : List FVal) (code scale : Nat) : FVal :=
  let x := if fmt = 6 then cb.getD (code % 16) .nan else fDec fmt code
  if scale = 255 then .nan else shiftV x ((scale : Int) - 127)

/-- The storage of every element of a tensor that is no hole, with its coordinates; or the first fault (R39). -/
def elemStorage (s : State) (t : Tensor) (dflt need : Nat) : List (List Nat) → Except (Nat × Nat) (List (List Nat × List Part))
  | [] => .ok []
  | cs :: rest => match s.element t ((indexOf (lyExts t.2) cs).getD 0) dflt need with
    | .error f => .error f
    | .ok ps => (match elemStorage s t dflt need rest with | .error f => .error f | .ok l => .ok ((cs, ps) :: l))
/-- The storage of the scales of a tensor's elements (R42): the issuer's own scratchpad; none without scales. -/
def scaleStorage (s : State) (img : Nat) : List (List Nat) → Except (Nat × Nat) (List (List Nat × Option Loc))
  | [] => .ok []
  | cs :: rest =>
    if lyScaleFmt img ≠ 1 then (match scaleStorage s img rest with | .error f => .error f | .ok l => .ok ((cs, none) :: l))
    else match s.spLoc none (lySbase img + scaleOff img cs) 1 with
      | .error f => .error f
      | .ok l0 => (match scaleStorage s img rest with | .error f => .error f | .ok l => .ok ((cs, some l0) :: l))

/-- The register words of the member in focus among some parts. -/
def State.ownRegs (s : State) (ps : List Part) : List Nat :=
  ps.filterMap (fun p => if p.2.1.place = .reg s.wg.wu s.m.id then some (p.2.1.bit / 1024) else none)

/-- What a tensor instruction writes: elements by coordinates with their codes, scales by offset, status bits. -/
structure TensorOut where
  elems : List (List Nat × Nat)
  scales : List (Nat × Nat) := []
  stat : W64 := 0
deriving DecidableEq, Repr

/-! ### The shape of a tensor instruction (R160) -/

/-- R160: a layout a tensor instruction accepts: the fault it gives otherwise. -/
def State.tensorBad (s : State) (img : Nat) : Option Nat :=
  if lyN img = 0 then some LYSING
  else if 1 < lySpace img ∨ (lySpace img = 0 ∧ lyWidth img 3 ≠ 0) then some ILLOP
  else if lySpace img = 0 ∧ s.m.scalar = true then some ROLECLASS else none

/-- Write what a tensor instruction computed, the elements of LY at the storage found for them; the member's next instruction waits until
its scratchpad writes are complete (R160). -/
def State.putTensor (s : State) (img : Nat) (dst : List (List Nat × List Part)) (o : TensorOut) : State :=
  let op := s.uid
  let s1 := o.elems.foldl (fun t e => match dst.find? (fun d => d.1 = e.1) with
    | some d => t.writeParts op 1 false d.2 e.2
    | none => t) s.tick
  let s2 := o.scales.foldl (fun t e => match t.spLoc none (lySbase img + e.1) 1 with
    | .ok l => t.issueWrite op l e.2 1 false
    | .error _ => t) s1
  ((s2.modM (fun m => { m with syncOp := some op })).sticky 0 o.stat).advance

/-- A tensor instruction: decode checks; the whole path; the layouts (`extra` is a third one that is read); formats; storage and
stalls; then every element is read and the results written. `run` gets the elements of LX and of the third layout. -/
def runTensor (s : State) (h : Hdr) (f : FL) (ok rnd : Bool) (extra : Option Nat)
    (fmtOk : Nat → Nat → Nat → Bool) (run : Nat → Nat → Nat → List Elem → List Elem → TensorOut) : Out :=
  runSlot s (issueFault s h (classOk s .flt false h.role.toNat) []
      (needs (f.dst == 0 && f.sa == 0 && f.sb == 0 && f.ty == 0 && f.z51 == 0 && ok &&
        (if rnd then decide (f.rnd.toNat ≤ 4) else f.rnd == 0 && f.sat == 0)))) false
    (fun s =>
      if !(s.guardLow h) then s.advance
      else if !s.m.whole then s.fault ILLOP
      else
        let wu := s.wg.wu
        let ix := s.lreg f.lx.toNat
        let iy := s.lreg f.ly.toNat
        let it := (extra.map s.lreg).getD ix
        match [ix, iy, it].findSome? s.tensorBad with
        | some c => s.fault c
        | none =>
          if lyExts ix ≠ lyExts iy || !(fmtOk ix iy it) || (lyScaleFmt iy == 1 && lySpace iy != 1) then s.fault ILLOP
          else
            let box := boxCoords (lyExts ix)
            let boxT := if extra.isNone then [] else boxCoords (lyExts it)
            let ty : Tensor := (.reg wu f.ly.toNat, iy)
            match elemStorage s (.reg wu f.lx.toNat, ix) s.m.id 1 box, elemStorage s ty s.m.id 2 box,
                elemStorage s (.reg wu (extra.getD 0), it) s.m.id 1 boxT, scaleStorage s ix box, scaleStorage s iy box with
            | .ok sx, .ok sy, .ok st, .ok cx, .ok cy =>
              let rd := (sx ++ st).flatMap (fun e => s.ownRegs e.2)
              let wr := sy.flatMap (fun e => s.ownRegs e.2)
              let held := match s.rlyOn ty.1 with
                | none => false
                | some y => box.any (fun cs => y.waits ((indexOf (lyExts iy) cs).getD 0))
              let at0 := (sx ++ st).flatMap (fun e => e.2.map (·.2.1)) ++ cx.filterMap (·.2)
              if cy.any (fun e => e.2.any (fun l => s.lyHit none l none)) then s.fault LYBUSY
              else if (rd ++ wr).any (fun r => s.busyWrites.contains r) || wr.any (fun r => s.busyReads.contains r) || held ||
                  s.m.acqPending s.uid || !(at0.all (s.mayRead s.uid)) then s
              else if (sx ++ st).any (fun e => e.2.any (fun p => s.locPoison p.2.1)) ||
                  cx.any (fun e => (e.2.map s.locPoison).getD false) then s.fault POISON
              else
                let scaleOf (cs : List Nat) : Nat := match (cx.find? (fun e => e.1 = cs)).bind (·.2) with
                  | some l => s.readLoc s.ref s.uid (quadOf s.wg.core) none l
                  | none => 127
                let ex := sx.map (fun e => ({ cs := e.1, code := s.readParts e.2, scale := scaleOf e.1 } : Elem))
                let et := st.map (fun e => ({ cs := e.1, code := s.readParts e.2 } : Elem))
                s.putTensor iy sy (run ix iy it ex et)
            | .error e, _, _, _, _ => s.faultAt e 0
            | _, .error e, _, _, _ => s.faultAt e 0
            | _, _, .error e, _, _ => s.faultAt e 0
            | _, _, _, .error e, _ => s.faultAt e 0
            | _, _, _, _, .error e => s.faultAt e 0)

/-! ### The instructions -/

/-- FP32, FP16 or BF16. -/
def isF (fmt : Nat) : Bool := decide (1 ≤ fmt) && decide (fmt ≤ 3)
/-- Those, E4M3 or E5M2. -/
def isF8 (fmt : Nat) : Bool := decide (1 ≤ fmt) && decide (fmt ≤ 5)
/-- The draw of an element that a tensor instruction writes (R63): the seed of LY, the element's index vector. -/
def tensorDraw (img : Nat) (cs : List Nat) : Nat :=
  draw (BitVec.ofNat 64 (lySeed img)) (BitVec.ofNat 64 ((indexOf (lyExts img) cs).getD 0))
/-- The value of an element by its coordinates, zero for a hole. -/
def valAt (xs : List (List Nat × FVal)) (cs : List Nat) : FVal := ((xs.find? (fun e => e.1 = cs)).map (·.2)).getD (.fin false 0 0)
/-- Elements as scaled values. -/
def elemVals (fmt : Nat) (cb : List FVal) (es : List Elem) : List (List Nat × FVal) := es.map (fun e => (e.cs, scaledVal fmt cb e.code e.scale))
/-- Collect codes and status bits. -/
def collect (rs : List (List Nat × Nat × W64)) : TensorOut :=
  { elems := rs.map (fun r => (r.1, r.2.1)), stat := rs.foldl (fun w r => w ||| r.2.2) 0 }

/-- R70: the sign of a coordinate. -/
def hadSign (seed : Nat) (j : Nat) : Bool :=
  (splitmix64 (BitVec.ofNat 64 seed ^^^ (BitVec.ofNat 64 j * 0x9E3779B97F4A7C15))).getLsbD 0
/-- R70: one block's inputs, its output at offset k, with c as a power of two. -/
def hadOut (xs : List (Bool × FVal)) (k : Nat) (c : Int) (mode : Nat) : Option FVal :=
  if xs.any (fun x => x.2 == .nan) then some .nan
  else if 1 < (xs.filter (fun x => !(finV x.2))).length then none
  else (sumV mode ((List.range xs.length).map (fun i =>
    let x := xs.getD i (false, .fin false 0 0)
    if xor x.1 (popcount 8 (i &&& k) % 2 == 1) then negV x.2 else x.2))).map (fun v => shiftV v c)
/-- `hqt` (R70, R161). -/
def execHqt (h : Hdr) (f : FL) (s : State) : Out :=
  let lg := 4 + 2 * f.sub.toNat
  let d := f.imm.toNat
  runTensor s h f (decide (f.sub.toNat ≤ 2) && decide (d < 8)) true none
    (fun ix iy _ => isF8 (lyFmt ix) && isF8 (lyFmt iy) && lyScaleFmt iy == 0 && decide (d < lyRank ix) && decide (lg ≤ clog2 ((lyExts ix).getD d 0)))
    (fun ix iy _ ex _ =>
      let xs := elemVals (lyFmt ix) [] ex
      collect (xs.map (fun e =>
        let base := e.1.getD d 0 / 2 ^ lg * 2 ^ lg
        let blk := (List.range (2 ^ lg)).map (fun i => (hadSign (lySeed ix) (base + i), valAt xs (setAt e.1 d (base + i))))
        (e.1, encO (lyFmt iy) f.rnd.toNat (f.sat == 1) (tensorDraw iy e.1) (hadOut blk (e.1.getD d 0 - base) (-(lg / 2 : Nat)) f.rnd.toNat)))))

/-- The coordinates of an element's scale block (R69). -/
def blockKey (img : Nat) (cs : List Nat) : List Nat := setAt cs (lyRdim img) (cs.getD (lyRdim img) 0 / 32)
/-- R71, R162: the scale code of a block of values for a largest magnitude kmax. -/
def blockScale (kmax : FVal) (vs : List FVal) : Nat :=
  if vs.any (fun v => !(finV v)) then 255
  else if isZeroV (maxAbs vs) then 0
  else if isZeroV kmax then 254
  else (max (-127) (min 127 (ceilLog2 (maxAbs vs) kmax)) + 127).toNat
/-- Quantise a tensor block by block: `one` codes an element already divided by its scale; without scales the scale is 1. -/
def quantise (iy : Nat) (kmax : FVal) (xs : List (List Nat × FVal)) (one : List Nat → FVal → Nat × W64) : TensorOut :=
  if lyScaleFmt iy ≠ 1 then collect (xs.map (fun e => (e.1, one e.1 e.2)))
  else
    let scale (cs : List Nat) : Nat := blockScale kmax ((xs.filter (fun x => blockKey iy x.1 = blockKey iy cs)).map (·.2))
    let out := collect (xs.map (fun e =>
      let k := scale e.1
      (e.1, if k = 255 then (0, NV) else one e.1 (shiftV e.2 (127 - (k : Int))))))
    { out with scales := xs.map (fun e => (scaleOff iy e.1, scale e.1)) }
/-- `qfp8` (R162). -/
def execQfp8 (h : Hdr) (f : FL) (s : State) : Out :=
  runTensor s h f (f.sub == 0 && f.imm == 0) true none (fun ix iy _ => isF (lyFmt ix) && (lyFmt iy == 4 || lyFmt iy == 5))
    (fun ix iy _ ex _ => quantise iy (fDec (lyFmt iy) (maxCode (lyFmt iy))) (elemVals (lyFmt ix) [] ex)
      (fun cs v => encV (lyFmt iy) f.rnd.toNat (f.sat == 1) (tensorDraw iy cs) v))
/-- `qcb4` (R71). DESIGN CHOICE (log 124): it sets NV alone, and no NX where a code's entry differs from the scaled element. -/
def execQcb4 (h : Hdr) (f : FL) (s : State) : Out :=
  runTensor s h f (f.sub == 0 && f.imm == 0) false none (fun ix iy _ => isF (lyFmt ix) && lyFmt iy == 6)
    (fun ix iy _ ex _ =>
      let cb := s.codebook (lyCb iy)
      quantise iy (maxAbs (cb.filter finV)) (elemVals (lyFmt ix) [] ex) (fun _ v => match v with
        | .nan => (0, NV)
        | .inf n => (extremeEntry cb n, NV)
        | v => (nearest cb v, 0)))
/-- `dqcb4` (R72). -/
def execDqcb4 (h : Hdr) (f : FL) (s : State) : Out :=
  runTensor s h f (f.sub == 0 && f.imm == 0) true none (fun ix iy _ => lyFmt ix == 6 && isF (lyFmt iy))
    (fun ix iy _ ex _ => collect ((elemVals 6 (s.codebook (lyCb ix)) ex).map (fun e =>
      (e.1, encV (lyFmt iy) f.rnd.toNat (f.sat == 1) (tensorDraw iy e.1) e.2))))
/-- R162, R258: the exact rotation a c - b s, or a c + b s. -/
def rotateV (mode : Nat) (a c b s : FVal) (minus : Bool) : Option FVal :=
  match mulV a c, mulV b s with
  | some x, some y => sumV mode [x, if minus then negV y else y]
  | _, _ => none
/-- `rope` (R162). -/
def execRope (h : Hdr) (f : FL) (s : State) : Out :=
  let lt := bitsN f.imm.toNat 0 4
  let d := bitsN f.imm.toNat 4 3
  let p := bitsN f.imm.toNat 7 3
  runTensor s h f (f.sub == 0 && decide (f.imm.toNat < 1024)) true (some lt)
    (fun ix iy it =>
      let es := lyExts ix
      let ts := lyExts it
      isF (lyFmt ix) && isF (lyFmt iy) && lyScaleFmt ix == 0 && lyScaleFmt iy == 0 && lyFmt it == 1 && d != p && decide (d < es.length) &&
      decide (p < es.length) && es.getD d 0 % 2 == 0 && ts.length == 3 && ts.getD 0 0 == 2 && ts.getD 1 0 == es.getD d 0 / 2 &&
      (ts.getD 2 0 == 1 || ts.getD 2 0 == es.getD p 0))
    (fun ix iy it ex et =>
      let xs := elemVals (lyFmt ix) [] ex
      let ts := elemVals 1 [] et
      let tmax := (lyExts it).getD 2 0
      collect (xs.map (fun e =>
        let j := e.1.getD d 0
        let t := if tmax = 1 then 0 else e.1.getD p 0
        let c := valAt ts [0, j / 2, t]
        let sn := valAt ts [1, j / 2, t]
        let x0 := valAt xs (setAt e.1 d (j / 2 * 2))
        let x1 := valAt xs (setAt e.1 d (j / 2 * 2 + 1))
        (e.1, encO (lyFmt iy) f.rnd.toNat (f.sat == 1) (tensorDraw iy e.1)
          (if j % 2 = 0 then rotateV f.rnd.toNat x0 c x1 sn true else rotateV f.rnd.toNat x0 sn x1 c false)))))

end Sys2Proof.Machine
end

