-- ==== Sys2Proof/Machine/Matrix.lean ====
section
/-!
DEFINITION. Matrix.lean: the matrix engine, opcodes 0xA8 to 0xB2 and its events (R66 to R68, R211 to R229, R333, R352). An instruction
reads its operands and writes its results between its start and its completion, element by element.
-/
namespace Sys2Proof.Machine

/-! ### Slices and writes that go home -/

/-- The parts of an access without their virtual addresses. -/
def sliceOf (ps : List Part) : Slice := ps.map (fun p => (p.1, p.2.1))
/-- What an engine reads at a location now (R297): a global byte from PM, a scratchpad byte from SP, a register word. -/
def State.engLoc (s : State) (l : Loc) : Nat :=
  let n := (l.bit % 8 + l.bits + 7) / 8
  match l.place with
  | .reg _ _ => s.readLoc ⟨0, 0⟩ 0 0 none l
  | .sp c => bitsN (memNat (smGet [] s.mem.sp c) (l.bit / 8) n) (l.bit % 8) l.bits
  | .glob => bitsN (s.pmNat (l.bit / 8) n) (l.bit % 8) l.bits
/-- The same for a value of several parts. -/
def State.engRead (s : State) (sl : Slice) : Nat := sl.foldl (fun v p => v + s.engLoc p.2 * 2 ^ (8 * p.1)) 0
/-- Whether a part of a slice is poisoned. -/
def State.slicePoison (s : State) (sl : Slice) : Bool := sl.any (fun p => s.locPoison p.2)
/-- Put one nibble over a byte, or keep a whole byte. -/
def mergeNibble (l : Loc) (old : Byte) (v : Nat) : List Byte :=
  if l.bits = 4 then [BitVec.ofNat 8 (if l.bit % 8 = 4 then v % 16 * 16 + old.toNat % 16 else old.toNat / 16 * 16 + v % 16)]
  else leBytes ((l.bits + 7) / 8) v
/-- A write that reaches the home of a location at once and shows in a quad's view (R217, R297). -/
def State.putHome (s : State) (quad : Option Nat) (l : Loc) (v : Nat) : State :=
  let a := l.bit / 8
  match l.place with
  | .reg wu mem => s.putReg ⟨wu, mem⟩ l v
  | .sp c => s.spPuts c a (mergeNibble l (memGet (smGet [] s.mem.sp c) a) v)
  | .glob =>
    if s.fencedByte a then s
    else
      let bs := mergeNibble l (s.gmByte a) v
      let s1 := (s.homePuts a bs).fillPm a bs
      match quad with | some q => s1.fillBytes q a bs | none => s1
/-- The same for a value of several parts. -/
def State.putSlice (s : State) (quad : Option Nat) (sl : Slice) (v : Nat) : State :=
  sl.foldl (fun t p => t.putHome quad p.2 (v / 2 ^ (8 * p.1))) s

/-! ### Checks at issue (R218) -/

/-- A location that an instruction will access, or the fault of its check: code, DETAIL, address. -/
abbrev Access := Except (Nat × Nat × Nat) (List Part)
/-- R218: the element of a layout at coordinates; nothing at or beyond an extent. -/
def State.mxElem (s : State) (x img dflt need : Nat) (cs : List Nat) : Access :=
  if ((lyExts img).zip cs).any (fun p => decide (p.1 ≤ p.2)) then .ok []
  else
    let idx := (indexOf (lyExts img) cs).getD 0
    match s.element (.reg s.wg.wu x, img) idx dflt need with
    | .ok ps => .ok ps
    | .error e => .error (e.1, e.2, if lySpace img = 2 then memVa img (s.lyWhere (.reg s.wg.wu x) img idx) else 0)
/-- R42: the scale byte of an element; nothing without scales. -/
def State.scaleAt (s : State) (img need : Nat) (cs : List Nat) : Access :=
  if lyScaleFmt img ≠ 1 ∨ ((lyExts img).zip cs).any (fun p => decide (p.1 ≤ p.2)) = true then .ok []
  else
    let a := (lySbase img + scaleOff img cs) % 2 ^ 64
    match s.parts (if lySpace img = 2 then 1 else 2) a 1 need with
    | .ok ps => .ok ps
    | .error e => .error (e.1, e.2, a)
/-- The fault of the first check in the order of R218 that an access fails. -/
def firstBad (as : List Access) : Option (Nat × Nat × Nat) :=
  [XLATE, PERM, REGBUDGET, LYBUSY].findSome? (fun c => as.findSome? (fun a => match a with
    | .error e => if e.1 = c then some e else none
    | .ok _ => none))
/-- The parts of accesses that passed. -/
def okParts (as : List Access) : List (List Part) := as.map (fun a => match a with | .ok ps => ps | .error _ => [])
/-- The slices of accesses that passed. -/
def okSlices (as : List Access) : List Slice := (okParts as).map sliceOf

/-! ### Fields (R213, R219) -/

/-- The format X fields of a matrix instruction. -/
def fxOf : Instr → FX
  | .mma _ f => f | .mmag _ f => f | .mmld _ f => f | .mmst _ f => f | .mmz _ f => f | .mmdr _ f => f | .mmfl _ f => f
  | .mmia _ f => f | .mmscl _ f => f | .mmcb _ f => f | .mmsl _ f => f
  | _ => ⟨0, 0, 0, 0, 0, 0, 0, 0, 0, 0, 0, 0⟩
/-- R213: which fields an entry uses: SHAPE, ACC, LD, LB, LA, ROWIDX, XIMM; the others are zero (ROWIDX 511). -/
def zerosX (f : FX) (shape acc ld lb la row ximm : Bool) : Bool :=
  (shape || f.shape == 0) && (acc || f.acc == 0) && (ld || f.ld == 0) && (lb || f.lb == 0) && (la || f.la == 0) &&
  (row || f.rowidx.toNat == 511) && (ximm || f.ximm == 0) && f.lc == 0 && (f.seten == 1 || f.setslot == 0)
/-- R219: KB of a class. -/
def kbOf (cls : Nat) : Nat := match cls with | 0 => 16 | 1 => 32 | 2 => 32 | _ => 64
end Sys2Proof.Machine

namespace Sys2Proof

/-- R219: the class of an `mma`. -/
def FX.cls (f : FX) : Nat := f.shape.toNat / 4
/-- R219: K. -/
def FX.k (f : FX) : Nat := 16 * 2 ^ (f.shape.toNat % 4)
/-- The lower and upper halves of XIMM: o0 or ko, and o1. -/
def FX.o0 (f : FX) : Nat := Machine.bitsN f.ximm.toNat 0 16
/-- o1. -/
def FX.o1 (f : FX) : Nat := Machine.bitsN f.ximm.toNat 16 16
/-- The 256 coordinates of a tile, row by row: element (i, j) at (o0 + j, o1 + i), or transposed (R218). -/
def FX.tile (f : FX) (t : Bool) : List (List Nat) :=
  (List.range 16).flatMap (fun i => (List.range 16).map (fun j => if t then [f.o0 + i, f.o1 + j] else [f.o0 + j, f.o1 + i]))

end Sys2Proof

namespace Sys2Proof.Machine

/-- R219: the decode checks of `mma` and `mmag`. -/
def mmaOk (f : FX) (row : Bool) : Bool :=
  zerosX f true true false true true row true && f.sub == 0 && f.o1 == 0 && decide (kbOf f.cls ≤ f.k) && f.o0 % kbOf f.cls == 0 &&
  (!row || isV f.rowidx)
/-! ### Issue (R212, R214) -/

/-- What the checks of an instruction found at issue. -/
structure MxPlan where
  src1 : List Access := []
  src2 : List Access := []
  sc1 : List Access := []
  sc2 : List Access := []
  dst : List Access := []
  bad : Bool := false
  kind : Option Nat := none

/-- The kind of a tile: 0 F32, 1 I32, 2 N32. -/
def Workgroup.kindOf (w : Workgroup) (t : Nat) : Nat := smGet 0 w.mx.kinds t
/-- The vector registers of a member among some slices. -/
def sliceRegs (r : MRef) (sl : List Slice) : List Nat :=
  (sl.flatMap (fun x => x.filterMap (fun p => if p.2.place = .reg r.wu r.mem then some (p.2.bit / 1024) else none))).dedup
/-- The warp of a register-space layout without a WARP field: the issuing warp, or warp 0 for a scalar member (R218, R257). -/
def State.dfltWarp (s : State) : Nat := if s.m.scalar then 0 else s.m.id
/-- Enter an instruction into the queue, count it, raise its set slot, record the tile kind (R214). -/
def State.mxEnter (s : State) (i : Instr) (p : MxPlan) : State :=
  let f := fxOf i
  let id := s.uid
  let src1 := okSlices p.src1
  let src2 := okSlices p.src2
  let dst := okSlices p.dst
  let rd := sliceRegs s.ref (src1 ++ src2)
  let wr := sliceRegs s.ref dst
  if (rd ++ wr).any (fun r => s.busyWrites.contains r) || wr.any (fun r => s.busyReads.contains r) || s.m.acqPending s.uid then s
  else
    let kinds := match p.kind with | some k => smPut 0 s.wg.mx.kinds f.acc.toNat k | none => s.wg.mx.kinds
    let slots := if f.seten = 1 then smPut 0 s.wg.mx.slots f.setslot.toNat (smGet 0 s.wg.mx.slots f.setslot.toNat + 1) else s.wg.mx.slots
    let la := BitVec.ofNat 2048 (s.lreg f.la.toNat)
    let lb := BitVec.ofNat 2048 (s.lreg f.lb.toNat)
    let q : MxOp :=
      { id, mem := s.m.id, instr := i, la, lb, ld := BitVec.ofNat 2048 (s.lreg f.ld.toNat)
        cba := smGet 0 s.shared.cbs (lyCb la.toNat), cbb := smGet 0 s.shared.cbs (lyCb lb.toNat), kind := smGet 0 kinds f.acc.toNat
        src1, src2, sc1 := okSlices p.sc1, sc2 := okSlices p.sc2, dst
        setslot := if f.seten = 1 then some f.setslot.toNat else none, rdRegs := rd, wrRegs := wr }
    let s1 := s.modW (fun w => { w with mx := { w.mx with queue := w.mx.queue ++ [q], kinds := kinds, slots := slots } })
    ((s1.addOut { id, cls := 3, kind := .tile id }).tick).advance
/-- A full queue, a full counter, a full set slot hold the issue (R16, R211, R214). -/
def State.mxFull (s : State) (f : FX) : Bool :=
  decide (32 ≤ s.wg.mx.queue.length) || s.full 3 || (f.seten == 1 && decide (63 ≤ smGet 0 s.wg.mx.slots f.setslot.toNat))
/-- A matrix instruction (R212, R213, R218): the decode checks; its stalls; the layouts it names; every location; its own checks. -/
def runMx (s : State) (h : Hdr) (i : Instr) (ok : Bool) (lays : List Nat) (plan : State → MxPlan) : Out :=
  let f := fxOf i
  let uses : List SpecUse := match i with | .mmag _ f => [{ spec := f.rowidx }] | _ => []
  runSlot s (issueFault s h (classOk s .mtx false h.role.toNat && s.wg.launch.mtx) uses (needs ok))
    (s.guardLow h && (s.mxFull f || s.hazard uses))
    (fun s =>
      if !(s.guardLow h) then s.advance
      else if s.marked uses (List.range 16) then s.fault POISON
      else if lays.any (fun x => lyN (s.lreg x) == 0) then s.fault LYSING
      else if lays.any (fun x => lyRank (s.lreg x) != 2) then s.fault ILLOP
      else
        let p := plan s
        let all := p.src1 ++ p.src2 ++ p.sc1 ++ p.sc2 ++ p.dst
        match firstBad all with
        | some e => s.faultAt (e.1, e.2.1) e.2.2
        | none =>
          if p.bad then s.fault ILLOP
          else s.reach ((okParts all).flatMap (fun ps => ps.filterMap (·.2.2))) (fun s => s.mxEnter i p))

/-- R219: what `mma` and `mmag` check and access; `row i` is A's row for tile row i. -/
def mmaPlan (f : FX) (row : Nat → Nat) (gather : Bool) (s : State) : MxPlan :=
  let a := s.lreg f.la.toNat
  let b := s.lreg f.lb.toNat
  let w := s.dfltWarp
  let ks := List.range f.k
  let gs := List.range (f.k / 32)
  let fa := lyFmt a
  let fb := lyFmt b
  let f8 (x : Nat) : Bool := decide (4 ≤ x) && decide (x ≤ 6)
  let i8 (x : Nat) : Bool := x == 8 || x == 9
  let fmtOk := match f.cls with
    | 0 => fa == fb && (fa == 2 || fa == 3)
    | 1 => f8 fa && f8 fb && !(fa == 6 && fb == 6)
    | 2 => i8 fa && i8 fb
    | _ => fa == 6 && fb == 6
  let kind := if f.cls = 2 then (if fa = 8 ∨ fb = 8 then 1 else 2) else 0
  { src1 := (List.range 16).flatMap (fun i => ks.map (fun k => s.mxElem f.la.toNat a w 1 [f.o0 + k, row i]))
    src2 := (List.range 16).flatMap (fun j => ks.map (fun k => s.mxElem f.lb.toNat b w 1 [j, f.o0 + k]))
    sc1 := (List.range 16).flatMap (fun i => gs.map (fun g => s.scaleAt a 1 [f.o0 + 32 * g, row i]))
    sc2 := (List.range 16).flatMap (fun j => gs.map (fun g => s.scaleAt b 1 [j, f.o0 + 32 * g]))
    bad := !fmtOk || (lyScaleFmt a == 1 && lyRdim a != 0) || (lyScaleFmt b == 1 && lyRdim b != 1) ||
      s.wg.kindOf f.acc.toNat != kind || (gather && lySpace a != 1) }
/-- `mma` (R219, R220). -/
def execMma (h : Hdr) (f : FX) (s : State) : Out := runMx s h (.mma h f) (mmaOk f false) [f.la.toNat, f.lb.toNat] (mmaPlan f id false)
/-- `mmag` (R221). -/
def execMmag (h : Hdr) (f : FX) (s : State) : Out :=
  runMx s h (.mmag h f) (mmaOk f true) [f.la.toNat, f.lb.toNat]
    (fun s => mmaPlan f (fun i => (s.rf.rv f.rowidx.toNat i).toNat) true s)
/-- R222: the kind a source format gives a tile. -/
def ldKind (fmt : Nat) : Option Nat :=
  if 1 ≤ fmt ∧ fmt ≤ 5 then some 0 else if fmt = 8 ∨ fmt = 10 ∨ fmt = 12 then some 1
  else if fmt = 9 ∨ fmt = 11 ∨ fmt = 13 ∨ fmt = 14 then some 2 else none
/-- `mmld` (R222). -/
def execMmld (h : Hdr) (f : FX) (s : State) : Out :=
  runMx s h (.mmld h f) (zerosX f false true false false true false true && decide (f.sub.toNat ≤ 1)) [f.la.toNat] (fun s =>
    let a := s.lreg f.la.toNat
    let cs := f.tile (f.sub == 1)
    { src1 := cs.map (s.mxElem f.la.toNat a s.dfltWarp 1), sc1 := cs.map (s.scaleAt a 1)
      bad := (ldKind (lyFmt a)).isNone, kind := ldKind (lyFmt a) })
/-- R223: what `mmst` and `mmdr` check and access. -/
def mmstPlan (f : FX) (reg : Bool) (s : State) : MxPlan :=
  let d := s.lreg f.ld.toNat
  let k := s.wg.kindOf f.acc.toNat
  { dst := (f.tile false).map (s.mxElem f.ld.toNat d s.dfltWarp 2)
    bad := (reg && lySpace d != 0) || lyScaleFmt d == 1 ||
      (if k = 0 then !(decide (1 ≤ lyFmt d) && decide (lyFmt d ≤ 5)) else !(decide (8 ≤ lyFmt d) && decide (lyFmt d ≤ 14))) }
/-- `mmst` (R223). -/
def execMmst (h : Hdr) (f : FX) (s : State) : Out :=
  runMx s h (.mmst h f) (zerosX f false true true false false false true && decide (f.sub.toNat % 8 < 4)) [f.ld.toNat] (mmstPlan f false)
/-- `mmdr` (R223). -/
def execMmdr (h : Hdr) (f : FX) (s : State) : Out :=
  runMx s h (.mmdr h f) (zerosX f false true true false false false false && decide (f.sub.toNat % 8 < 4)) [f.ld.toNat] (mmstPlan f true)
/-- `mmz` (R224). -/
def execMmz (h : Hdr) (f : FX) (s : State) : Out :=
  runMx s h (.mmz h f) (zerosX f false true false false false false false && decide (f.sub.toNat ≤ 2)) [] (fun _ => { kind := some f.sub.toNat })
/-- `mmfl` (R224). -/
def execMmfl (h : Hdr) (f : FX) (s : State) : Out :=
  runMx s h (.mmfl h f) (zerosX f false true false false false false true && decide (f.sub.toNat ≤ 2)) [] (fun _ => { kind := some f.sub.toNat })
/-- `mmia` (R225). -/
def execMmia (h : Hdr) (f : FX) (s : State) : Out :=
  runMx s h (.mmia h f) (zerosX f false true false false true false true && decide (f.sub.toNat ≤ 4)) [f.la.toNat] (fun s =>
    let a := s.lreg f.la.toNat
    let k := s.wg.kindOf f.acc.toNat
    { src1 := (f.tile false).map (s.mxElem f.la.toNat a s.dfltWarp 1)
      bad := !((lyFmt a == 9 && k != 0) || (lyFmt a == 10 && k == 1)) })
/-- `mmscl` (R226). -/
def execMmscl (h : Hdr) (f : FX) (s : State) : Out :=
  runMx s h (.mmscl h f) (zerosX f false true false false true false false && decide (f.sub.toNat ≤ 1)) [f.la.toNat] (fun s =>
    let a := s.lreg f.la.toNat
    { src1 := (List.range 16).map (fun m => s.mxElem f.la.toNat a s.dfltWarp 1 [m, 0])
      bad := s.wg.kindOf f.acc.toNat != 0 || lyFmt a != 1 })
/-- `mmcb` (R227). -/
def execMmcb (h : Hdr) (f : FX) (s : State) : Out :=
  runMx s h (.mmcb h f) (zerosX f false true false false false false true && decide (f.sub.toNat ≤ 2) && decide (f.ximm.toNat < 8)) [] (fun s =>
    { bad := s.wg.kindOf f.acc.toNat != s.wg.kindOf (f.ximm.toNat % 8) })
/-- `mmsl` (R228). -/
def execMmsl (h : Hdr) (f : FX) (s : State) : Out :=
  runMx s h (.mmsl h f) (zerosX f false false false false false false false && f.sub == 0) [] (fun _ => {})

/-! ### What an instruction computes -/

/-- A tile word. -/
def Workgroup.tileWord (w : Workgroup) (t e : Nat) : Nat := (smGet 0 w.mx.acc (256 * t + e)).toNat
/-- R66: one k-block's exact sum, by its scale blocks: each a NaN, or its scale times its products. -/
def kBlock (blocks : List (Nat × Nat × List (FVal × FVal))) : FVal :=
  blocks.foldl (fun acc b =>
    let t : FVal := if b.1 = 255 ∨ b.2.1 = 255 then .nan
      else match (b.2.2.map (fun p => mulV p.1 p.2)).foldr (fun x l => match x, l with | some v, some vs => some (v :: vs) | _, _ => none) (some []) with
        | none => .nan
        | some vs => shiftV ((sumV 0 vs).getD .nan) ((b.1 : Int) - 127 + ((b.2.1 : Int) - 127))
    (sumV 0 [acc, t]).getD .nan) (.fin false 0 0)
/-- R66: an accumulator takes its k-blocks, one rounding each. -/
def accumulate (acc : Nat) (ss : List FVal) : Nat := ss.foldl (fun a v => (encO 1 0 false 0 (sumV 0 [fDec 1 a, v])).1) acc
/-- The value of an operand element by its format; zero where the coordinate lies at or beyond an extent (R69, R218). -/
def opVal (fmt : Nat) (cb : BitVec 256) (code : Option Nat) : FVal :=
  match code with
  | none => .fin false 0 0
  | some c => if fmt = 6 then fDec 3 (bitsN cb.toNat (16 * (c % 16)) 16) else fDec fmt c
/-- R68: an element of an integer operand; zero beyond an extent (R218). -/
def opInt (fmt : Nat) (code : Option Nat) : Int := valT (fmtBits fmt) (fmt == 8 || fmt == 10 || fmt == 12) (code.getD 0)
/-- R223: a tile word in the format of a destination. -/
def drainVal (kind fmt mode : Nat) (sat : Bool) (x : Nat) : Nat :=
  if kind = 0 then (encV fmt mode sat 0 (fDec 1 x)).1
  else if 12 ≤ fmt then x
  else narrow (fmtBits fmt) (fmt == 8 || fmt == 10) sat (valT 32 (kind == 1) x)

/-- Reads of an instruction's operands, as the value that stands there now. -/
structure MxRead where
  s1 : Nat → Option Nat
  s2 : Nat → Option Nat
  c1 : Nat → Nat
  c2 : Nat → Nat
/-- The operands of an instruction in the state (R215: each read falls between start and completion). An element beyond an extent has
no slice and no code (R218); a missing scale is 2 to the 0. -/
def State.mxRead (s : State) (q : MxOp) : MxRead :=
  let rd (l : List Slice) (k : Nat) : Option Nat := match l[k]? with | some (p :: ps) => some (s.engRead (p :: ps)) | _ => none
  { s1 := rd q.src1, s2 := rd q.src2, c1 := fun k => (rd q.sc1 k).getD 127, c2 := fun k => (rd q.sc2 k).getD 127 }
/-- R225: the running sum of an `mmia` over a row or a column. -/
def prefixSum (d : MxRead) (fmt mode i j : Nat) : Int :=
  match mode with
  | 0 => opInt fmt (d.s1 (16 * i + j))
  | 1 => (List.range (j + 1)).foldl (fun x k => x + opInt fmt (d.s1 (16 * i + k))) 0
  | 3 => (List.range (j + 1)).foldl (fun x k => x + opInt fmt (d.s1 (16 * i + k))) 0
  | _ => (List.range (i + 1)).foldl (fun x k => x + opInt fmt (d.s1 (16 * k + j))) 0
/-- R220: element (i, j) of an `mma`, over its accumulator. -/
def mmaVal (q : MxOp) (f : FX) (d : MxRead) (acc i j : Nat) : Nat :=
  let fa := lyFmt q.la.toNat
  let fb := lyFmt q.lb.toNat
  if f.cls = 2 then
    wrapN 32 ((List.range f.k).foldl (fun x k => x + opInt fa (d.s1 (f.k * i + k)) * opInt fb (d.s2 (f.k * j + k))) (acc : Int))
  else
    let kb := kbOf f.cls
    let sub := min kb 32
    accumulate acc ((List.range (f.k / kb)).map (fun b => kBlock ((List.range (kb / sub)).map (fun g =>
      let k0 := b * kb + g * sub
      (d.c1 (f.k / 32 * i + k0 / 32), d.c2 (f.k / 32 * j + k0 / 32), (List.range sub).map (fun k =>
        (opVal fa q.cba (d.s1 (f.k * i + k0 + k)), opVal fb q.cbb (d.s2 (f.k * j + k0 + k)))))))))
/-- The new word of element e of the destination tile, or the value stored for it. An `mmia` that carries a last element along takes
for that element itself the word that stands there now, so that it is updated indivisibly, and for the others the word at the start (R215). -/
def mxVal (w : Workgroup) (q : MxOp) (d : MxRead) (e : Nat) : Nat :=
  let f := fxOf q.instr
  let i := e / 16
  let j := e % 16
  let old := w.tileWord f.acc.toNat e
  match q.instr with
  | .mma _ _ => mmaVal q f d old i j
  | .mmag _ _ => mmaVal q f d old i j
  | .mmld _ _ =>
    let fmt := lyFmt q.la.toNat
    if q.kind = 0 then (encV 1 0 false 0 (match d.s1 e with | none => .fin false 0 0 | some c => scaledVal fmt [] c (d.c1 e))).1
    else wrapN 32 (opInt fmt (d.s1 e))
  | .mmst _ _ => drainVal q.kind (lyFmt q.ld.toNat) (f.sub.toNat % 8) (bitN f.sub.toNat 3) old
  | .mmdr _ _ => drainVal q.kind (lyFmt q.ld.toNat) (f.sub.toNat % 8) (bitN f.sub.toNat 3) old
  | .mmfl _ _ => f.ximm.toNat
  | .mmia _ _ =>
    let snap (k : Nat) : Nat := (q.snap.getD k 0).toNat
    let base := match f.sub.toNat with
      | 3 => if j = 15 then old else snap (16 * i + 15)
      | 4 => if i = 15 then old else snap (240 + j)
      | _ => old
    wrapN 32 ((base : Int) + prefixSum d (lyFmt q.la.toNat) f.sub.toNat i j)
  | .mmscl _ _ => (encO 1 0 false 0 (mulV (fDec 1 old) (opVal 1 0 (d.s1 (if f.sub = 0 then i else j))))).1
  | .mmcb _ _ =>
    let y := w.tileWord (f.ximm.toNat % 8) e
    if q.kind = 0 then
      (match f.sub.toNat with
      | 0 => (encO 1 0 false 0 (sumV 0 [fDec 1 old, fDec 1 y])).1
      | 1 => minMaxF 1 true false old y
      | _ => minMaxF 1 false false old y)
    else (match f.sub.toNat with
      | 0 => (old + y) % 2 ^ 32
      | 1 => if valT 32 (q.kind == 1) old < valT 32 (q.kind == 1) y then y else old
      | _ => if valT 32 (q.kind == 1) y < valT 32 (q.kind == 1) old then y else old)
  | _ => 0

/-! ### Events (R214 to R217, R229) -/

/-- The tiles an instruction reads (R229). -/
def tilesRead (i : Instr) : List Nat :=
  match i with
  | .mma _ f => [f.acc.toNat] | .mmag _ f => [f.acc.toNat] | .mmst _ f => [f.acc.toNat] | .mmdr _ f => [f.acc.toNat]
  | .mmia _ f => [f.acc.toNat] | .mmscl _ f => [f.acc.toNat] | .mmcb _ f => [f.acc.toNat, f.ximm.toNat % 8]
  | _ => []
/-- Whether an instruction writes a tile. -/
def writesTile (i : Instr) : Bool := match i with | .mmst _ _ => false | .mmdr _ _ => false | .mmsl _ _ => false | _ => true
/-- The elements an instruction writes. -/
def mxElems (i : Instr) : List Nat := match i with | .mmsl _ _ => [] | _ => List.range 256
/-- Change an instruction in a workgroup's queue. -/
def State.modMx (s : State) (wu id : Nat) (f : MxOp → MxOp) : State :=
  s.modWu wu (fun w => { w with mx := { w.mx with queue := replaceFirst (fun q => q.id = id) f w.mx.queue } })
/-- The workgroup that owns the engine of a core, and its instruction of a number. -/
def State.findMx (s : State) (core op : Nat) : Option (Workgroup × MxOp) :=
  s.allWgs.findSome? (fun w => if w.core = core then (w.mx.queue.find? (fun q => q.id = op)).map (fun q => (w, q)) else none)
/-- R214: every setter of a waited slot issued before the instruction has completed. -/
def waitsOver (w : Workgroup) (q : MxOp) : Bool :=
  let mask := (fxOf q.instr).wait.toNat
  (w.mx.queue.takeWhile (fun x => x.id != q.id)).all (fun x => match x.setslot with | some k => !(bitN mask k) | none => true)
/-- R52: a location stands in an exchange group that the relayout on a layout has still to commit. -/
def RlySt.holds (y : RlySt) (l : Loc) : Bool :=
  (List.range y.locs.length).any (fun k => y.left.contains (y.groupOf k) && (y.locs.getD k []).any (fun p => p.2.touches l))
/-- R52: a write through the relayouting register waits. -/
def State.rlyHolds (s : State) (x : LyRef) (sl : Slice) : Bool :=
  match s.rlyOn x with | none => false | some y => sl.any (fun p => y.holds p.2)
/-- `MATRIX_START` (R214, R346): once its waits are over, and not while its workgroup is stopped for save. -/
def execMatrixStart (core op : Nat) (s : State) : Out := .next (
  match s.findMx core op with
  | none => s
  | some (w, q) =>
    if q.started || !(waitsOver w q) || !(decide (w.stop = .running) || decide (w.stop = .ended)) ||
        q.dst.any (s.rlyHolds (.reg w.wu (fxOf q.instr).ld.toNat)) then s
    else
      let snap := (List.range 256).map (fun e => BitVec.ofNat 32 (w.tileWord (fxOf q.instr).acc.toNat e))
      s.modMx w.wu op (fun q => { q with started := true, cycles := 0, snap := snap }))
/-- Write one element's result. -/
def State.mxPut (s : State) (q : MxOp) (wu e v : Nat) : State :=
  if writesTile q.instr then
    s.modWu wu (fun w => { w with mx := { w.mx with acc := smPut 0 w.mx.acc (256 * (fxOf q.instr).acc.toNat + e) (BitVec.ofNat 32 v) } })
  else s.putSlice ((s.findWu wu).map (fun w => quadOf w.core)) (q.dst.getD e []) v
/-- R214: the instruction is complete: its set slot's count falls, and its operation retires once the older ones of its member have, with POISON
when it read poison or wrote to a fenced die's memory (R354). -/
def State.mxDone (s : State) (wu : Nat) (q : MxOp) (psn : Bool) : State :=
  let t := (fxOf q.instr).acc.toNat
  let s1 := s.modWu wu (fun w =>
    let slots := match q.setslot with | some k => smPut 0 w.mx.slots k (smGet 0 w.mx.slots k - 1) | none => w.mx.slots
    let flags := if !(writesTile q.instr) then w.mx.psn
      else if psn then (if w.mx.psn.contains t then w.mx.psn else w.mx.psn ++ [t])
      else match q.instr with | .mmld _ _ => w.mx.psn.filter (· != t) | .mmz _ _ => w.mx.psn.filter (· != t) | .mmfl _ _ => w.mx.psn.filter (· != t) | _ => w.mx.psn
    { w with mx := { w.mx with queue := dropFirst (fun x => x.id = q.id) w.mx.queue, slots := slots, psn := flags } })
  let drop := q.dst.any (fun sl => sl.any (fun p => decide (p.2.place = .glob) && s.fencedByte (p.2.bit / 8)))
  let fin (o : OutOp) : OutOp := { o with done := true, report := if psn || drop then some POISON else o.report }
  (s1.modMem ⟨wu, q.mem⟩ (fun m => { m with outs := replaceFirst (fun o => o.id = q.id) fin m.outs })).retireFor ⟨wu, q.mem⟩ 3
/-- R333: an instruction that started 65,536 core cycles ago has not completed. -/
def MxOp.late (q : MxOp) : Bool := q.started && decide (Config.matrixWatchdog ≤ q.cycles)
/-- `MATRIX_COMPLETE` (R214, R215, R229, R333): a started instruction that is not late writes the elements named (none named: all it has left), from what its
operands hold now; with the last of them it completes. One that finds poison writes nothing. -/
def execMatrixComplete (core op : Nat) (elems : List Nat) (s : State) : Out := .next (
  match s.findMx core op with
  | none => s
  | some (w, q) =>
    if !q.started || q.late then s
    else if q.elems = [] && ((tilesRead q.instr).any (fun t => w.mx.psn.contains t) ||
        (q.src1 ++ q.src2 ++ q.sc1 ++ q.sc2).any s.slicePoison) then s.mxDone w.wu q true
    else
      let left := (mxElems q.instr).filter (fun e => !(q.elems.contains e))
      let now := if elems = [] then left else left.filter (fun e => elems.contains e)
      if now.any (fun e => s.rlyHolds (.reg w.wu (fxOf q.instr).ld.toNat) (q.dst.getD e [])) then s
      else
        let d := s.mxRead q
        let s1 := (now.map (fun e => (e, mxVal w q d e))).foldl (fun t ev => t.mxPut q w.wu ev.1 ev.2) s
        if now.length = left.length then s1.mxDone w.wu q false
        else s1.modMx w.wu op (fun q => { q with elems := q.elems ++ now }))
/-- R229, R352: the engine of a workgroup is reset: every tile-class operation retires with MXRESET, MATRIX members raise it next. -/
def State.mxReset (s : State) (w : Workgroup) : State :=
  let s1 := s.modWu w.wu (fun w => { w with mx := {} })
  let reset (o : OutOp) : OutOp := match o.kind with
    | .tile _ => if o.done then o else { o with done := true, report := some MXRESET }
    | _ => o
  (s1.membersOf w.wu).foldl (fun t m => (t.modMem ⟨w.wu, m.id⟩
    (fun m => { m with mxreset := m.mxreset || m.kind == 2, outs := m.outs.map reset })).retireFor ⟨w.wu, m.id⟩ 3) s1
/-- `MATRIX_WATCHDOG` (R333): an instruction started 65,536 core cycles ago has not completed. -/
def execMatrixWatchdog (core : Nat) (s : State) : Out := .next (
  match s.allWgs.find? (fun w => decide (w.core = core) && w.mx.queue.any MxOp.late) with
  | none => s
  | some w => s.mxReset w)
/-- Started instructions that have written nothing stand unstarted at the head of the queue (R346). -/
def unstart (queue : List MxOp) : List MxOp :=
  let idle (q : MxOp) : Bool := q.started && q.elems == []
  (queue.filter idle).map (fun q => { q with started := false, cycles := 0, snap := [] }) ++ queue.filter (fun q => !(idle q))
/-- `MATRIX_SAVE_LIMIT` (R346), 256 core cycles after its workgroup stopped: a started instruction whose results show in part finishes
now; one with no result visible is abandoned and stands unstarted at the head of the queue. -/
def execMatrixSaveLimit (wu : Nat) (s : State) : Out := .next (
  match s.findWu wu with
  | none => s
  | some w =>
    if w.stop = .running ∨ w.stop = .ended ∨ w.stopCyc < 256 then s
    else
      let s1 := (w.mx.queue.filter (fun q => q.started && q.elems != [])).foldl (fun t q =>
        match execMatrixComplete w.core q.id [] t with | .next t1 => t1 | _ => t) s
      s1.modWu wu (fun w => { w with mx := { w.mx with queue := unstart w.mx.queue } }))

end Sys2Proof.Machine
end

