-- ==== Sys2Proof/Machine/TeamOps.lean ====
section
/-!
DEFINITION. TeamOps.lean: the team stream, conjunction rings, team registers and the team instructions, opcodes 0xB8 to 0xBF
(R233 to R247).
-/
namespace Sys2Proof.Machine

/-! ### The team stream (R233 to R236) -/

/-- The slots of a line that hold an instruction decided once per entry (R236). -/
def decided (bs : List Byte) : List Nat :=
  (List.range 5).filter (fun k => match decode (slotBits bs k) with
    | .tbra h _ => h.role == 0
    | .tloop h _ => h.role == 0
    | .drift h _ => h.role == 0
    | _ => false)
/-- Where an entry's stream goes on: none while an outcome is not recorded, or while the line cannot be fetched. Slots before the one at
which the stream entered the line take no part. -/
def State.entryNext (s : State) (e : TeamEntry) : Option Pc :=
  match s.fetch e.line with
  | .error _ => none
  | .ok bs =>
    let seen := e.outcome.filter (fun o => decide (e.start ≤ o.1))
    match seen.findSome? (fun o => o.2) with
    | some p => some p
    | none =>
      if ((decided bs).filter (fun k => decide (e.start ≤ k))).all (fun k => seen.any (fun o => o.1 = k)) then some { line := e.line + 1 }
      else none
/-- The lowest position among the members that have not left (R234). -/
def State.pmin (s : State) : Nat :=
  match (s.team.filter (fun m => !m.gone)).map (·.pos) with | [] => 0 | p :: ps => ps.foldl min p
/-- R234: the member in focus may enter an entry: below the bound, or no other member is behind it. -/
def State.mayStep (s : State) (t : Team) (idx : Nat) : Bool := decide (idx < s.pmin + t.drift) || decide (s.m.pos = s.pmin)
/-- The entry of a number; entries are made in order as the stream's outcomes determine them. `fuel` bounds how many are made. -/
def entryAt (s : State) (t : Team) : Nat → Nat → Team × Option TeamEntry
  | fuel, idx => match t.entries.find? (fun e => e.idx = idx) with
    | some e => (t, some e)
    | none => match fuel with
      | 0 => (t, none)
      | n + 1 => if idx = 0 then (t, none) else
        match entryAt s t n (idx - 1) with
        | (t1, none) => (t1, none)
        | (t1, some e) => match s.entryNext e with
          | none => (t1, none)
          | some p => let e1 : TeamEntry := { idx := idx, line := p.line, start := p.slot.toNat }; ({ t1 with entries := t1.entries ++ [e1] }, some e1)
termination_by structural fuel _ => fuel
/-- Set the team of the workgroup in focus, keeping only entries that some member has still to pass (R233). -/
def State.putTeam (s : State) (t : Team) : State :=
  s.modTeam (fun _ => { t with entries := t.entries.filter (fun e => decide (s.pmin ≤ e.idx)) })
/-- The member in focus enters an entry. -/
def State.atEntry (s : State) (t : Team) (idx : Nat) : State :=
  (s.modM (fun m => { m with pos := idx, moving := false, priv := false })).putTeam t
/-- R233, R234: enter the next entry. The second component says that the member stands at it. -/
def State.enterNext (s : State) (t : Team) : State × Bool :=
  if !(s.mayStep t (s.m.pos + 1)) then (s, false)
  else match entryAt s t 65 (s.m.pos + 1) with
    | (t1, none) => (s.putTeam t1, false)
    | (t1, some e) => (s.atEntry t1 e.idx, true)
/-- R235: a private member whose line is no role block takes the first entry at or after its held position that holds the line. -/
def rejoin (s : State) (t : Team) : Nat → Nat → State × Bool
  | 0, _ => (s.putTeam t, false)
  | fuel + 1, idx =>
    if !(s.mayStep t idx) then (s.putTeam t, false)
    else match entryAt s t 65 idx with
      | (t1, none) => (s.putTeam t1, false)
      | (t1, some e) => if e.line = s.m.path.pc.line then (s.atEntry t1 idx, true) else rejoin s t1 fuel (idx + 1)
/-- R233 to R235: bring the executing path to its line: in the stream, or private in its role block. False: it stalls. -/
def State.teamStep (s : State) : State × Bool :=
  match s.wg.team with
  | none => (s, true)
  | some t =>
    let bit := 2 ^ s.m.role
    if s.m.priv && s.rolesOf s.m.path.pc.line == bit then (s, true)
    else
      if s.m.priv then rejoin s t 65 s.m.pos
      else match t.entries.find? (fun e => e.idx = s.m.pos) with
        | none => s.enterNext t
        | some e => if s.m.moving || e.line != s.m.path.pc.line then s.enterNext t else (s, true)

/-- R236: decide once per entry: take what the entry records for this slot, else evaluate and record it. -/
def State.decideOnce (s : State) (eval : State → State × Option Pc) : State × Option Pc :=
  let k := s.m.path.pc.slot.toNat
  match (s.wg.team.bind (fun t => t.entries.find? (fun e => e.idx = s.m.pos))).bind (fun e => e.outcome.find? (fun o => o.1 = k)) with
  | some o => (s, o.2)
  | none =>
    let r := eval s
    (r.1.modTeam (fun t => { t with entries := replaceFirst (fun e => e.idx = s.m.pos) (fun e => { e with outcome := e.outcome ++ [(k, r.2)] }) t.entries }), r.2)
/-- Follow the stream: to the target as the next entry, or to the next slot. -/
def State.follow (s : State) (p : Option Pc) : State :=
  match p with
  | some p => (s.setPc p).modM (fun m => { m with moving := true })
  | none => s.advance

/-! ### Fields (R240) -/

/-- The fields that a format H entry leaves zero: whether each is used. -/
def zerosH (f : FH) (sub drift qreg rdst sdata ren sen rring sring himm : Bool) : Bool :=
  f.zero == 0 && (sub || f.sub == 0) && (drift || f.drift == 0) && (qreg || f.qreg == 0) && (rdst || f.rdst == 0) &&
  (sdata || f.sdata == 0) && (ren || f.ren == 0) && (sen || f.sen == 0) && (rring || f.rring == 0) && (sring || f.sring == 0) &&
  (himm || f.himm == 0)
/-- The guard that every team instruction but `qset` and `qget` has. -/
def guardAll (h : Hdr) : Bool := h.guard == 7 && h.neg == 0
/-- A special register. -/
def isSpecial (sp : Spec) : Bool := decide (384 ≤ sp.toNat) && decide (sp.toNat < 404)
/-- A team register. -/
def isQ (sp : Spec) : Bool := decide (320 ≤ sp.toNat) && decide (sp.toNat < 336)
/-- The writer role of a team register (R230). -/
def State.writer (s : State) (k : Nat) : Nat := (s.wg.team.map (fun t => smGet 15 t.qwr k)).getD 15
/-- R104: the team declares a ring of this number. -/
def State.ringDeclared (s : State) (k : Nat) : Bool := decide (k < ((s.wg.team.map (·.rings.length)).getD 0))
/-- The role of a ring's senders, or receivers; 0 for a ring that is not used. -/
def State.ringRole (s : State) (k : Nat) (send : Bool) : Nat :=
  ((s.wg.team.bind (fun t => t.rings[k]?)).map (fun r => if send then r.srole else r.rrole)).getD 0
/-- A team slot: decode checks, then `role`, a ROLECLASS check of the rings and registers it names; stalls; effect. -/
def runH (s : State) (h : Hdr) (c : Cls) (uses : List SpecUse) (ok role stall : Bool) (go : State → State) : Out :=
  runSlot s (match issueFault s h (classOk s c false h.role.toNat) uses (needs ok) with
      | some e => some e
      | none => if role then none else some ROLECLASS)
    (s.hazard uses || stall)
    (fun s => if s.guardLow h && s.marked uses [lowLane s.active] then s.fault POISON else go s)

/-! ### Rings (R237, R241, R242) -/

/-- The send part of the executing path that is under way, or done but for the receive part. -/
def State.sendEntry (s : State) : Option (Nat × Nat × Nat) := s.m.sending.find? (fun e => e.1 = lowLane s.active)
/-- R241: arrive in the member's next send instance of a ring. -/
def State.arriveRing (s : State) (k : Nat) (payload : W64) (marker : Bool) : State :=
  let md := (s.wg.team.bind (fun t => t.rings[k]?)).map Ring.modulus
  let inst := smGet 0 s.m.sent k
  let a : Arrival := { inst := inst, mem := s.m.id, op := s.uid, payload, marker }
  let lane := lowLane s.active
  let s1 := s.modM (fun m => { m with sent := smPut 0 m.sent k ((inst + 1) % md.getD 1), sending := m.sending ++ [(lane, k, inst)] })
  (s1.modTeam (fun t => { t with rings := setAt t.rings k (let r := t.rings.getD k {}; { r with arrivals := r.arrivals ++ [a] }) })).tick
/-- Whether a member's send instance has been written. -/
def State.written (s : State) (k inst : Nat) : Bool :=
  match s.wg.team.bind (fun t => t.rings[k]?) with
  | none => true
  | some r => !(r.arrivals.any (fun a => a.inst = inst && a.mem = s.m.id))
/-- The executing path's send part is over. -/
def State.endSend (s : State) : State := s.modM (fun m => { m with sending := m.sending.filter (fun e => e.1 != lowLane s.active) })
/-- The send part of R241: arrive, then wait until the instance is written; `go` follows. -/
def State.sendPart (s : State) (k : Nat) (payload : W64) (marker : Bool) (go : State → State) : State :=
  match s.sendEntry with
  | none => s.arriveRing k payload marker
  | some e => if s.written e.2.1 e.2.2 then go s else s
/-- Write a received descriptor (R241). -/
def State.putRecv (s : State) (dst : Spec) (x : W64) : State :=
  let n := dst.toNat
  if n < 256 then s.modR (fun r => (lanesOf s.active).foldl (fun r l => r.wv n l (x.setWidth 32)) r)
  else if n < 320 then s.modR (·.ws (n - 256) x)
  else if n < 336 then s.wrQ (n - 320) x
  else s
/-- The receive part of R241. -/
def State.recvPart (s : State) (f : FH) : State :=
  let k := f.rring.toNat
  match s.wg.team.bind (fun t => t.rings[k]?) with
  | none => s
  | some r =>
    let ri := smGet 0 s.m.ri k
    if r.diff r.sc ri = 0 then s
    else
      let e := r.stages.getD (ri % r.stages.length) {}
      let s1 := if e.marker then s else s.putRecv f.rdst e.desc
      let s2 := if bitN f.sub.toNat 3 then s1.modR (fun r => (lanesOf s.active).foldl (fun r l => r.wp (f.sub.toNat % 8) l (!e.marker)) r) else s1
      let s3 := s2.modM (fun m => { m with ri := smPut 0 m.ri k ((ri + 1) % r.modulus) })
      (s3.settleTeam.acquire 1).endSend.advance
/-- A payload source (R240). -/
def payloadOk (sp : Spec) : Bool := isV sp || isS sp || isQ sp || isSpecial sp || sp.toNat == 511
/-- `hand` (R241). -/
def execHand (h : Hdr) (f : FH) (s : State) : Out :=
  let send := f.sen == 1
  let recv := f.ren == 1
  let uses : List SpecUse := (if recv && !(isQ f.rdst) then [{ spec := f.rdst, wr := true, ok511 := true }] else []) ++
    (if send then [{ spec := f.sdata, ok511 := true }] else [])
  runH s h .team uses
    (guardAll h && zerosH f true false false recv send true true recv send (send && f.sdata.toNat == 511) && (send || recv) &&
      (!recv || isV f.rdst || isS f.rdst || isQ f.rdst || f.rdst.toNat == 511) && (!send || payloadOk f.sdata) &&
      f.sub.toNat % 8 != 7 && (recv || !(bitN f.sub.toNat 3)) && (!send || s.ringDeclared f.sring.toNat) &&
      (!recv || s.ringDeclared f.rring.toNat))
    ((!send || s.ringRole f.sring.toNat true == h.role.toNat) && (!recv || s.ringRole f.rring.toNat false == h.role.toNat) &&
      (!recv || !(isQ f.rdst) || s.writer (f.rdst.toNat - 320) == h.role.toNat)) false
    (fun s =>
      let x : W64 := if isV f.sdata then (s.rf.rv f.sdata.toNat (lowLane s.active)).setWidth 64 else s.rd64 f.sdata f.himm false (lowLane s.active)
      if send then s.sendPart f.sring.toNat x false (fun s => if recv then s.recvPart f else s.endSend.advance)
      else s.recvPart f)
/-- `rdone` (R242): a send of the marker. -/
def execRdone (h : Hdr) (f : FH) (s : State) : Out :=
  runH s h .team [] (guardAll h && zerosH f false false false false false false true false true false && f.sen == 1 &&
      s.ringDeclared f.sring.toNat)
    (s.ringRole f.sring.toNat true == h.role.toNat) false
    (fun s => s.sendPart f.sring.toNat 0 true (fun s => s.endSend.advance))
/-- `RING_STAGE_WRITE` (R237, R238): the next instance is written once every sender left has arrived in it, a stage is free, and every
older write of every arriving member has been performed at the memory of `.core`. -/
def State.stageWrite (s : State) (k : Nat) : State :=
  match s.wg.team.bind (fun t => t.rings[k]?) with
  | none => s
  | some r =>
    let arr := r.arrivals.filter (fun a => a.inst = r.sc)
    let snd := s.liveRole r.srole
    let rc := s.ringRc k r
    let ready (m : Member) : Bool := match arr.find? (fun a => a.mem = m.id) with
      | none => false
      | some a => s.releaseReady ⟨s.wg.wu, m.id⟩ m a.op 1
    if snd = [] || !(snd.all ready) || decide (r.stages.length ≤ r.diff r.sc rc) then s
    else
      let low := snd.foldl (fun x m => min x m.id) ((snd.head?.map (·.id)).getD 0)
      match arr.find? (fun a => a.mem = low) with
      | none => s
      | some a =>
        let i := r.sc % r.stages.length
        let st : Stage := { desc := a.payload, marker := a.marker, phase := !(r.stages.getD i {}).phase }
        let r1 : Ring := { r with rc, sc := (r.sc + 1) % r.modulus, stages := setAt r.stages i st, arrivals := r.arrivals.filter (fun a => a.inst != r.sc) }
        s.modTeam (fun t => { t with rings := setAt t.rings k r1 })
/-- Some member of a workgroup, to bring the workgroup into focus. -/
def State.anyMember (s : State) (wu : Nat) : Option MRef := ((s.membersOf wu).head?).map (fun m => ⟨wu, m.id⟩)
/-- `RING_STAGE_WRITE`. -/
def execRingStageWrite (wu ring : Nat) (s : State) : Out :=
  match s.anyMember wu with | none => .next s | some r => onMember s r (·.stageWrite ring)

/-! ### Team-common control (R236, R243, R244, R246) -/

/-- Whether a `tbra` transfers. -/
def State.tbraTakes (s : State) (f : FB) : Bool :=
  match f.timeout.toNat with | 0 => teamQ s (f.reg.toNat - 320) != 0 | 1 => teamQ s (f.reg.toNat - 320) == 0 | _ => true
/-- `tbra` (R243). -/
def execTbra (h : Hdr) (f : FB) (s : State) : Out :=
  let al := f.timeout.toNat == 2
  runH s h .teamCommon (if al then [] else [{ spec := f.reg }])
    (guardAll h && decide (f.timeout.toNat ≤ 2) && (if al then f.reg == 0 else isQ f.reg) && f.cond == 7 && f.cneg == 0 && f.jofs == 0 &&
      f.jslot == 0 && decide (f.tslot.toNat < 5)) true false
    (fun s =>
      let p := s.target f.tofs f.tslot
      let r := s.decideOnce (fun s => (s, if s.tbraTakes f then some p else none))
      if r.2.isSome && s.leaves f.tofs then s.fault ILLTARGET
      else if r.2.isSome && !(s.tgt p) then s.noReach p else r.1.follow r.2)
/-- `tloop` (R243). -/
def execTloop (h : Hdr) (f : FB) (s : State) : Out :=
  let k := f.reg.toNat - 320
  runH s h .teamCommon [{ spec := f.reg }]
    (guardAll h && f.timeout == 0 && isQ f.reg && f.cond == 7 && f.cneg == 0 && f.jofs == 0 && f.jslot == 0 && decide (f.tslot.toNat < 5))
    (s.writer k == 0) false
    (fun s =>
      let p := s.target f.tofs f.tslot
      let r := s.decideOnce (fun s => let x := teamQ s k - 1; (s.wrQ k x, if x = 0 then none else some p))
      if r.2.isSome && s.leaves f.tofs then s.fault ILLTARGET
      else if r.2.isSome && !(s.tgt p) then s.noReach p else r.1.follow r.2)
/-- `drift` (R246). -/
def execDrift (h : Hdr) (f : FH) (s : State) : Out :=
  runH s h .teamCommon [] (guardAll h && zerosH f false true false false false false false false false false &&
      decide (1 ≤ f.drift.toNat) && decide (f.drift.toNat ≤ 64)) true false
    (fun s => (s.decideOnce (fun s => (s.modTeam (fun t => { t with drift := min f.drift.toNat t.driftMax }), none))).1.advance)
/-- `tsync` (R244): a path arrives once its member's older writes are performed at `.core`, and goes on when every member left has
arrived; completion is an acquire. -/
def execTsync (h : Hdr) (f : FH) (s : State) : Out :=
  runH s h .teamCommon [] (guardAll h && zerosH f false false false false false false false false false false) true false
    (fun s => match s.wg.team with
      | none => s
      | some t =>
        let lane := lowLane s.active
        let pass (s : State) : State :=
          ((s.modM (fun m => ({ m with tsWait := m.tsWait.filter (fun e => e.1 != lane) } : Member).kick)).acquire 1).advance
        match s.m.tsWait.find? (fun e => e.1 = lane) with
        | some e => if e.2 < t.tsPhase then pass s else s
        | none =>
          if t.tsync.contains s.m.id || !(s.releaseReady s.ref s.m s.uid 1) then s
          else
            let s1 := s.modM (fun m => { m with tsWait := m.tsWait ++ [(lane, t.tsPhase)] })
            let s2 := (s1.modTeam (fun t => { t with tsync := t.tsync ++ [s.m.id] })).settleTeam
            if ((s2.wg.team.map (·.tsPhase)).getD 0) = t.tsPhase then s2 else pass s2)

/-! ### Team registers (R239, R245) -/

/-- `qset` (R245). -/
def execQset (h : Hdr) (f : FH) (s : State) : Out :=
  runH s h .team [{ spec := f.sdata, ok511 := true }]
    (zerosH f false false true false true false false false false (f.sdata.toNat == 511) &&
      (isS f.sdata || isSpecial f.sdata || f.sdata.toNat == 511))
    (s.writer f.qreg.toNat == h.role.toNat) false
    (fun s => if !(s.guardLow h) then s.advance else (s.wrQ f.qreg.toNat (s.rd64 f.sdata f.himm false (lowLane s.active))).advance)
/-- `qget` (R245). -/
def execQget (h : Hdr) (f : FH) (s : State) : Out :=
  runH s h .team [{ spec := f.rdst, wr := true }]
    (zerosH f false false true true false false false false false false && (isS f.rdst || isV f.rdst)) true false
    (fun s =>
      let x := teamQ s f.qreg.toNat
      if isS f.rdst then (if s.guardLow h then s.modR (·.ws (f.rdst.toNat - 256) x) else s).advance
      else (s.modR (fun r => (s.guarded h).foldl (fun r l => r.wv f.rdst.toNat l (x.setWidth 32)) r)).advance)

end Sys2Proof.Machine
end

