-- ==== Sys2Proof/Machine/Launch.lean ====
section
/-!
DEFINITION. Launch.lean: launch descriptors, team descriptors, what a workgroup charges a core, how a workgroup starts, the slots of
the task graph, and where the distributors place work (R26 to R33, R230, R231, R315 to R324, R328).
-/
namespace Sys2Proof.Machine

/-! ### Reading as the schedulers read -/

/-- A virtual address of a context as a unit outside the cores resolves it, or fault code and DETAIL (R308). -/
def State.ctxPa (s : State) (ctx va need : Nat) : Except (Nat × Nat) Nat :=
  match s.walk ctx va with
  | .error c => .error (XLATE, c)
  | .ok (e, large, _) => if leafRights e &&& need = need then .ok (leafPa e large va) else .error (PERM, 1)
/-- Whether a byte of a range is poisoned. -/
def State.rangePoison (s : State) (pa n : Nat) : Bool :=
  n != 0 && (List.range ((pa + n - 1) / 128 - pa / 128 + 1)).any (fun i => s.poisoned (128 * (pa / 128 + i)))
/-- The bytes at a virtual address, read at the memory of `.pkg` (R317); `fuel` counts pages. -/
def readVa (s : State) (ctx : Nat) : Nat → Nat → Nat → Except (Nat × Nat) (List Byte)
  | 0, _, _ => .ok []
  | fuel + 1, va, n =>
    if n = 0 then .ok []
    else match s.ctxPa ctx va 1 with
      | .error f => .error f
      | .ok pa =>
        let k := min n (65536 - va % 65536)
        if s.rangePoison pa k then .error (POISON, 0)
        else match readVa s ctx fuel (va + k) (n - k) with
          | .error f => .error f
          | .ok rest => .ok (memGets s.mem.pm pa k ++ rest)
/-- The `n` bytes at a virtual address of a context. -/
def State.readCtx (s : State) (ctx va n : Nat) : Except (Nat × Nat) (List Byte) := readVa s ctx (n / 65536 + 2) va n
/-- Word i, of 8 bytes, of a record. -/
def wordAt (bs : List Byte) (i : Nat) : Nat := leNat ((bs.drop (8 * i)).take 8)

/-! ### Team descriptors (R29, R230, R231) -/

/-- The half word of role r. -/
def roleWord (bs : List Byte) (r : Nat) : Nat := leNat ((bs.drop (22 + 2 * r)).take 2)
/-- The declared roles, ascending: role, kind, members. -/
def teamRoles (bs : List Byte) : List (Nat × Nat × Nat) :=
  ((List.range 8).drop 1).filterMap (fun r =>
    let v := roleWord bs r
    if bitN v 8 then some (r, bitsN v 6 2, if bitsN v 6 2 ≤ 1 then bitsN v 0 6 else 1) else none)
/-- The members of a kind that the roles declare. -/
def kindCount (roles : List (Nat × Nat × Nat)) (k : Nat) : Nat := ((roles.filter (fun r => r.2.1 = k)).map (·.2.2)).sum
/-- The byte of ring k. -/
def ringByte (bs : List Byte) (k : Nat) : Nat := ((bs.getD (16 + k) 0)).toNat
/-- R231, but for the rule that the matrix attribute decides: the record is accepted for `warps` warps. -/
def teamOk (bs : List Byte) (warps : Nat) : Bool :=
  let roles := teamRoles bs
  let has (r : Nat) : Bool := roles.any (fun x => x.1 = r)
  let w0 := wordAt bs 0
  bs.length == 64 && (bs.drop 38).all (· == 0) && w0 / 2 ^ 13 == 0 && decide (1 ≤ bitsN w0 6 7) && decide (bitsN w0 6 7 ≤ 64) &&
  ((List.range 8).drop 1).all (fun r =>
    let v := roleWord bs r
    v / 512 == 0 && (!(bitN v 8) || (match bitsN v 6 2 with
      | 0 => decide (1 ≤ bitsN v 0 6) && decide (bitsN v 0 6 ≤ 32)
      | 1 => decide (1 ≤ bitsN v 0 6) && decide (bitsN v 0 6 ≤ 4)
      | _ => bitsN v 0 6 == 0))) &&
  roles != [] && decide (kindCount roles 0 ≤ 32) && decide (kindCount roles 1 ≤ 4) && decide (kindCount roles 2 ≤ 1) &&
  decide (kindCount roles 3 ≤ 1) && kindCount roles 0 == warps &&
  (List.range 16).all (fun k =>
    let q := bitsN (wordAt bs 1) (4 * k) 4
    q == 15 || (decide (q < 8) && (q == 0 || has q))) &&
  (List.range 8).all (fun k =>
    let b := ringByte bs k
    let sr := b % 8
    let rr := bitsN b 3 3
    b / 64 == 0 && (decide (k ≤ w0 % 8) || b == 0) && (sr == 0 || (rr != 0 && sr != rr && has sr && has rr)))
/-- The team state that a workgroup starts with (R233, R237). -/
def teamStart (bs : List Byte) (code : BitVec 54) : Team :=
  let w0 := wordAt bs 0
  let ring (k : Nat) : Ring :=
    { srole := ringByte bs k % 8, rrole := bitsN (ringByte bs k) 3 3, stages := List.replicate (bitsN w0 3 3 + 1) {} }
  { qwr := (List.range 16).map (fun k => (k, bitsN (wordAt bs 1) (4 * k) 4)), rings := (List.range (w0 % 8 + 1)).map ring
    drift := bitsN w0 6 7, driftMax := bitsN w0 6 7, entries := [{ idx := 0, line := code }]
    roles := (teamRoles bs).map (fun r => (r.1, r.2.1)) }
/-- Number the members of a role from the next free `%warp` of its kind (R17): `%warp`, kind, role. -/
def numberRoles : List (Nat × Nat × Nat) → Nat → Nat → List (Nat × Nat × Nat)
  | [], _, _ => []
  | (r, k, n) :: rs, v, a =>
    match k with
    | 0 => (List.range n).map (fun i => (v + i, 0, r)) ++ numberRoles rs (v + n) a
    | 1 => (List.range n).map (fun i => (32 + a + i, 1, r)) ++ numberRoles rs v (a + n)
    | k => (38 + k, k, r) :: numberRoles rs v a
/-- The members of a workgroup: `%warp`, kind, role, each `%warp` once (R317: a valid record names none twice). -/
def Launch.memberList (l : Launch) : List (Nat × Nat × Nat) :=
  if l.team = 0 then (List.range l.warps).map (fun i => (i, 0, 0))
  else (numberRoles (teamRoles l.teamRec) 0 0).pwFilter (fun x y => x.1 ≠ y.1)

/-! ### Launch descriptors (R315 to R317) -/

/-- The fields of a launch descriptor. -/
def launchOf (bs : List Byte) : Launch :=
  let w4 := wordAt bs 4
  let w5 := wordAt bs 5
  { code := BitVec.ofNat 54 (wordAt bs 0 / 64), const := wordAt bs 1, clen := wordAt bs 2 % 2 ^ 24, team := wordAt bs 3
    gx := bitsN w4 0 21, gy := bitsN w4 21 21, gz := bitsN w4 42 21, itrap := bitsN w5 40 2, policy := bitsN w5 38 2, rst := bitN w5 37
    mtx := bitN w5 36, clus := bitsN w5 33 3, scr := bitsN w5 24 9, stack := bitsN w5 16 8, budget := bitsN w5 8 6, warps := bitsN w5 0 6
    wdog := wordAt bs 6 % 2 ^ 32, args := (bs.drop 64).take 256 }
/-- R317 reason 2: a zero field that is not zero, or a reserved value. -/
def launchZeros (bs : List Byte) : Bool :=
  let w := wordAt bs
  bitsN (w 0) 60 4 != 0 || bitsN (w 0) 0 6 != 0 || bitsN (w 1) 60 4 != 0 || bitsN (w 2) 24 40 != 0 || bitN (w 4) 63 ||
  bitsN (w 5) 42 22 != 0 || bitsN (w 5) 14 2 != 0 || bitsN (w 5) 6 2 != 0 || bitsN (w 6) 32 32 != 0 || w 7 != 0 ||
  bitsN (w 5) 40 2 == 3 || bitsN (w 5) 38 2 == 3
/-- R317 reason 3: a value outside its range. -/
def launchRange (l : Launch) : Bool :=
  let ext (e : Nat) : Bool := e == 0 || decide (2 ^ 20 < e)
  l.const % 8 != 0 || l.team % 64 != 0 || ext l.gx || ext l.gy || ext l.gz || l.clus == 0 || decide (4 < l.clus) || decide (384 < l.scr) ||
  l.budget == 0 || decide (32 < l.budget) || l.warps == 0 || decide (32 < l.warps)

/-- What a workgroup charges a core (R27): warps, register blocks, scratchpad KiB, access processors, matrix engine, copy
sequencer. -/
def Launch.charge (l : Launch) : List Nat :=
  let roles := if l.team = 0 then [] else teamRoles l.teamRec
  [l.warps, l.warps * l.budget, l.scr + (l.warps * l.stack * 16 + 1023) / 1024, kindCount roles 1, b2n l.mtx, kindCount roles 3]
/-- What a core holds (R27). -/
def coreLimits : List Nat := [32, Config.regBlocks, Config.scratchKiB, 4, 1, 1]
/-- Add charges. -/
def addCharge (a b : List Nat) : List Nat := (List.range 6).map (fun i => a.getD i 0 + b.getD i 0)
/-- A charge fits beside a load. -/
def chargeFits (load c : List Nat) : Bool := (List.range 6).all (fun i => decide (load.getD i 0 + c.getD i 0 ≤ coreLimits.getD i 0))

/-- The lowest reason of R317 that rejects a launch, with the fault that a reason 1 or 8 stands for. -/
def launchReason (s : State) (ctx : Nat) (bs : List Byte) (l : Launch) (team consts : Except (Nat × Nat) (List Byte)) :
    Option (Nat × Nat × Nat) :=
  let tb := match team with | .ok b => b | .error _ => []
  match team, consts with
  | .error f, _ => some (1, f.1, f.2)
  | _, .error f => some (1, f.1, f.2)
  | _, _ =>
    if launchZeros bs then some (2, 0, 0)
    else if launchRange l then some (3, 0, 0)
    else if !(chargeFits [] l.charge) then some (4, 0, 0)
    else if l.gx * l.gy * l.gz % l.clus ≠ 0 then some (5, 0, 0)
    else if l.team ≠ 0 ∧ teamOk tb l.warps = false then some (6, 0, 0)
    else if l.team ≠ 0 ∧ l.mtx = false ∧ kindCount (teamRoles tb) 2 ≠ 0 then some (7, 0, 0)
    else match s.ctxPa ctx (l.code.toNat * 64) 4 with
      | .error f => some (8, f.1, f.2)
      | .ok _ => none
/-- R315 to R317: read and check a launch descriptor for a device of a context: the launch, with its constant segment and its team
record as they stand now; or the reason, with fault code and DETAIL. -/
def State.takeLaunch (s : State) (ctx dev desc : Nat) : Except (Nat × Nat × Nat) Launch :=
  match s.readCtx ctx desc 320 with
  | .error f => .error (1, f.1, f.2)
  | .ok bs =>
    let l0 := launchOf bs
    let team := if l0.team = 0 then .ok [] else s.readCtx ctx l0.team 64
    let consts := s.readCtx ctx (l0.const % 2 ^ 60) l0.clen
    let get (r : Except (Nat × Nat) (List Byte)) : List Byte := match r with | .ok b => b | .error _ => []
    let l := { l0 with teamRec := get team, args := l0.args ++ get consts, dev := dev }
    match launchReason s ctx bs l team consts with
    | some e => .error e
    | none => .ok l

/-! ### Cores (R27, R31, R324, R328, R389) -/

/-- The workgroups a core holds, those that have ended and not yet been released among them. -/
def State.residents (s : State) (core : Nat) : List Workgroup := s.allWgs.filter (fun w => decide (w.core = core) && w.wu != 0)
/-- What a core's residents charge it. -/
def State.coreLoad (s : State) (core : Nat) : List Nat := (s.residents core).foldl (fun a w => addCharge a w.launch.charge) []
/-- The core is one that work of a context may use: its die is not fenced, its quad is in PMASK, and a context made in twilight
keeps to N0 (R401). -/
def State.coreAllowed (s : State) (ctx core : Nat) : Bool :=
  !(s.plat.fenced.contains (dieOf core)) && (!(smGet {} s.ctxs ctx).twilight || dieOf core == 0) && (smGet {} s.ctxs ctx).pmask.getLsbD (quadOf core % 64)
/-- A workgroup of a launch fits on a core. -/
def State.fits (s : State) (ctx : Nat) (l : Launch) (core : Nat) : Bool := s.coreAllowed ctx core && chargeFits (s.coreLoad core) l.charge
/-- R324: a core's stress score. -/
def State.stressOf (s : State) (core : Nat) : Nat :=
  let c := smGet {} s.cores core
  4 * (32 - c.margin) + min (c.droops.filter (fun t => decide ((c.cyc.toNat + 2 ^ 64 - t) % 2 ^ 64 < 2 ^ 20))).length 127
/-- The cores of a die, in the order of its rotation. -/
def dieCores (die : Nat) : List Nat := (List.range 256).map (256 * die + ·)
/-- R324: one choice of the rotation: units by number from the pointer on, those that fit, their stress, their pass counts: the unit
taken, and the new pass counts. -/
def rotate (units : List Nat) (fit : Nat → Bool) (stress pass : Nat → Nat) : Option (Nat × List (Nat × Nat)) :=
  let ok := units.filter fit
  let w := ok.take 8
  let pick := match ok.find? (fun u => decide (8 ≤ pass u)) with
    | some c => some c
    | none => w.find? (fun u => w.all (fun v => decide (stress u ≤ stress v)))
  pick.map (fun c => (c, (w.filter (· != c)).map (fun k => (k, min (pass k + 1) 8)) ++ [(c, 0)]))
/-- Units of a die from a pointer round. -/
def roundFrom (units : List Nat) (p : Nat) : List Nat := units.drop p ++ units.take p
/-- The cores of a quad that fit a workgroup. -/
def State.quadFits (s : State) (ctx : Nat) (l : Launch) (q : Nat) : List Nat := ((List.range 4).map (4 * q + ·)).filter (s.fits ctx l)
/-- R324: the cores a cluster group takes on a die, with the pointers and pass counts after. -/
def State.choose (s : State) (ctx : Nat) (l : Launch) (die : Nat) : Option (List Nat × State) :=
  if l.clus = 1 then
    (rotate (roundFrom (dieCores die) (smGet 0 s.plat.ptr die)) (s.fits ctx l) s.stressOf (fun c => (smGet {} s.cores c).pass)).map (fun r =>
      let cores := r.2.foldl (fun m kp => smPut {} m kp.1 { (smGet {} m kp.1) with pass := kp.2 }) s.cores
      ([r.1], { s with cores := cores, plat := { s.plat with ptr := smPut 0 s.plat.ptr die ((r.1 + 1) % 256) } }))
  else
    let units := (List.range 64).map (64 * die + ·)
    let group (q : Nat) : List Nat := (s.quadFits ctx l q).take l.clus
    (rotate (roundFrom units (smGet 0 s.plat.qptr die)) (fun q => (group q).length = l.clus) (fun q => ((group q).map s.stressOf).sum)
        (fun q => smGet 0 s.plat.qpass q)).map (fun r =>
      let qpass := r.2.foldl (fun m kp => smPut 0 m kp.1 kp.2) s.plat.qpass
      (group r.1, { s with plat := { s.plat with qpass := qpass, qptr := smPut 0 s.plat.qptr die ((r.1 + 1) % 64) } }))

/-- The warp homes taken on a core (R328): 8 times the pipe plus the place. -/
def State.homesOn (s : State) (core : Nat) : List Nat :=
  ((s.residents core).filter (fun w => w.stop != .ended)).flatMap (fun w => (s.membersOf w.wu).filterMap (·.home))
/-- R328: the home a warp takes: on the pipe with the fewest occupied, the lower on a tie. -/
def freeHome (taken : List Nat) : Option Nat :=
  let count (p : Nat) : Nat := (taken.filter (fun h => h / 8 = p)).length
  ((List.range 4).find? (fun p => decide (count p < 8) && (List.range 4).all (fun q => decide (count p ≤ count q)))).bind (fun p =>
    ((List.range 8).map (8 * p + ·)).find? (fun h => !(taken.contains h)))
/-- Give every warp of a list a home. -/
def takeHomes : List Nat → List Member → List Member
  | _, [] => []
  | taken, m :: ms =>
    if m.kind = 0 then
      let h := freeHome taken
      { m with home := h } :: takeHomes (h.toList ++ taken) ms
    else m :: takeHomes taken ms
/-- Where a footprint goes in a core's scratchpad: above every other one. -/
def State.spTop (s : State) (core : Nat) : Nat :=
  (s.residents core).foldl (fun b w => max b (w.spBase + 1024 * w.launch.charge.getD 2 0)) 0

/-! ### Starting a workgroup (R30, R33, R294, R322, R342) -/

/-- The name of a workgroup: context key and WGID. -/
def wuOf (ctx wgid : Nat) : Nat := ctx * 2 ^ 32 + wgid
/-- The next WGID of a context. -/
def State.nextWgid (s : State) (ctx : Nat) : Nat := (smGet {} s.ctxs ctx).nextWgid
/-- Take the next WGID (R342). -/
def State.takeWgid (s : State) (ctx : Nat) : State :=
  s.modCtx ctx (fun c => { c with nextWgid := if c.nextWgid = 2 ^ 32 - 1 then 1 else c.nextWgid + 1 })
/-- A member at the kernel's entry. -/
def startMember (l : Launch) (mk : Nat × Nat × Nat) : Member :=
  { id := mk.1, kind := mk.2.1, role := mk.2.2, wdBudget := l.wdog
    a := some { pc := { line := l.code, slot := 0 }, mask := if mk.2.1 = 0 then BitVec.allOnes 32 else 1 } }
/-- A workgroup at the start of its kernel. -/
def startWg (n : Node) (wgid linear core rank : Nat) (group : List Nat) : Workgroup :=
  let l := n.launch
  { wu := wuOf n.ref.ctx wgid, wgid, ctx := n.ref.ctx, node := n.ref, nodeId := nodeId n, launch := l, core, lcore := core % 4
    x := linear % l.gx, y := linear / l.gx % l.gy, z := linear / (l.gx * l.gy), crank := rank, group
    members := l.memberList.map (startMember l), team := if l.team = 0 then none else some (teamStart l.teamRec l.code) }
/-- Settle a workgroup on its core: its footprint, its homes, and the acquire at `.pkg` with which it begins (R294). -/
def State.settleOn (s : State) (w : Workgroup) : State :=
  let ms := takeHomes (s.homesOn w.core) (w.members.map (fun m => { m with home := none }))
  let s1 := { s with wgs := s.wgs ++ [{ w with spBase := s.spTop w.core, members := ms }] }
  s1.refresh (quadOf w.core) 5
/-- The ranks of a group that start: all but those its code leaves out. -/
def codeRanks (l : Launch) (code : Nat) : List Nat := (List.range l.clus).filter (fun k => !(bitN code k))
/-- Start the workgroups of a cluster group, by its code, on some cores, in rank order. -/
def State.startGroup (s : State) (n : Node) (code : Nat) (cores : List Nat) : State :=
  let first := s.nextWgid n.ref.ctx
  let wrap (k : Nat) : Nat := if 2 ^ 32 - 1 < first + k then first + k - (2 ^ 32 - 1) else first + k
  let ranks := codeRanks n.launch code
  let group := (List.range n.launch.clus).map (fun k => if ranks.contains k then wuOf n.ref.ctx (wrap (ranks.idxOf k)) else 0)
  (List.range ranks.length).foldl (fun t i =>
    let k := ranks.getD i 0
    (t.takeWgid n.ref.ctx).settleOn (startWg n (wrap i) (code / 16 * n.launch.clus + k) (cores.getD i 0) k group)) s

/-! ### Node slots (R270) -/

/-- The lowest free slot of a context's table on a die. -/
def State.freeSlot (s : State) (ctx die : Nat) : Option Nat :=
  ((List.range 4096).map (· + 1)).find? (fun k => !(s.eng.nodes.any (fun n => n.ref = ⟨ctx, die, k⟩)))
/-- Add a node in a slot, with the slot's generation. -/
def State.addNode (s : State) (n : Node) : State :=
  let n1 := { n with gen := smGet 0 s.eng.gens (slotKey n.ref) }
  { s with eng := { s.eng with nodes := s.eng.nodes ++ [n1] } }
/-- The cluster groups of a kernel. -/
def Launch.groups (l : Launch) : Nat := l.gx * l.gy * l.gz / l.clus
/-- The cluster groups of a kernel that no die has been dealt yet. -/
def Node.undealt (n : Node) : Nat := n.redo.length + (n.launch.groups - n.nextGroup)
/-- Cluster groups of distinct cores that one quad can hold, its cores having room for `caps` workgroups each; `fuel` bounds them. -/
def groupsIn (caps : List Nat) (clus : Nat) : Nat → Nat
  | 0 => 0
  | g + 1 => if (g + 1) * clus ≤ ((caps.map (min · (g + 1))).sum) then g + 1 else groupsIn caps clus g
/-- How many workgroups of a launch a load leaves room for. -/
def roomFor (load : List Nat) (l : Launch) : Nat :=
  (List.range 33).foldl (fun b k => if chargeFits load (l.charge.map (k * ·)) then k else b) 0
/-- The live near dies of a device. -/
def State.liveDies (s : State) (ctx dev : Nat) : List Nat :=
  ((smGet {} s.ctxs ctx).dies dev).filter (fun d => !(s.plat.fenced.contains d))
/-- The cluster groups of a launch that a die could place, on empty cores or beside what they hold. -/
def State.dieRoom (s : State) (ctx : Nat) (l : Launch) (empty : Bool) (d : Nat) : Nat :=
  let quad (q : Nat) : Nat := groupsIn (((List.range 4).map (4 * q + ·)).map (fun c =>
    if s.coreAllowed ctx c then roomFor (if empty then [] else s.coreLoad c) l else 0)) l.clus 128
  ((List.range 64).map (fun q => quad (64 * d + q))).sum
/-- The same for a device. -/
def State.deviceRoom (s : State) (ctx : Nat) (l : Launch) (empty : Bool) : Nat := ((s.liveDies ctx l.dev).map (s.dieRoom ctx l empty)).sum
/-- R323: the workgroup belongs to a co-resident kernel not all of whose workgroups stand on cores yet, so that none issues. -/
def State.heldBack (s : State) (w : Workgroup) : Bool :=
  match s.findNode w.node with
  | none => false
  | some n => n.coResident && (n.undealt != 0 || n.dealt != [])

end Sys2Proof.Machine
end

