-- ==== Sys2Proof/Machine/Engine.lean ====
section
/-!
DEFINITION. Engine.lean: engine commands: their fields, their issue, copies and gathers, opcodes 0xC8 and 0xCA (R103, R110, R248 to
R262). A copy's element moves are fixed at issue and land one by one, in any order (ENGINE_WRITE_LAND).
-/
namespace Sys2Proof.Machine

/-! ### Fields (R110, R248, R255) -/

/-- How a command treats REPLY: it has none, it may have one, it must have one. -/
inductive ReplyUse where
  | none | opt | must
deriving DecidableEq, Repr
/-- REPLY and NOREPLY (R248). -/
def replyOk (f : FC) (u : ReplyUse) : Bool :=
  match u with
  | .none => f.noreply == 1 && f.reply == 0
  | .opt => if f.noreply = 1 then f.reply == 0 else isS f.reply || isV f.reply
  | .must => f.noreply == 0 && (isS f.reply || isV f.reply)
/-- A source of a command: an s or q register (R248). -/
def isSQ (sp : Spec) : Bool := isS sp || isQ sp
/-- The fields of a command: whether SRCA and SRCB are read, whether IMM and CMOD hold what the entry allows, whether CTGT may be 1. -/
def engOk (f : FC) (a b imm cmod node : Bool) (u : ReplyUse) : Bool :=
  f.zero == 0 && (if a then isSQ f.srca else f.srca == 0) && (if b || (node && f.ctgt == 1) then isSQ f.srcb else f.srcb == 0) &&
  (node || f.ctgt == 0) && imm && cmod && replyOk f u
/-- The register uses of a command. -/
def engUses (f : FC) (a b : Bool) : List SpecUse :=
  (if a then [{ spec := f.srca }] else []) ++ (if b then [{ spec := f.srcb }] else []) ++
  (if f.noreply = 0 then [{ spec := f.reply, wr := true }] else [])
/-- A command (R248, R249): its decode checks; its stalls; nothing under a false guard; then its own checks and effect. A reply under a
relayout is its last check (R249; `State.last`). -/
def runC (s : State) (h : Hdr) (f : FC) (a b ok : Bool) (stall : State → Bool) (go : State → State) : Out :=
  let uses := engUses f a (b || f.ctgt == 1)
  runSlot s (issueFault s h (classOk s .eng false h.role.toNat) (uses.map (fun u => { u with wr := false })) (needs ok)) (s.hazard uses || (s.guardLow h && stall s))
    (fun s => if !(s.guardLow h) then s.advance
      else if s.marked uses [lowLane s.active] then s.fault POISON else go s)
/-- `cop`: a function code that names no command (R110). DESIGN CHOICE (log 125): its register fields name no register for the third step
of R96, so that ENGFN comes before any ROLECLASS. -/
def execCop (_grp : BitVec 3) (h : Hdr) (_f : FC) (s : State) : Out :=
  runSlot s (issueFault s h (classOk s .eng false h.role.toNat) [] (some ENGFN)) false id
/-- A source register of a command. -/
def State.engSrc (s : State) (sp : Spec) : Nat := (s.rd64 sp 0 false (lowLane s.active)).toNat
/-- Where the reply goes. -/
def State.replyDest (s : State) (f : FC) : Option Dest :=
  if f.noreply = 1 then none else some { spec := f.reply, size := if isS f.reply then 8 else 4, mask := if isS f.reply then 1 else s.active }
/-- A synchronous command replies and is complete. -/
def State.replyNow (s : State) (f : FC) (x : Nat) : State :=
  match s.replyDest f with | none => s.advance | some d => (s.modR (fun r => r.putAll d x)).advance

/-! ### Issue of a counted command (R252, R330) -/

/-- h of R337, of a package offset. -/
def sliceHash (off : Nat) : Nat := bitsN off 7 6 ^^^ bitsN off 13 6 ^^^ bitsN off 19 6 ^^^ bitsN off 25 6 ^^^ bitsN off 31 5
/-- The slice of the package that a line is cached in, for a quad of a die (R337): 192 times its die plus its number there. A host-window
line, which none caches, counts as a peer line (log 128). -/
def State.sliceAt (s : State) (die pa : Nat) : Nat :=
  let off := offOf pa
  if s.homed pa && inHbm off then 192 * (stackOf off / 3) + 64 * (stackOf off % 3) + sliceHash off
  else if s.homed pa && inFar off then 192 * (portOf off % 4) + 64 * (portOf off % 3) + sliceHash off
  else 192 * die + sliceHash off
/-- The far die whose engines a location calls for (R331): that of its port, of the optics of its plane, or of the host link. -/
def State.farOf (s : State) (l : Loc) : Option Nat :=
  match l.place with
  | .glob =>
    let pa := l.bit / 8
    if !(s.homed pa) then some (4 + s.planeOf (pa / 128) / 24)
    else if inHbm (offOf pa) then none
    else if inFar (offOf pa) then some (farDie (offOf pa)) else some 4
  | _ => none
/-- The engines of which an operation occupies a place, by number (R330): the copy engines of die d are d, its relayout sequencer is
4096 + d, the gather engine of slice k is 8192 + k. -/
def copyUnit (die : Nat) : Nat := die
/-- The relayout sequencer of a die. -/
def rlyUnit (die : Nat) : Nat := 4096 + die
/-- The gather engine of a slice. -/
def gatherUnit (slice : Nat) : Nat := 8192 + slice
/-- How many operations they hold (R330). -/
def unitLimit (u : Nat) : Nat := if u < 4096 then 512 else if u < 8192 then 16 else 32
/-- The die they stand on. -/
def unitDie (u : Nat) : Nat := if u < 4096 then u else if u < 8192 then u - 4096 else (u - 8192) / 192
/-- Some engine that an operation needs has no place free. -/
def State.unitsFull (s : State) (us : List Nat) : Bool :=
  us.any (fun u => decide (unitLimit u ≤ (s.eng.ops.filter (fun e => e.units.contains u)).length))
/-- R331: the copy engines that serve a command of a die with these locations; DESIGN CHOICE (log 128): the first of several far dies. -/
def State.copyUnits (s : State) (die : Nat) (ls : List Loc) : List Nat := [copyUnit ((ls.findSome? s.farOf).getD die)]
/-- R331: the gather engines that serve a list. -/
def State.gatherUnits (s : State) (die : Nat) (ls : List Loc) : List Nat :=
  (ls.filterMap (fun l => if l.place = .glob then some (gatherUnit (s.sliceAt die (l.bit / 8))) else none)).dedup
/-- R331: the sequencer that runs a relayout: that of the die whose stacks hold the base, or of the core that holds it; the issuer's die
for registers and for a base in another package (log 128). -/
def State.rlyUnits (s : State) (die : Nat) (base : Option Loc) : List Nat :=
  match base with
  | none => [rlyUnit die]
  | some l => (match l.place with
    | .glob =>
      let off := offOf (l.bit / 8)
      [rlyUnit (if s.homed (l.bit / 8) && inHbm off then stackOf off / 3 else if s.homed (l.bit / 8) && inFar off then portOf off % 4 else die)]
    | .sp c => [rlyUnit (if c < 2 ^ 20 then dieOf c else die)]
    | .reg _ _ => [rlyUnit die])
/-- The die whose engine an operation stands on: what it still has to do is lost with that die (R299). -/
def EngOp.eng (e : EngOp) : Nat := match e.units with | [] => if e.fn = 3 then 4 else e.die | u :: _ => unitDie u
/-- A full counter holds the issue. -/
def State.engFull (s : State) (f : FC) : Bool := f.ctgt == 0 && s.full 2
/-- The node of an id in the issuer's context on the issuer's die (R270). -/
def State.nodeById (s : State) (id : Nat) : Option Node :=
  s.eng.nodes.find? (fun n => n.ref = ⟨s.wg.ctx, dieOf s.wg.core, id / 4096⟩ && decide (n.gen % 4096 = id % 4096))
/-- R252: the target node of a command with CTGT = 1; none when it is stale, launched or withdrawn. -/
def State.targetNode (s : State) (f : FC) : Option (Option (NRef × Nat)) :=
  if f.ctgt = 0 then some none
  else match s.nodeById (s.engSrc f.srcb) with
    | none => none
    | some n => if n.st = .launched then none else some (some (n.ref, n.gen))
/-- A command in flight of the member in focus. -/
def State.engOp (s : State) (f : FC) (fn : Nat) : EngOp :=
  { id := s.uid, owner := s.ref, ctx := s.wg.ctx, die := dieOf s.wg.core, fn, reply := s.replyDest f
    slot := ((s.slotAt s.m.path.pc).map (·.toNat)).getD 0
    flt := fltBody s.wg s.m s.m.curB s.m.path.pc { code := POISON, lanes := if s.m.scalar then 1 else s.active } false }
/-- Start a command of `bytes` expected bytes: it is counted, or its bytes are added to its node (R252). -/
def State.engStart (s : State) (e : EngOp) (bytes : Nat) : State :=
  let s1 := match e.node with
    | none => s.addOut { id := e.id, cls := 2, kind := .engine e.id }
    | some (r, g) => s.modNode r (fun x => if x.gen = g then { x with bytes := x.bytes + bytes } else x)
  ({ s1 with eng := { s1.eng with ops := s1.eng.ops ++ [{ e with expect := if e.expect = 0 then 8 * bytes else e.expect }] } }).tick.advance
/-- The reply of a command is a register under a relayout (R52). -/
def State.replyBusy (s : State) (f : FC) : Bool := f.noreply == 0 && s.rlyHits [{ spec := f.reply, wr := true }]
/-- The last checks of a command (R249): LYBUSY for its reply, PERM for a node it may not target (log 129); then it waits for a place in
the engines it needs (R330), and goes on. -/
def State.last (s : State) (f : FC) (us : List Nat) (go : State → State) : State :=
  if s.replyBusy f then s.fault LYBUSY
  else if (s.targetNode f).isNone then s.faultAt (PERM, 2) 0
  else if s.unitsFull us then s
  else go s
/-- Start a command once its node is known to be one it may target: PERM otherwise. -/
def State.engBegin (s : State) (f : FC) (fn bytes : Nat) (mk : EngOp → EngOp) : State :=
  match s.targetNode f with
  | none => s.faultAt (PERM, 2) 0
  | some node => s.engStart (mk { (s.engOp f fn) with node := node }) bytes

/-! ### Tensors and descriptors (R249, R250, R256) -/

/-- The tensor that a layout register or a handle names for an engine, with the rights the use needs beside ENGINE: LYSING, or the
faults of R48. -/
def State.engTensor (s : State) (isH : Bool) (reg h : Nat) (rights : List Nat) : Except (Nat × Nat) (Tensor × List Nat) :=
  if isH then match s.handle h (19 :: rights) with
    | .error f => .error f
    | .ok p =>
      if lyWellFormed (entryImg p.bytes) then .ok ((.handle s.wg.ctx (hSlot h), entryImg p.bytes), p.vas) else .error (LYSING, 0)
  else if lyN (s.lreg reg) = 0 then .error (LYSING, 0) else .ok ((.reg s.wg.wu reg, s.lreg reg), [])
/-- Where an engine finds an element at coordinates; nothing for a hole, or at or beyond an extent. -/
def State.engElem (s : State) (t : Tensor) (need : Nat) (cs : List Nat) : Access :=
  if ((lyExts t.2).zip cs).any (fun p => decide (p.1 ≤ p.2)) then .ok []
  else
    let idx := (indexOf (lyExts t.2) cs).getD 0
    match s.element t idx s.dfltWarp need with
    | .ok ps => .ok ps
    | .error e => .error (e.1, e.2, if lySpace t.2 = 2 then memVa t.2 (s.lyWhere t.1 t.2 idx) else 0)

/-- A copy descriptor (R256). -/
structure CopyDesc where
  shnd : Nat
  dhnd : Nat
  sh : Bool
  dh : Bool
  sl : Nat
  dl : Nat
  delta : Nat
  lt : Nat
  rd : Nat
  count : Nat
  vidx : Nat
  lsrc : Bool
  qsel : Nat
  listadr : Nat
  tbladr : Nat
  tbllen : Nat
  sorg : List Nat
  dorg : List Nat
  box : List Nat
deriving DecidableEq, Repr
/-- Eight 32-bit words of a record from byte `b`. -/
def dims8 (bs : List Byte) (b : Nat) : List Nat := (List.range 8).map (fun d => leNat ((bs.drop (b + 4 * d)).take 4))
/-- The fields of a copy descriptor. -/
def copyDesc (bs : List Byte) : CopyDesc :=
  let w := wordAt bs
  { shnd := w 0 % 2 ^ 32, dhnd := w 0 / 2 ^ 32, sh := bitN (w 1) 4, dh := bitN (w 1) 12, sl := w 1 % 16, dl := bitsN (w 1) 8 4
    delta := w 2 / 2 ^ 32, lt := bitsN (w 2) 8 4, rd := w 2 % 8, count := bitsN (w 3) 32 16, vidx := bitsN (w 3) 8 8, lsrc := bitN (w 3) 4
    qsel := w 3 % 4, listadr := w 4 % 2 ^ 32, tbladr := w 5, tbllen := w 6 % 2 ^ 32, sorg := dims8 bs 64, dorg := dims8 bs 96, box := dims8 bs 128 }
/-- The commands that read a copy descriptor. -/
inductive CopyKind where
  | cpy | cpyx | cpyr | gath
deriving DecidableEq, Repr
/-- R256: the descriptor's own fields: zero fields, limits, and fields the command does not use. -/
def copyDescOk (k : CopyKind) (stage : Bool) (bs : List Byte) : Bool :=
  let w := wordAt bs
  let d := copyDesc bs
  let list := k == .cpyx || k == .gath
  bitsN (w 1) 13 51 == 0 && bitsN (w 1) 5 3 == 0 && (if d.dh then d.dl == 0 else d.dhnd == 0) && (if d.sh then d.sl == 0 else d.shnd == 0) &&
  (if k = .cpyr then bitsN (w 2) 12 20 == 0 && bitsN (w 2) 3 5 == 0 else w 2 == 0) &&
  (if list then bitsN (w 3) 48 16 == 0 && bitsN (w 3) 16 16 == 0 && bitsN (w 3) 5 3 == 0 && bitsN (w 3) 2 2 == 0 && decide (1 ≤ d.count) &&
      decide (d.count ≤ (if d.lsrc then 1024 else 32)) && (if d.lsrc then d.vidx == 0 && w 4 / 2 ^ 32 == 0 && d.listadr % 4 == 0 else w 4 == 0)
    else w 3 == 0 && w 4 == 0) &&
  (if k = .cpyx then d.tbladr % 4 == 0 && w 6 / 2 ^ 32 == 0 else w 5 == 0 && w 6 == 0) && (stage || d.qsel == 0) && w 7 == 0 &&
  (if k = .gath then d.sorg.all (· == 0) && (d.dorg.drop 1).all (· == 0) && d.box.all (· == 0) else true)

/-- R256, R258, R259, R262: the comparisons of a descriptor with the layouts it names. -/
def State.copyFits (s : State) (k : CopyKind) (d : CopyDesc) (a b lt : Nat) : Bool :=
  let r := lyRank a
  let list := k == .cpyx || k == .gath
  lyFmt a == lyFmt b && lyScaleFmt a != 1 && lyScaleFmt b != 1 && (!list || d.lsrc || (!s.m.scalar && decide (d.vidx < s.wg.launch.budget * 8))) &&
  (if k = .gath then lySpace a == 2 && lyRank b == 1 && lySpace b != 2 && (d.lsrc || decide (lyN a ≤ 32))
   else lyRank b == r && (d.box.take r).all (fun x => decide (1 ≤ x)) && (d.box.drop r).all (· == 0) && (d.sorg.drop r).all (· == 0) &&
     (d.dorg.drop r).all (· == 0)) &&
  (k != .cpyx || (d.box.getD (r - 1) 0 == 1 && d.sorg.getD (r - 1) 0 == 0)) &&
  (k != .cpyr || (decide (1 ≤ lyFmt a) && decide (lyFmt a ≤ 3) && decide (d.rd < r) && d.box.getD d.rd 0 % 2 == 0 && d.sorg.getD d.rd 0 % 2 == 0 &&
     lyFmt lt == 1 && lyRank lt == 3 && lyExt lt 0 == 2 && 2 * lyExt lt 1 == lyExt a d.rd && decide (d.delta < lyExt lt 2)))

/-! ### Lists and block tables (R259, R262) -/

/-- The value an engine reads at an address of a space now, the virtual addresses used, whether it is poisoned. -/
def State.engBytes (s : State) (sp a n : Nat) : Except (Nat × Nat) (Nat × List Nat × Bool) :=
  match s.parts sp a n 1 with
  | .error f => .error f
  | .ok ps => .ok (s.engRead (sliceOf ps), ps.filterMap (·.2.2), ps.any (fun p => s.locPoison p.2.1))
/-- The list of a descriptor, entries of `n` bytes. -/
def State.copyList (s : State) (d : CopyDesc) (n : Nat) : Except (Nat × Nat) (List Nat × Bool) :=
  if d.lsrc then match s.engBytes 2 d.listadr (n * d.count) with
    | .error f => .error f
    | .ok r => .ok ((List.range d.count).map (fun k => bitsN r.1 (8 * n * k) (8 * n)), r.2.2)
  else .ok ((List.range d.count).map (fun l => (s.rf.rv d.vidx l).toNat), (List.range d.count).any (fun l => s.rf.vmark.contains (32 * d.vidx + l)))
/-- R259: the blocks that a list chooses through the block table: each logical block and its physical block, with the virtual
addresses read. -/
def State.blocks (s : State) (d : CopyDesc) (top : Nat) : List Nat → Except (Nat × Nat) (List (Nat × Nat) × List Nat)
  | [] => .ok ([], [])
  | x :: xs =>
    if d.tbllen ≤ x then .error (PERM, 2)
    else match s.engBytes 1 ((d.tbladr + 4 * x) % 2 ^ 64) 4 with
      | .error f => .error f
      | .ok (p, vas, psn) =>
        if psn then .error (POISON, 0)
        else if top ≤ p then .error (PERM, 2)
        else match s.blocks d top xs with
          | .error f => .error f
          | .ok (r, v) => .ok ((x, p) :: r, vas ++ v)

/-! ### Element moves (R257 to R262) -/

/-- One planned move: what it reads, what it writes, whether a source is a hole, and the list entry it belongs to. -/
structure Planned where
  src : Access
  dst : Access
  entry : Nat := 0
  row : Nat := 0
/-- The points of a box, as offsets. -/
def boxPoints (box : List Nat) : List (List Nat) := boxCoords box
/-- Add offsets to an origin. -/
def addCoords (a b : List Nat) : List Nat := (a.zip b).map (fun p => p.1 + p.2)
/-- The row of a box that a point stands in: the points that differ along the first dimension alone (R347; log 130). -/
def boxRow (box b : List Nat) : Nat := (indexOf (box.drop 1) (b.drop 1)).getD 0
/-- The moves of a plain copy. -/
def State.boxMoves (s : State) (ts td : Tensor) (sorg dorg box : List Nat) (entry : Nat) : List Planned :=
  (boxPoints box).map (fun b =>
    { src := s.engElem ts 1 (addCoords sorg b), dst := s.engElem td 2 (addCoords dorg b), entry, row := entry * (box.drop 1).prod + boxRow box b })
/-- The parts of an access that passed. -/
def okSlice (a : Access) : Slice := match a with | .ok ps => sliceOf ps | .error _ => []
/-- The virtual addresses of an access. -/
def accessVas (a : Access) : List Nat := match a with | .ok ps => ps.filterMap (·.2.2) | .error _ => []
/-- The moves of planned elements: a hole reads as the fill value and is never written. -/
def plainMoves (ts td : Tensor) (room : Nat → Option Nat) (ps : List Planned) : List EMove :=
  ps.filterMap (fun p =>
    let d := okSlice p.dst
    let x := okSlice p.src
    if d = [] then none
    else some { srcs := if x = [] then [] else [x], dsts := [d], xf := if x = [] then .const (fillOf ts.2) else .copy
                selem := [ts.1], delem := some td.1, room := room p.entry, row := p.row })
/-- R258: the moves of a rotating copy, pair by pair. -/
def pairMoves (s : State) (ts td lt : Tensor) (d : CopyDesc) (ty rnd : Nat) : List (List Access × List Access × EMove) :=
  let r := lyRank ts.2
  ((boxPoints (d.box.take r)).filter (fun b => b.getD d.rd 0 % 2 = 0)).map (fun b =>
    let b1 := setAt b d.rd (b.getD d.rd 0 + 1)
    let x0 := s.engElem ts 1 (addCoords d.sorg b)
    let x1 := s.engElem ts 1 (addCoords d.sorg b1)
    let y0 := s.engElem td 2 (addCoords d.dorg b)
    let y1 := s.engElem td 2 (addCoords d.dorg b1)
    let i := (d.sorg.getD d.rd 0 + b.getD d.rd 0) / 2
    let c := s.engElem lt 1 [0, i, d.delta]
    let sn := s.engElem lt 1 [1, i, d.delta]
    let out (x y : Access) : Slice := if okSlice x = [] then [] else okSlice y
    ([x0, x1, c, sn], [y0, y1],
      { srcs := [okSlice x0, okSlice x1, okSlice c, okSlice sn], dsts := [out x0 y0, out x1 y1], xf := .rotate ty rnd
        selem := [ts.1, lt.1], delem := some td.1, row := boxRow d.box b }))
/-- R260: a page of the context is migrate-on-touch. -/
def State.motPage (s : State) (va : Nat) : Bool :=
  match s.walk s.wg.ctx va with | .ok (e, _, _) => bitN e 10 | .error _ => false
/-- R260: the pages of a whole source block: of every element whose last coordinate is `p`. -/
def State.blockPages (s : State) (ts : Tensor) (p : Nat) : List Nat :=
  let es := lyExts ts.2
  pagesOf ((boxPoints (es.take (es.length - 1))).flatMap (fun b => accessVas (s.engElem ts 1 (b ++ [p]))))

/-- What the checks of a copy found: the accesses of its reads and writes, its moves, the number of elements, the events it holds, the
virtual addresses of its tables and handles, and the registers that hold its issue. -/
structure CopyPlan where
  reads : List Access
  writes : List Access
  moves : List EMove
  points : Nat
  events : List (Nat × QEntry) := []
  vas : List Nat := []

/-- A TIERMISS entry (R260). -/
def tierMiss (k x : Nat) : QEntry := { val := BitVec.ofNat 64 (0xF1 * 2 ^ 56 + k % 32 * 2 ^ 32 + x) }
/-- R257 to R262: plan a command once its layouts are known and agree with the descriptor; or the fault it meets. -/
def State.planCopy (s : State) (k : CopyKind) (stage : Bool) (rnd : Nat) (d : CopyDesc) (ts td lt : Tensor) : Except (Nat × Nat) CopyPlan :=
  let r := lyRank ts.2
  match k with
  | .cpy =>
    let ps := s.boxMoves ts td (d.sorg.take r) (d.dorg.take r) (d.box.take r) 0
    .ok { reads := ps.map (·.src), writes := ps.map (·.dst), moves := plainMoves ts td (fun _ => none) ps, points := ps.length }
  | .cpyr =>
    let ps := pairMoves s ts td lt d (lyFmt ts.2) rnd
    .ok { reads := ps.flatMap (·.1), writes := ps.flatMap (·.2.1), moves := (ps.map (·.2.2)).filter (fun m => m.dsts.any (· != []))
          points := 2 * ps.length }
  | .cpyx => (match s.copyList d 4 with
    | .error f => .error f
    | .ok (xs, psn) =>
      if psn then .error (POISON, 0)
      else match s.blocks d (lyExt ts.2 (r - 1)) xs with
        | .error f => .error f
        | .ok (bs, vas) =>
          let low := d.box.take (r - 1)
          let one (j : Nat) (xp : Nat × Nat) : List Planned :=
            s.boxMoves ts td (d.sorg.take (r - 1) ++ [xp.2]) (d.dorg.take (r - 1) ++ [d.dorg.getD (r - 1) 0 + j]) (low ++ [1]) j
          let groups := (List.range bs.length).map (fun j => one j (bs.getD j (0, 0)))
          let pages (j : Nat) : List Nat := s.blockPages ts (bs.getD j (0, 0)).2
          let far (j : Nat) : Bool := stage && (pages j).any s.motPage
          let missing := (List.range bs.length).filter far
          let room (j : Nat) : Option Nat :=
            if far j then some (missing.length - (missing.takeWhile (· != j)).length - 1) else none
          let ps := groups.flatten
          .ok { reads := ps.map (·.src), writes := ps.map (·.dst), moves := plainMoves ts td room ps, points := ps.length
                events := missing.map (fun j => (d.qsel, tierMiss j (bs.getD j (0, 0)).1)), vas := vas ++ missing.flatMap pages })
  | .gath => (match s.copyList d (if lyN ts.2 ≤ 32 then 4 else 8) with
    | .error f => .error f
    | .ok (xs, psn) =>
      if psn then .error (POISON, 0)
      else
        let src (x : Nat) : Access := s.engElem ts 1 (coordsOf (lyExts ts.2) (x % 2 ^ lyN ts.2))
        let ps := (List.range xs.length).map (fun j =>
          ({ src := src (xs.getD j 0), dst := s.engElem td 2 [d.dorg.getD 0 0 + j], row := j } : Planned))
        .ok { reads := ps.map (·.src), writes := ps.map (·.dst), moves := plainMoves ts td (fun _ => none) ps, points := ps.length })

/-- The layouts a descriptor names (R249 step 3), with the virtual addresses of the handles' entries. -/
def State.copyTensors (s : State) (k : CopyKind) (d : CopyDesc) : Except (Nat × Nat) (Tensor × Tensor × Tensor × List Nat) :=
  match s.engTensor d.sh d.sl d.shnd [16] with
  | .error f => .error f
  | .ok (ts, v1) => (match s.engTensor d.dh d.dl d.dhnd [17] with
    | .error f => .error f
    | .ok (td, v2) =>
      if k = .cpyr then (match s.engTensor false d.lt 0 [] with
        | .error f => .error f
        | .ok (lt, _) => .ok (ts, td, lt, v1 ++ v2))
      else .ok (ts, td, ts, v1 ++ v2))
/-- The vector registers of the member in focus that a copy touches are still to be written by something older. -/
def State.copyHeld (s : State) (k : CopyKind) (d : CopyDesc) (p : CopyPlan) : Bool :=
  let rs := sliceRegs s.ref ((p.reads ++ p.writes).map okSlice)
  let ls := if (k = .cpyx ∨ k = .gath) ∧ d.lsrc = false then [d.vidx] else []
  (rs ++ ls).any (fun r => s.busyWrites.contains r) || (sliceRegs s.ref (p.writes.map okSlice)).any (fun r => s.busyReads.contains r)
/-- The engines that serve a copy with a plan (R331); none for a copy node, which takes its place when it is launched. -/
def State.planUnits (s : State) (k : CopyKind) (counted : Bool) (p : CopyPlan) : List Nat :=
  let die := dieOf s.wg.core
  let locs (as : List Access) : List Loc := (as.flatMap okSlice).map (·.2)
  if !counted then [] else if k = .gath then s.gatherUnits die (locs p.reads) else s.copyUnits die (locs (p.reads ++ p.writes))
/-- A copy whose descriptor's own fields have passed: R249 steps 3 to 5, then what the command does with its plan, `bytes` destination
bytes long. It waits while the migration engine of a page it touches is full (R330). -/
def State.withCopy (s : State) (f : FC) (k : CopyKind) (stage counted : Bool) (rnd : Nat) (d : CopyDesc) (go : State → CopyPlan → Nat → State) : State :=
  match s.copyTensors k d with
  | .error f => s.faultAt f 0
  | .ok (ts, td, lt, hv) =>
    if !(s.copyFits k d ts.2 td.2 lt.2) then s.fault ILLOP
    else if ((k = .cpyx ∨ k = .gath) ∧ d.lsrc = false) ∧ s.busyWrites.contains d.vidx = true then s
    else match s.planCopy k stage rnd d ts td lt with
      | .error f => s.faultAt f 0
      | .ok p => (match firstBad (p.reads ++ p.writes) with
        | some e => s.faultAt (e.1, e.2.1) e.2.2
        | none =>
          if s.copyHeld k d p || s.m.acqPending s.uid then s
          else
            let vas := pagesOf (hv ++ p.vas ++ (p.reads ++ p.writes).flatMap accessVas)
            s.last f (s.planUnits k counted p) (fun s =>
              let t := (s.touchAll vas).1
              if vas.any (t.migWaits t.wg.ctx) then t else go (t.fillTlbs vas) p ((p.points * lyS td.2 + 7) / 8)))
/-- A command of the copy or gather engines. -/
def runCopy (s : State) (h : Hdr) (f : FC) (k : CopyKind) (cmod : Bool) (stage : Bool) (rnd : Nat) : Out :=
  let dotK := bitN f.cmod.toNat 0
  let fn := if k = .gath then 2 else 0
  runC s h f (!dotK) false (engOk f (!dotK) false true cmod true .opt) (fun s => s.engFull f) (fun s =>
    let a := if dotK then f.imm.toNat else wrapN 64 (s.engSrc f.srca + f.imm.toInt)
    s.syncRead dotK 0 a 160 32 (fun s bs =>
      if !(copyDescOk k stage bs) then s.fault ILLOP
      else s.withCopy f k stage true rnd (copyDesc bs) (fun s p n =>
        s.engBegin f fn n (fun e => { e with moves := p.moves, events := p.events, value := n, units := s.planUnits k true p, image := bs }))))
/-- `cpy` (R257). -/
def execCpy (h : Hdr) (f : FC) (s : State) : Out := runCopy s h f .cpy (decide (f.cmod.toNat < 2)) false 0
/-- `cpyx` (R259, R260). -/
def execCpyx (h : Hdr) (f : FC) (s : State) : Out := runCopy s h f .cpyx (decide (f.cmod.toNat < 4)) (bitN f.cmod.toNat 1) 0
/-- `cpyr` (R258). -/
def execCpyr (h : Hdr) (f : FC) (s : State) : Out :=
  runCopy s h f .cpyr (bitsN f.cmod.toNat 1 1 == 0 && decide (f.cmod.toNat < 16)) false (bitsN f.cmod.toNat 2 3)
/-- `gath` (R262). -/
def execGath (h : Hdr) (f : FC) (s : State) : Out := runCopy s h f .gath (decide (f.cmod.toNat < 2)) false 0

/-! ### Landing (R252, R253, R261, R297) -/

/-- Mark the destinations of some bytes as poison (R171, R253). -/
def State.markLoc (s : State) (l : Loc) : State :=
  match l.place with
  | .glob =>
    let line := l.bit / 1024
    if s.mem.psn.contains line then s else { s with mem := { s.mem with psn := line :: s.mem.psn, cover := smDel s.mem.cover line } }
  | .sp c =>
    let k := l.bit / 1024
    if s.mem.spPsn.contains (c, k) then s
    else { s with mem := { s.mem with spPsn := (c, k) :: s.mem.spPsn, spCover := smDel s.mem.spCover (c * 2 ^ 24 + k) } }
  | .reg wu mem => s.modMem ⟨wu, mem⟩ (fun m => { m with r := { m.r with vmark := m.r.vmark ++ [l.bit / 32] } })
/-- The same for a value of several parts. -/
def State.markSlice (s : State) (sl : Slice) : State := sl.foldl (fun t p => t.markLoc p.2) s
/-- A page that holds a location is being moved (R251, R268). -/
def State.inMove (s : State) (l : Loc) : Bool :=
  decide (l.place = .glob) && s.mem.moves.any (fun v => decide (v.oldFrame / pageBytes v.large = l.bit / 8 / pageBytes v.large))
/-- Every location of a move. -/
def EMove.locs (mv : EMove) : List Loc := (mv.srcs ++ mv.dsts).flatten.map (·.2)
/-- Every location of what a command still has to do, its relayout's among them. -/
def EngOp.locs (e : EngOp) : List Loc := e.moves.flatMap (·.locs) ++ (match e.rly with | none => [] | some y => y.locs.flatMap (fun sl => sl.map (·.2)))
/-- A relayout still to commit the exchange group of a destination holds the write (R52). -/
def State.moveHeld (s : State) (mv : EMove) : Bool :=
  match mv.delem with | none => false | some x => mv.dsts.any (s.rlyHolds x)
/-- Source i of a move: what it gave when it was read (R297), or what it holds now. -/
def State.srcVal (s : State) (mv : EMove) (i : Nat) : Nat := (smFind mv.got i).getD (s.engRead (mv.srcs.getD i []))
/-- A source that a move has still to read is poisoned. -/
def State.movePoison (s : State) (mv : EMove) : Bool :=
  (List.range mv.srcs.length).any (fun i => (smFind mv.got i).isNone && s.slicePoison (mv.srcs.getD i []))
/-- The values that a move writes, from its sources (R257, R258). -/
def State.moveVals (s : State) (mv : EMove) : List Nat :=
  let xs := (List.range mv.srcs.length).map (s.srcVal mv)
  match mv.xf with
  | .copy => xs
  | .swap => xs
  | .const v => [v]
  | .rotate ty rnd =>
    let x0 := fDec ty (xs.getD 0 0)
    let x1 := fDec ty (xs.getD 1 0)
    let c := fDec 1 (xs.getD 2 0)
    let sn := fDec 1 (xs.getD 3 0)
    [(encO ty rnd false 0 (rotateV rnd x0 c x1 sn true)).1, (encO ty rnd false 0 (rotateV rnd x0 sn x1 c false)).1]
/-- The bits a move lands. -/
def EMove.bits (mv : EMove) : Nat := (mv.dsts.map (fun sl => (sl.map (fun p => p.2.bits)).sum)).sum
/-- Bits of a command have landed (R252). -/
def State.landBits (s : State) (e : EngOp) (n : Nat) : State :=
  let left := e.expect - n
  let s1 := s.landBytes e.node ((e.expect + 7) / 8 - (left + 7) / 8)
  { s1 with eng := { s1.eng with ops := replaceFirst (fun x => x.id = e.id) (fun x => { x with expect := left }) s1.eng.ops } }
/-- Change a command in flight. -/
def State.modEng (s : State) (id : Nat) (f : EngOp → EngOp) : State :=
  { s with eng := { s.eng with ops := replaceFirst (fun e => e.id = id) f s.eng.ops } }
/-- The quad whose view an engine write also enters: the issuer's (R297). -/
def State.ownerQuad (s : State) (r : MRef) : Option Nat := (s.findWu r.wu).map (fun w => quadOf w.core)
/-- A place of a workgroup that is saved away: nothing is written there (R347). Its scratchpad then stands apart, under a number above
every core's. -/
def State.savedPlace (s : State) (l : Loc) : Bool :=
  match l.place with
  | .glob => false
  | .sp c => decide (2 ^ 20 ≤ c)
  | .reg wu _ => s.eng.saves.any (fun w => w.wu = wu)
/-- R368, R382: a write to a line that another package holds or is the home of is a transaction of the line's switch, whose turn has come. -/
def State.reachable (s : State) (l : Loc) : Bool :=
  decide (l.place ≠ .glob) || (s.homed (l.bit / 8) && !(s.remoteHeld (l.bit / 8))) || s.lineReady (l.bit / 1024)
/-- A move may be performed: its event has been appended, no page of it moves, no relayout holds it, it writes nothing that is saved
away; an indivisible one (R261) waits for commands that have begun on its bytes. -/
def State.mayLand (s : State) (e : EngOp) (mv : EMove) : Bool :=
  !(mv.dsts.any (fun sl => sl.any (fun p => s.savedPlace p.2 || !(s.reachable p.2)))) &&
  (match mv.room with | none => true | some k => decide (e.events.length ≤ k)) && !(mv.locs.any s.inMove) && !(s.moveHeld mv) &&
  (decide (mv.xf ≠ .swap) || s.eng.ops.all (fun x => x.id = e.id || !x.begun ||
    !(x.locs.any (fun l => mv.locs.any (fun k => k.touches l)))))
/-- Read source j of move k of a command now, before its write lands (R297): one with no poison, of a page that does not move, not part
of a swap. A move whose sources have all been read is left with the values to write. -/
def State.readSource (s : State) (id k j : Nat) : State :=
  match s.eng.ops.find? (fun e => e.id = id) with
  | none => s
  | some e => (match e.moves[k]? with
    | none => s
    | some mv =>
      let src := mv.srcs.getD j []
      if src = [] ∨ (smFind mv.got j).isSome = true ∨ mv.xf = .swap ∨ src.any (fun p => s.inMove p.2) = true ∨ s.slicePoison src = true then s
      else
        let mv1 := { mv with got := smIns mv.got j (s.engRead src) }
        let whole := (List.range mv.srcs.length).all (fun i => (smFind mv1.got i).isSome)
        let out (i : Nat) : EMove := { mv with
          srcs := [], selem := [], got := [], dsts := [mv.dsts.getD i []], xf := .const ((s.moveVals mv1).getD i 0) }
        let now := if whole then ((List.range mv.dsts.length).map out).filter (fun m => m.dsts != [[]]) else [mv1]
        s.modEng id (fun x => { x with moves := x.moves.take k ++ now ++ x.moves.drop (k + 1), begun := true }))
/-- A move that writes registers or a scratchpad (R347). -/
def EMove.isLocal (mv : EMove) : Bool := mv.dsts.any (fun sl => sl.any (fun p => decide (p.2.place ≠ .glob)))
/-- The rows landed in part after move k, of a row, has landed (R347). -/
def EngOp.rowsAfter (e : EngOp) (k row : Nat) : List Nat :=
  let rest := e.halfRows.filter (· != row)
  if (e.moves.eraseIdx k).any (fun m => m.row = row) then row :: rest else rest
/-- Perform move k of a command: its reads, its writes, the poison it carries, its bytes. -/
def State.landMove (s : State) (e : EngOp) (k : Nat) : State :=
  match e.moves[k]? with
  | none => s
  | some mv =>
    if !(s.mayLand e mv) then s
    else
      let psn := s.movePoison mv
      let bad (i : Nat) : Bool := if mv.xf = .swap then s.slicePoison (mv.srcs.getD i []) else psn
      let drop := mv.dsts.any (fun sl => sl.any (fun p => decide (p.2.place = .glob) && s.fencedByte (p.2.bit / 8)))
      let s1 := (mv.dsts.zip (s.moveVals mv)).foldl (fun t dv => t.putSlice (s.ownerQuad e.owner) dv.1 dv.2) s
      let s2 := (List.range mv.dsts.length).foldl (fun t i => if bad i then t.markSlice (mv.dsts.getD i []) else t) s1
      let s3 := s2.modEng e.id (fun x => { x with
        moves := x.moves.eraseIdx k, begun := true, halfRows := x.rowsAfter k mv.row, report := if psn || drop then some POISON else x.report })
      match s3.eng.ops.find? (fun x => x.id = e.id) with
      | none => s3
      | some x => s3.landBits x mv.bits

end Sys2Proof.Machine
end

