-- ==== Sys2Proof/Machine/Relayout.lean ====
section
/-!
DEFINITION. Relayout.lean: relayout commands and the commits of exchange groups, opcode 0xC9 (R49 to R55, R208, R263 to R265). Each
location of the footprint is resolved when the run of passes starts; a commit moves the contents of one group, and with them every
element-indexed access still to be performed.
-/
namespace Sys2Proof.Machine

/-! ### Where the image stands -/

/-- The image of an idle layout: PSTATE, NEXTPASS and TARGET zero. -/
def lyIdle (img : Nat) : Nat := putBits (putBits (putBits img 38 2 0) 40 4 0) 612 4 0
/-- The image of a pending relayout. -/
def lyPend (img ps next target : Nat) : Nat := putBits (putBits (putBits img 38 2 ps) 40 4 next) 612 4 target
/-- R53: the image after the last commit: the target's matrix, FILL and seed. -/
def lyFinal (img timg : Nat) : Nat :=
  putBits (putBits (lySetMat (lyIdle img) (lyMat timg)) 21 3 (lyFill timg)) 192 64 (lySeed timg)
/-- What TARGET records: the target's register; a handle has no place in it. -/
def LyRef.target (x : LyRef) : Nat := match x with | .reg _ l => l | .handle _ _ => 0
/-- Record an image in the layout register or handle entry it belongs to. -/
def State.setImage (s : State) (x : LyRef) (entry img : Nat) (quad : Option Nat) : State :=
  match x with
  | .reg wu l => s.modWu wu (fun w => { w with lregs := smPut 0 w.lregs l (BitVec.ofNat 2048 img) })
  | .handle _ _ => s.putHome quad ⟨.glob, 8 * entry, 2048⟩ img
/-- Record the state of a relayout in its image. -/
def State.noteRly (s : State) (y : RlySt) (ps next : Nat) (quad : Option Nat) : State :=
  s.setImage y.x y.entry (lyPend y.img ps next y.target.target) quad
/-- A layout is busy (R208). -/
def State.busyRef (s : State) (x : LyRef) (img : Nat) : Bool :=
  lyPstate img != 0 || s.pendingRly.any (fun y => decide (y.x = x) || decide (y.target = x))

/-! ### Starting a run of passes -/

/-- The storage of every location of a layout, for reading and writing (R251). -/
def State.footprint (s : State) (t : Tensor) : List Access :=
  (List.range (2 ^ lyN t.2)).map (fun y => match s.storage t.2 y 0 3 with
    | .ok ps => .ok ps
    | .error e => .error (e.1, e.2, if lySpace t.2 = 2 then memVa t.2 y else 0))
/-- The exchange groups of a pass, by number. -/
def groupNos (img : Nat) (plan : List (Nat × List Nat)) (pass : Nat) : List Nat :=
  match plan[pass - 1]? with
  | none => []
  | some p => List.range (2 ^ (lyN img - lyWidth img p.1))
/-- The write of a handle's entry, which holds the image that a relayout updates (R251). -/
def State.entryWrite (s : State) (x : LyRef) : List Access :=
  match x with
  | .reg _ _ => []
  | .handle _ slot => [match s.parts 1 (s.entryVa slot) 256 2 with
    | .ok ps => .ok ps
    | .error e => .error (e.1, e.2, s.entryVa slot)]
/-- The sequencer that runs a relayout with a footprint (R331). -/
def State.rlyUnitsOf (s : State) (fp : List Access) : List Nat :=
  s.rlyUnits (dieOf s.wg.core) ((okSlices fp).flatten.head?.map (·.2))
/-- Start, or start again, a run of passes: the probe, LYBUSY for a footprint under another relayout, then the counted command. -/
def State.startRly (s : State) (f : FC) (y : RlySt) (vas : List Nat) (busy : Bool) (drop : State → State) : State :=
  let fp := s.footprint (y.x, y.img)
  match firstBad (fp ++ s.entryWrite y.x) with
  | some e => s.faultAt (e.1, e.2.1) e.2.2
  | none =>
    let parts := (okParts fp).flatten
    let own := sliceRegs s.ref (okSlices fp)
    if busy || parts.any (fun p => s.lyHit none p.2.1 p.2.2) then s.fault LYBUSY
    else if own.any (fun r => s.busyWrites.contains r || s.busyReads.contains r) then s
    else
      let va := pagesOf (vas ++ parts.filterMap (·.2.2))
      let us := s.rlyUnitsOf fp
      s.last f us (fun s => s.reach va (fun s =>
        let y1 := { y with locs := okSlices fp, left := groupNos y.img y.plan y.pass }
        let s1 := (drop s).noteRly y1 1 y1.pass (some (quadOf s.wg.core))
        s1.engBegin f 1 1 (fun e => { e with rly := some y1, value := y1.plan.length, units := us })))
/-- A counted command with nothing left to do but to complete. -/
def State.rlyAtOnce (s : State) (f : FC) (reply : Nat) : State := s.last f [] (·.engBegin f 1 1 (fun e => { e with value := reply }))

/-! ### `rly` (R263) -/

/-- The physical address of a handle's entry, for the image updates of a relayout; 0 for a register. -/
def State.entryPa (s : State) (isH : Bool) (h : Nat) : Nat :=
  if isH then match s.xlate (s.entryVa (hSlot h)) 1 with | .ok pa => pa | .error _ => 0 else 0
/-- Fields of `rly`: source and target registers, and which are handles. -/
def rlyX (f : FC) : Nat := bitsN f.imm.toNat 0 4
/-- The target register. -/
def rlyY (f : FC) : Nat := bitsN f.imm.toNat 8 4
/-- R255: the fields of `rly`. -/
def rlyFields (f : FC) : Bool :=
  let imm := f.imm.toNat
  let go := bitN f.cmod.toNat 4
  bitsN imm 13 19 == 0 && bitsN imm 5 3 == 0 && (!(bitN imm 4) || rlyX f == 0) && (!(bitN imm 12) || rlyY f == 0) &&
  bitsN f.cmod.toNat 6 2 == 0 && bitsN f.cmod.toNat 0 4 != 15 && (!go || bitsN imm 8 5 == 0)
/-- The plain form: from X to Y. -/
def State.rlyPlain (s : State) (f : FC) (tx : Tensor) (vx : List Nat) : State :=
  let hy := bitN f.imm.toNat 12
  match s.engTensor hy (rlyY f) (s.engSrc f.srcb % 2 ^ 32) [] with
  | .error e => s.faultAt e 0
  | .ok (ty, vy) =>
    let a := lyIdle tx.2
    if !(sameButMatrix tx.2 ty.2) then s.fault LYSING
    else if 4 < (touchedLevels a (changeOf (lyN a) (lyMat a) (lyMat ty.2))).length then s.fault LYDEEP
    else
      let plan := planOf a (lyMat ty.2)
      let k := bitsN f.cmod.toNat 0 4
      let y : RlySt :=
        { x := tx.1, target := ty.1, img := a, timg := ty.2, plan, pass := 1, stopAfter := if k < plan.length then k else 0, locs := []
          left := [], entry := s.entryPa (bitN f.imm.toNat 4) (s.engSrc f.srca % 2 ^ 32), nohole := bitN f.cmod.toNat 5 }
      let busy := s.busyRef tx.1 tx.2 || s.busyRef ty.1 ty.2
      if plan.isEmpty then
        let fp := s.footprint (tx.1, a)
        match firstBad (fp ++ s.entryWrite tx.1) with
        | some e => s.faultAt (e.1, e.2.1) e.2.2
        | none =>
          if busy then s.fault LYBUSY
          else s.last f [] (fun s => (s.setImage tx.1 y.entry (lyFinal a ty.2) (some (quadOf s.wg.core))).rlyAtOnce f 0)
      else s.startRly f y (vx ++ vy) busy id
/-- The paused relayout of a layout: as it was paused, or from what its image records (R53). -/
def State.pausedRly (s : State) (tx : Tensor) (entry : Nat) : RlySt :=
  match s.eng.paused.find? (fun y => y.x = tx.1) with
  | some y => { y with entry := entry }
  | none =>
    let a := lyIdle tx.2
    let timg := s.lreg (lyTarget tx.2)
    { x := tx.1, target := .reg s.wg.wu (lyTarget tx.2), img := a, timg, plan := planOf a (lyMat timg), pass := lyNextPass tx.2
      stopAfter := 0, locs := [], left := [], entry }
/-- The `.go` form. DESIGN CHOICE (log 122): a `.nohole` of the command that it goes on with still holds. -/
def State.rlyGo (s : State) (f : FC) (tx : Tensor) (vx : List Nat) : State :=
  let flying := s.eng.ops.any (fun e => match e.rly with | some y => decide (y.x = tx.1) | none => false)
  if flying || lyPstate tx.2 == 1 || lyPstate tx.2 == 3 then
    match firstBad (s.footprint (tx.1, lyIdle tx.2) ++ s.entryWrite tx.1) with
    | some e => s.faultAt (e.1, e.2.1) e.2.2
    | none => s.fault LYBUSY
  else if lyPstate tx.2 = 0 then s.rlyAtOnce f 0
  else
    let y := s.pausedRly tx (s.entryPa (bitN f.imm.toNat 4) (s.engSrc f.srca % 2 ^ 32))
    let k := bitsN f.cmod.toNat 0 4
    if k ≠ 0 ∧ k < y.pass then s.rlyAtOnce f y.plan.length
    else
      let y1 := { y with stopAfter := if k < y.plan.length then k else 0, nohole := y.nohole || bitN f.cmod.toNat 5 }
      s.startRly f y1 vx false (fun t =>
        let paused := t.eng.paused.filter (fun z => z.x ≠ tx.1)
        { t with eng := { t.eng with paused := paused } })
/-- `rly` (R263). -/
def execRly (h : Hdr) (f : FC) (s : State) : Out :=
  let hx := bitN f.imm.toNat 4
  let go := bitN f.cmod.toNat 4
  let hy := bitN f.imm.toNat 12 && !go
  runC s h f hx hy (engOk f hx hy (rlyFields f) true false .opt) (fun s => s.engFull f) (fun s =>
    match s.engTensor hx (rlyX f) (s.engSrc f.srca % 2 ^ 32) [18] with
    | .error e => s.faultAt e 0
    | .ok (tx, vx) => if go then s.rlyGo f tx vx else s.rlyPlain f tx vx)

/-! ### `rlyw` (R264) -/

/-- The relayout of a layout that is not over: where it stands, and whether it is paused. -/
def State.rlyState (s : State) (t : Tensor) : Option (Nat × Bool) :=
  match s.eng.ops.findSome? (fun e => match e.rly with | some y => if y.x = t.1 then some y else none | none => none) with
  | some y => some (y.pass - 1, false)
  | none => (match s.eng.paused.find? (fun y => y.x = t.1) with
    | some y => some (y.pass - 1, true)
    | none => if lyPstate t.2 = 0 then none else some (lyNextPass t.2 - 1, true))
/-- Bring what stands at home of a layout's storage into the quad's view (R264, R254). -/
def State.showLayout (s : State) (t : Tensor) : State :=
  (okParts (s.footprint t)).flatten.foldl (fun st p => match p.2.1.place with
    | .glob => let a := p.2.1.bit / 8; let n := (p.2.1.bits + 7) / 8; st.fillBytes (quadOf st.wg.core) a (memGets st.mem.pm a n)
    | _ => st) s
/-- `rlyw` (R264): it stalls until pass k has committed, or the relayout is paused or over. -/
def execRlyw (h : Hdr) (f : FC) (s : State) : Out :=
  let imm := f.imm.toNat
  let hx := bitN imm 4
  let k := bitsN imm 8 4
  runC s h f hx false (engOk f hx false (bitsN imm 12 20 == 0 && bitsN imm 5 3 == 0 && (!hx || bitsN imm 0 4 == 0) && k != 0) (f.cmod == 0) false .must)
    (fun _ => false) (fun s =>
    match s.engTensor hx (bitsN imm 0 4) (s.engSrc f.srca % 2 ^ 32) [] with
    | .error e => s.faultAt e 0
    | .ok (t, _) => (match s.rlyState t with
      | none => s.last f [] (fun s => (s.showLayout t).replyNow f 16)
      | some (d, paused) => if paused || decide (k ≤ d) then s.last f [] (fun s => (s.showLayout t).replyNow f d) else s))

/-! ### `rlyp` (R265) -/

/-- The plan record. -/
def planRecord (n : Nat) (plan : List (Nat × List Nat)) : List Byte :=
  let row (m : List Nat) (j : Nat) : Nat :=
    if j < n then (List.range n).foldl (fun x i => if bitN (m.getD i 0) j then x + 2 ^ i else x) 0 else 0
  leBytes 8 plan.length ++ leBytes 8 ((List.range plan.length).foldl (fun x p => x + (plan.getD p (0, [])).1 * 16 ^ p) 0) ++
    List.replicate 48 0 ++ plan.flatMap (fun p => (List.range 36).flatMap (fun j => leBytes 8 (row p.2 j)))
/-- Moves that write given bytes at resolved parts. -/
def constMoves (ps : List Part) (bs : List Byte) : List EMove :=
  ps.map (fun p => { srcs := [], dsts := [[(0, p.2.1)]], xf := .const (leNat ((bs.drop p.1).take (p.2.1.bits / 8))) })
/-- Write a plan's record as a counted command. -/
def State.writePlan (s : State) (f : FC) (n : Nat) (plan : List (Nat × List Nat)) : State :=
  let a := s.engSrc f.srca
  let bs := planRecord n plan
  if a % 32 ≠ 0 then s.faultAt (ALIGN, 0) a
  else match s.parts 0 a bs.length 2 with
    | .error e => s.faultAt e a
    | .ok ps =>
      if ps.any (fun p => s.lyHit none p.2.1 p.2.2) then s.faultAt (LYBUSY, 0) a
      else
        let us := s.rlyUnits (dieOf s.wg.core) none
        s.last f us (fun s => s.reach (pagesOf (ps.filterMap (·.2.2))) (fun s =>
          s.engBegin f 1 1 (fun e => { e with moves := constMoves ps bs, value := plan.length, units := us })))
/-- `rlyp` (R265). -/
def execRlyp (h : Hdr) (f : FC) (s : State) : Out :=
  let imm := f.imm.toNat
  let pend := bitN imm 16
  runC s h f true false (engOk f true false (bitsN imm 17 15 == 0 && bitsN imm 12 4 == 0 && bitsN imm 4 4 == 0 && (!pend || rlyY f == 0)) (f.cmod == 0) false .opt)
    (fun s => s.engFull f) (fun s =>
    let img := s.lreg (rlyX f)
    let a := lyIdle img
    if lyN img = 0 then s.fault LYSING
    else if pend && lyPstate img == 0 then s.writePlan f (lyN img) []
    else
      let x : LyRef := .reg s.wg.wu (rlyX f)
      let timg := if pend then ((s.pendingRly.find? (fun y => y.x = x)).map (·.timg)).getD (s.lreg (lyTarget img)) else s.lreg (rlyY f)
      if lyN timg = 0 || !(sameButMatrix a timg) then s.fault LYSING
      else if 4 < (touchedLevels a (changeOf (lyN a) (lyMat a) (lyMat timg))).length then s.fault LYDEEP
      else s.writePlan f (lyN a) (planOf a (lyMat timg)))

/-! ### Commits (R50, R52, R53, R55) -/

/-- Bits of a value from bit `o`, `n` of them, as the parts of a slice that hold them: each with its bit offset from `o`. -/
def subSlice (sl : Slice) (o n : Nat) : List (Nat × Loc) :=
  sl.filterMap (fun p =>
    let lo := max (8 * p.1) o
    let hi := min (8 * p.1 + p.2.bits) (o + n)
    if lo < hi then some (lo - o, { p.2 with bit := p.2.bit + (lo - 8 * p.1), bits := hi - lo }) else none)
/-- The bit of a value that a location is, when the location lies in the value's slice. -/
def offIn (sl : Slice) (l : Loc) : Option Nat :=
  (sl.find? (fun p => decide (p.2.place = l.place) && decide (p.2.bit ≤ l.bit) && decide (l.bit + l.bits ≤ p.2.bit + p.2.bits))).map (fun p =>
    8 * p.1 + (l.bit - p.2.bit))
/-- Where the content of a location stands after the group's commit: the pieces of its new place. -/
def RlySt.moveLoc (y : RlySt) (grp : List Nat) (l : Loc) : List (Nat × Loc) :=
  match grp.findSome? (fun w => (offIn (y.locs.getD w []) l).map (fun o => (w, o))) with
  | none => [(0, l)]
  | some (w, o) => subSlice (y.locs.getD (gfVec y.passMat w) []) o l.bits
/-- The same for the parts of a value. -/
def RlySt.moveSlice (y : RlySt) (grp : List Nat) (sl : Slice) : Slice :=
  sl.flatMap (fun p => (y.moveLoc grp p.2).map (fun r => (p.1 + r.1 / 8, r.2)))
/-- A member's element-indexed reads still to be performed follow their elements. -/
def RlySt.moveOut (y : RlySt) (grp : List Nat) (o : OutOp) : OutOp :=
  match o.kind with
  | .load ps d fill =>
    { o with kind := .load (ps.flatMap (fun p =>
        if p.elem = some y.x ∧ p.val = none then (y.moveLoc grp p.loc).map (fun r => { p with off := p.off + r.1, loc := r.2 }) else [p])) d fill }
  | _ => o
/-- So do an engine's. -/
def RlySt.moveMove (y : RlySt) (grp : List Nat) (mv : EMove) : EMove :=
  { mv with
    srcs := if mv.selem.contains y.x then mv.srcs.map (y.moveSlice grp) else mv.srcs
    dsts := if mv.delem = some y.x then mv.dsts.map (y.moveSlice grp) else mv.dsts }
/-- So do a matrix instruction's. -/
def RlySt.moveMx (y : RlySt) (wu : Nat) (grp : List Nat) (q : MxOp) : MxOp :=
  let f := fxOf q.instr
  let at' (l : Nat) (sl : List Slice) : List Slice := if y.x = .reg wu l then sl.map (y.moveSlice grp) else sl
  { q with src1 := at' f.la.toNat q.src1, src2 := at' f.lb.toNat q.src2, dst := at' f.ld.toNat q.dst }
/-- So do those of a workgroup. -/
def RlySt.moveWg (y : RlySt) (grp : List Nat) (w : Workgroup) : Workgroup :=
  let members := w.members.map (fun m => { m with outs := m.outs.map (y.moveOut grp) })
  let queue := w.mx.queue.map (y.moveMx w.wu grp)
  { w with members := members, mx := { w.mx with queue := queue } }
/-- Every element-indexed access still to be performed follows its element (R52). -/
def State.moveElems (s : State) (y : RlySt) (grp : List Nat) : State :=
  let outs := s.m.outs.map (y.moveOut grp)
  let ops := s.eng.ops.map (fun e => { e with moves := e.moves.map (y.moveMove grp) })
  let nodes := s.eng.nodes.map (fun n => { n with engMoves := n.engMoves.map (y.moveMove grp) })
  { s with m := { s.m with outs := outs }, wg := y.moveWg grp s.wg, wgs := s.wgs.map (y.moveWg grp), eng := { s.eng with ops := ops, nodes := nodes } }

/-- The locations of a group of the pass being run. -/
def RlySt.group (y : RlySt) (g : Nat) : List Nat :=
  match y.plan[y.pass - 1]? with | none => [] | some p => (exchangeGroups y.img p.1).getD g []
/-- A location holds a hole under a matrix. -/
def holeAt (img : Nat) (m : List Nat) (loc : Nat) : Bool :=
  match gfInv (lyN img) m with | none => false | some inv => isHole img (gfVec inv loc)
/-- A group may commit: no page of it moves, and no write to it is still on its way. -/
def State.mayCommit (s : State) (y : RlySt) (grp : List Nat) : Bool :=
  let ls := (grp.flatMap (fun k => y.locs.getD k [])).map (·.2)
  !(ls.any s.inMove) && !(s.mem.writes.any (fun w => ls.any (fun l => l.meets w)))
/-- Move the contents of a group (R50), holes as R55 lets them be under `.nohole`. -/
def State.moveGroup (s : State) (y : RlySt) (grp : List Nat) (quad : Option Nat) : State :=
  let vals := grp.map (fun k => (gfVec y.passMat k, s.engRead (y.locs.getD k []), s.slicePoison (y.locs.getD k [])))
  let after := afterPasses y.img y.plan y.pass
  vals.foldl (fun t v =>
    let dst := y.locs.getD v.1 []
    let hole := y.nohole && holeAt y.img after v.1
    let x := if hole then (if Config.choice (t.uid + 2 * v.1) then v.2.1 else if Config.choice (t.uid + 2 * v.1 + 1) then s.engRead dst else fillOf y.img)
      else v.2.1
    let t1 := t.putSlice quad dst x
    if v.2.2 then t1.markSlice dst else t1) s
/-- R55: after the last commit every location that holds a hole under the new matrix holds the fill value. -/
def State.fillHoles (s : State) (y : RlySt) (quad : Option Nat) : State :=
  if y.nohole then
    (List.range (2 ^ lyN y.img)).foldl (fun t k =>
      if holeAt y.img (lyMat y.timg) k then t.putSlice quad (y.locs.getD k []) (fillOf y.timg) else t) s
  else s
/-- The last group of a pass has committed: the relayout is over, paused, or goes on with the next pass (R53). -/
def State.passOver (s : State) (e : EngOp) (y : RlySt) (quad : Option Nat) : State :=
  if y.plan.length ≤ y.pass then
    ((s.fillHoles y quad).setImage y.x y.entry (lyFinal y.img y.timg) quad).modEng e.id (fun x => { x with rly := none })
  else
    let y1 := { y with pass := y.pass + 1, left := groupNos y.img y.plan (y.pass + 1) }
    if y.stopAfter = y.pass then
      let s1 := (s.noteRly y1 2 y1.pass quad).modEng e.id (fun x => { x with rly := none })
      { s1 with eng := { s1.eng with paused := s1.eng.paused ++ [y1] } }
    else (s.noteRly y1 1 y1.pass quad).modEng e.id (fun x => { x with rly := some y1 })
/-- Commit one exchange group of a command's relayout. -/
def State.commitGroup (s : State) (id g : Nat) : State :=
  match s.eng.ops.find? (fun e => e.id = id) with
  | none => s
  | some e => (match e.rly with
    | none => s
    | some y =>
      let grp := y.group g
      if y.suspended || !(y.left.contains g) || !(s.mayCommit y grp) then s
      else
        let quad := s.ownerQuad e.owner
        let psn := grp.any (fun k => s.slicePoison (y.locs.getD k []))
        let y1 := { y with left := y.left.filter (· != g) }
        let s1 := ((s.moveGroup y grp quad).tick.moveElems y grp).modEng id (fun x => { x with
          rly := some y1, begun := true, report := if psn then some POISON else x.report })
        if y1.left = [] then s1.passOver { e with report := none } y1 quad else s1)
/-- `RELAYOUT_GROUP_COMMIT` (R52). -/
def execRelayoutGroupCommit (op group : Nat) (s : State) : Out := .next (s.commitGroup op group)

end Sys2Proof.Machine
end

