-- ==== Sys2Proof/Machine/Pages.lean ====
section
/-!
DEFINITION. Pages.lean: page pools, block-table swaps, page migration, the task graph and handles, opcodes 0xCB to 0xCE, and how a
command in flight goes on and completes (R252, R253, R261, R266 to R276, R297).
-/
namespace Sys2Proof.Machine

/-! ### Page pools (R266, R267) -/

/-- The address of a record. -/
def State.engAddr (s : State) (f : FC) : Nat := wrapN 64 (s.engSrc f.srca + f.imm.toInt)
/-- Resolve the block-table entries of one sequence, as one slice per entry. -/
def State.tableParts (s : State) (a n : Nat) : List Access :=
  (List.range n).map (fun k => match s.parts 0 ((a + 4 * k) % 2 ^ 64) 4 2 with
    | .ok ps => .ok ps
    | .error e => .error (e.1, e.2, (a + 4 * k) % 2 ^ 64))
/-- The writes among some accesses that R52 forbids. -/
def State.writesBusy (s : State) (as : List Access) : Bool := (okParts as).any (fun ps => ps.any (fun p => s.lyHit none p.2.1 p.2.2))
/-- `pgal` (R266). -/
def execPgal (h : Hdr) (f : FC) (s : State) : Out :=
  runC s h f true false (engOk f true false true (f.cmod == 0) false .opt) (fun s => s.engFull f) (fun s =>
    s.syncRead false 0 (s.engAddr f) 8 8 (fun s hd =>
      let w := leNat hd
      let n := w % 64
      if w / 2 ^ 12 ≠ 0 ∨ bitsN w 6 2 ≠ 0 ∨ n = 0 ∨ 32 < n then s.fault ILLOP
      else s.syncRead false 0 (s.engAddr f) (8 + 16 * n) 1 (fun s bs =>
        let seqs := (List.range n).map (fun k => (wordAt bs (1 + 2 * k), wordAt bs (2 + 2 * k)))
        if seqs.any (fun q => decide (4096 < q.1) || q.2 % 4 != 0) then s.fault ILLOP
        else if (smFind s.ctx.pools (bitsN w 8 4)).isNone then s.faultAt (PERM, 2) 0
        else
          let as := seqs.map (fun q => s.tableParts q.2 q.1)
          match firstBad as.flatten with
          | some e => s.faultAt (e.1, e.2.1) e.2.2
          | none =>
            if s.writesBusy as.flatten then s.fault LYBUSY
            else
              let us := s.copyUnits (dieOf s.wg.core) ((okSlices as.flatten).flatten.map (·.2))
              s.last f us (fun s => s.reach (pagesOf (as.flatten.flatMap accessVas)) (fun s =>
                let work := EngWork.alloc (bitsN w 8 4) ((List.range n).map (fun k => ((seqs.getD k (0, 0)).1, okSlices (as.getD k [])))) 0
                s.engBegin f 0 1 (fun e => { e with work := work, units := us }))))))
/-- `pgfr` (R267). -/
def execPgfr (h : Hdr) (f : FC) (s : State) : Out :=
  runC s h f true false (engOk f true false true (f.cmod == 0) false .opt) (fun s => s.engFull f) (fun s =>
    s.syncRead false 0 (s.engAddr f) 8 8 (fun s hd =>
      let w := leNat hd
      let n := bitsN w 32 16
      if w % 256 ≠ 0 ∨ bitsN w 12 20 ≠ 0 ∨ bitsN w 48 16 ≠ 0 ∨ n = 0 ∨ 4096 < n then s.fault ILLOP
      else s.syncRead false 0 (s.engAddr f) (8 + 4 * n) 1 (fun s bs =>
        if (smFind s.ctx.pools (bitsN w 8 4)).isNone then s.faultAt (PERM, 2) 0
        else
          let pages := (List.range n).map (fun k => leNat ((bs.drop (8 + 4 * k)).take 4))
          let us := s.copyUnits (dieOf s.wg.core) []
          s.last f us (·.engBegin f 0 1 (fun e => { e with work := .free (bitsN w 8 4) pages, units := us })))))
/-- The table of a `pgsw`: entries by slice, in the issuer's package memory; else the fault. -/
def State.swapTable (s : State) (a n : Nat) : List Access :=
  (List.range n).map (fun k => match s.parts 1 ((a + 4 * k) % 2 ^ 64) 4 3 with
    | .error e => .error (e.1, e.2, (a + 4 * k) % 2 ^ 64)
    | .ok ps =>
      if ps.all (fun p => s.homed (p.2.1.bit / 8) && !(inHostWindow (offOf (p.2.1.bit / 8)))) then .ok ps
      else .error (PERM, 2, (a + 4 * k) % 2 ^ 64))
/-- `pgsw` (R261). -/
def execPgsw (h : Hdr) (f : FC) (s : State) : Out :=
  let n := f.imm.toNat
  runC s h f true true (engOk f true true (decide (1 ≤ n) && decide (n ≤ 256)) (f.cmod == 0) false .none) (fun s => s.engFull f) (fun s =>
    let a := s.engSrc f.srca
    let b := s.engSrc f.srcb
    if a % 4 ≠ 0 then s.faultAt (ALIGN, 0) a
    else if b % 4 ≠ 0 then s.faultAt (ALIGN, 0) b
    else
      let ta := s.swapTable a n
      let tb := s.swapTable b n
      match firstBad (ta ++ tb) with
      | some e => s.faultAt (e.1, e.2.1) e.2.2
      | none =>
        if s.writesBusy (ta ++ tb) then s.fault LYBUSY
        else
          let us := s.copyUnits (dieOf s.wg.core) ((okSlices (ta ++ tb)).flatten.map (·.2))
          s.last f us (fun s => s.reach (pagesOf ((ta ++ tb).flatMap accessVas)) (fun s =>
            let mv : EMove := { srcs := okSlices (ta ++ tb), dsts := okSlices (tb ++ ta), xf := .swap }
            s.engBegin f 0 1 (fun e => { e with moves := [mv], units := us }))))

/-! ### Tiers (R268, R269) -/

/-- A range of pages covers part of a 512 MiB page, or a page that does not translate: the fault. -/
def State.migFault (s : State) (va n : Nat) : Option (Nat × Nat × Nat) :=
  (List.range n).findSome? (fun k =>
    let a := va + 65536 * k
    match s.walk s.wg.ctx a with
    | .error c => some (XLATE, c, a)
    | .ok (_, large, _) =>
      if large && (decide (a / 2 ^ 29 * 2 ^ 29 < va) || decide (va + 65536 * n < (a / 2 ^ 29 + 1) * 2 ^ 29)) then some (ALIGN, 0, a) else none)
/-- The pages of a range as the probe finds them (R251): address, leaf, size and leaf address, each page once. -/
def State.migPages (s : State) (va n : Nat) : List (Nat × Nat × Bool × Nat) :=
  (List.range n).filterMap (fun k =>
    let a := va + 65536 * k
    match s.walk s.wg.ctx a with
    | .error _ => none
    | .ok (e, large, ea) => if large && a % 2 ^ 29 != 0 then none else some (a, e, large, ea))
/-- `mig` (R268). -/
def execMig (h : Hdr) (f : FC) (s : State) : Out :=
  let n := f.imm.toNat
  let far := bitN f.cmod.toNat 0
  let mot := bitN f.cmod.toNat 1
  runC s h f true false (engOk f true false (n != 0) (decide (f.cmod.toNat < 4) && (far || !mot)) true .opt) (fun s => s.engFull f) (fun s =>
    let va := s.engSrc f.srca
    if va % 65536 ≠ 0 then s.faultAt (ALIGN, 0) va
    else match s.migFault va n with
      | some e => s.faultAt (e.1, e.2.1) e.2.2
      | none => s.last f [] (fun s =>
        s.engBegin f 3 (65536 * n) (fun e => { e with work := .migrate (s.migPages va n) far mot s.wg.launch.dev })))
/-- R269: what `tres` reports for a leaf. -/
def tresWord (s : State) (e : Nat) (large : Bool) : Nat :=
  let off := offOf (frameOf e)
  if inHostWindow off then (Config.freeWord s.uid).toNat
  else
    (if inHbm off then stackOf off else portOf off) * 2 ^ 8 + b2n large * 8 +
    (if bitN e 11 then 3 else if inHbm off then 0 else if bitN e 10 then 2 else 1)
/-- `tres` (R269). -/
def execTres (h : Hdr) (f : FC) (s : State) : Out :=
  runC s h f true false (engOk f true false (f.imm == 0) (f.cmod == 0) false .must) (fun _ => false) (fun s =>
    match s.walk s.wg.ctx (s.engSrc f.srca) with
    | .error _ => s.last f [] (·.replyNow f (2 ^ 63))
    | .ok (e, large, _) => s.last f [] (fun s => s.tick.replyNow f (tresWord s e large)))

/-! ### The task graph (R270 to R273) -/

/-- R270: a copy node's descriptor must name both tensors by handle; the state then is what `go` makes of its plan. -/
def State.copyNode (s : State) (f : FC) (desc : Nat) (go : State → CopyPlan → Nat → State) : State :=
  s.syncRead false 0 desc 160 32 (fun s bs =>
    let d := copyDesc bs
    if !(copyDescOk .cpy false bs) || !d.sh || !d.dh then s.fault ILLOP else s.withCopy f .cpy false false 0 d go)
/-- Create a node, held, and reply with its id; 0 when the table is full. -/
def State.makeNode (s : State) (f : FC) (n : Node) : State :=
  if s.replyBusy f then s.fault LYBUSY
  else match s.freeSlot s.wg.ctx (dieOf s.wg.core) with
  | none => s.replyNow f 0
  | some k =>
    let r : NRef := ⟨s.wg.ctx, dieOf s.wg.core, k⟩
    (s.addNode { n with ref := r }).replyNow f (k * 4096 + smGet 0 s.eng.gens (slotKey r))
/-- `tnode` (R270, R317). -/
def execTnode (h : Hdr) (f : FC) (s : State) : Out :=
  runC s h f true false (engOk f true false (f.imm == 0) (f.cmod == 0) false .must) (fun _ => false) (fun s =>
    s.syncRead false 0 (s.engSrc f.srca) 64 64 (fun s bs =>
      let w := wordAt bs 0
      let desc := wordAt bs 1
      let kind := w % 4
      let n : Node :=
        { ref := ⟨0, 0, 0⟩, gen := 0, st := .held, tag := w / 2 ^ 32, pred := bitsN w 16 16, kind, desc, owner := s.ref
          flt := fltBody s.wg s.m s.m.curB s.m.path.pc { code := POISON } false }
      if bitsN w 2 14 ≠ 0 ∨ kind = 3 ∨ (bs.drop 16).any (· != 0) = true ∨ (kind = 0 ∧ desc ≠ 0) then s.fault ILLOP
      else match kind with
        | 0 => s.makeNode f n
        | 1 =>
          if desc % 64 ≠ 0 then s.fault ILLOP
          else (match s.takeLaunch s.wg.ctx (devOf s.ctx.mode (dieOf s.wg.core)) desc with
            | .error (r, c, d) => if r = 1 ∨ r = 8 then s.faultAt (c, d) desc else s.fault ILLOP
            | .ok l => s.makeNode f { n with launch := l })
        | _ => s.copyNode f desc (fun s p bytes => s.makeNode f { n with engMoves := p.moves, expect := 8 * bytes })))
/-- `tedge` (R271). -/
def execTedge (h : Hdr) (f : FC) (s : State) : Out :=
  runC s h f true true (engOk f true true (f.imm == 0) (f.cmod == 0) false .none) (fun _ => false) (fun s =>
    match s.nodeById (s.engSrc f.srcb) with
    | none => s.faultAt (PERM, 2) 0
    | some b =>
      if b.st = .launched then s.faultAt (PERM, 2) 0
      else match s.nodeById (s.engSrc f.srca) with
        | none => s.advance
        | some a =>
          if 64 ≤ a.succs.length then s.faultAt (PERM, 2) 0
          else ((s.modNode a.ref (fun n => { n with succs := n.succs ++ [(b.ref, b.gen)] })).modNode b.ref (fun n => { n with pred := n.pred + 1 })).advance)
/-- `tlaunch` (R272). -/
def execTlaunch (h : Hdr) (f : FC) (s : State) : Out :=
  runC s h f true false (engOk f true false (f.imm == 0) (f.cmod == 0) false .none) (fun _ => false) (fun s =>
    match s.nodeById (s.engSrc f.srca) with
    | none => s.advance
    | some n => if n.st = .held then (s.modNode n.ref (fun n => { n with st := .armed })).advance else s.advance)
/-- `tcancel` (R273). -/
def execTcancel (h : Hdr) (f : FC) (s : State) : Out :=
  runC s h f true false (engOk f true false (f.imm == 0) (f.cmod == 0) false .opt) (fun s => s.engFull f) (fun s =>
    let tag := s.engSrc f.srca
    s.last f [] (·.engBegin f 4 1 (fun e => { e with work := .cancel tag })))
/-- Withdraw what carries a tag (R273): the state, and how many nodes and entries went. -/
def State.cancelTag (s : State) (ctx tag : Nat) : State × Nat :=
  if tag = 0 ∨ 2 ^ 32 ≤ tag then (s, 0)
  else
    let mine := s.eng.nodes.filter (fun n => n.ref.ctx = ctx && n.tag = tag && decide (n.st ≠ .launched))
    let s1 := withdraw s s.graphFuel (mine.map (fun n => (n.ref, n.gen)))
    let r := s1.dropQueue ctx (fun t => t = tag)
    (r.1, s.eng.nodes.length - s1.eng.nodes.length + r.2)
/-- A node finishes (R272, R318, R321): its successors wait for one predecessor less, its slot is free, its wide barriers are over, and
a queue entry that asked for it gives a completion record. -/
def State.finishNode (s : State) (n : Node) : State :=
  let s1 := n.succs.foldl (fun t e => t.modNode e.1 (fun x => if x.gen = e.2 then { x with pred := x.pred - 1 } else x)) s
  let key := slotKey n.ref * 4096 + nodeId n % 4096
  let bars := s1.eng.bars.filter (fun b => b.1.1 != key)
  let s2 : State := { s1 with eng := { s1.eng with bars := bars } }
  let s3 := s2.freeNode n
  if n.evt then s3.postCtx n.ref.die 3 n.ref.ctx [1, n.desc, n.tag * 2 ^ 32] else s3

/-! ### Handles (R274 to R276) -/

/-- A handle slot that would pass generation 4,095 is retired for good (R48). -/
def State.retired (s : State) (slot : Nat) : Bool := smGet 0 s.ctx.htgen slot = 4096
/-- The control word of an entry, as it stands at home, or the fault of reaching it. -/
def State.entryAt (s : State) (slot : Nat) : Except (Nat × Nat) Nat :=
  match s.engBytes 1 (s.entryVa slot + 288) 8 with
  | .error f => .error f
  | .ok (w, _, psn) => if psn then .error (POISON, 0) else .ok w
/-- R274: the lowest free slot above 0; the fault met on the way, if any. -/
def State.freeHandle (s : State) : Nat → Nat → Except (Nat × Nat) (Option (Nat × Nat))
  | 0, _ => .ok none
  | fuel + 1, k =>
    if s.ctx.htsize ≤ k then .ok none
    else if s.retired k then s.freeHandle fuel (k + 1)
    else match s.entryAt k with
      | .error f => .error f
      | .ok w => if bitN w 12 then s.freeHandle fuel (k + 1) else .ok (some (k, bitsN w 0 12))
/-- Write bytes of the handle table at home, and into the quad's view. -/
def State.putTable (s : State) (ps : List Part) (bs : List Byte) : State :=
  ps.foldl (fun t p => t.putHome (some (quadOf t.wg.core)) p.2.1 (leNat ((bs.drop p.1).take (p.2.1.bits / 8)))) s
/-- The zero fields of an entry image (R47). -/
def entryZeros (bs : List Byte) : Bool :=
  bitsN (entryWord bs) 26 38 == 0 && bitsN (entryWord bs) 13 3 == 0 && (bs.drop 296).all (· == 0)
/-- `hnew` (R274). -/
def execHnew (h : Hdr) (f : FC) (s : State) : Out :=
  runC s h f true false (engOk f true false (f.imm == 0) (f.cmod == 0) false .must) (fun _ => false) (fun s =>
    s.syncRead false 0 (s.engSrc f.srca) 512 1 (fun s bs =>
      if !(entryZeros bs) then s.fault ILLOP
      else if !(lyWellFormed (entryImg bs)) || lyPstate (entryImg bs) != 0 then s.fault LYSING
      else match s.freeHandle (2 ^ 20) 1 with
        | .error e => s.faultAt e 0
        | .ok none => s.last f [] (·.replyNow f 0)
        | .ok (some (k, gen)) =>
          let w := putBits (putBits (entryWord bs) 20 6 (partOf s.wg.ctx)) 0 13 (4096 + gen)
          let img := bs.take 288 ++ leBytes 8 w ++ bs.drop 296
          match s.parts 1 (s.entryVa k) 512 2 with
          | .error e => s.faultAt e (s.entryVa k)
          | .ok ps => s.last f [] (fun s => s.reach (pagesOf (ps.filterMap (·.2.2))) (fun s => (s.putTable ps img).replyNow f (k * 4096 + gen)))))
/-- `hdel` (R275, R48). -/
def execHdel (h : Hdr) (f : FC) (s : State) : Out :=
  runC s h f true false (engOk f true false (f.imm == 0) (f.cmod == 0) false .none) (fun _ => false) (fun s =>
    let hd := s.engSrc f.srca % 2 ^ 32
    let slot := hSlot hd
    match s.handle hd [] with
    | .error e => s.faultAt e 0
    | .ok p =>
      match s.parts 1 (s.entryVa slot + 288) 8 2 with
      | .error e => s.faultAt e (s.entryVa slot)
      | .ok ps =>
        if s.busyRef (.handle s.wg.ctx slot) (entryImg p.bytes) then s.fault LYBUSY
        else s.reach (pagesOf (ps.filterMap (·.2.2))) (fun s =>
          let gen := hGen hd
          let last := gen = 4095
          let w := putBits (entryWord p.bytes) 0 13 (if last then gen else gen + 1)
          let s1 := s.putTable ps (leBytes 8 w)
          (if last then s1.modCtx s.wg.ctx (fun c => { c with htgen := smIns c.htgen slot 4096 }) else s1).advance))
/-- `hchk` (R276). -/
def execHchk (h : Hdr) (f : FC) (s : State) : Out :=
  runC s h f true false (engOk f true false (f.imm == 0) (f.cmod == 0) false .must) (fun _ => false) (fun s =>
    let hd := s.engSrc f.srca % 2 ^ 32
    let slot := hSlot hd
    let reply (x : Nat) : State := s.last f [] (·.replyNow f x)
    if slot = 0 ∨ s.ctx.htsize ≤ slot then reply 0
    else match s.peek 1 (s.entryVa slot) 512 with
      | .error _ => reply 0
      | .ok p =>
        if p.psn then reply 0
        else
          let w := entryWord p.bytes
          let live := bitN w 12 && bitsN w 0 12 == hGen hd
          reply (b2n (lyPstate (entryImg p.bytes) != 0) * 64 + b2n (bitsN w 20 6 == partOf s.wg.ctx) * 32 + b2n live * 16 +
            (if live then bitsN w 16 4 else 0)))

/-! ### A command goes on (R252, R266 to R268, R273) -/

/-- One page of a `mig`, of n bytes, has been found not to move (R252). -/
def State.migSkip (s : State) (id n : Nat) : State :=
  match s.eng.ops.find? (fun e => e.id = id) with | none => s | some e => s.landBits e (8 * n)
/-- Take the next page of a `mig` (R268): one whose move is in progress holds it, as does a migration engine that is full (R330). A page
unmapped since the probe keeps the mapping found then (R251). -/
def State.migStep (s : State) (e : EngOp) (far mot : Bool) (dev : Nat) (pages : List (Nat × Nat × Bool × Nat)) : State :=
  match pages with
  | [] => s.modEng e.id (fun x => { x with work := .none })
  | (va, leaf0, large0, ea0) :: rest =>
    let (leaf, large, ea) := match s.walk e.ctx va with | .ok r => r | .error _ => (leaf0, large0, ea0)
    let off := offOf (frameOf leaf)
    let next (t : State) : State := t.modEng e.id (fun x => { x with work := if rest = [] then .none else .migrate rest far mot dev })
    let full := match s.frameFor e.ctx (va / pageBytes large * pageBytes large) far large dev with
      | none => false
      | some g => s.migBusy (farDie (offOf (if far then g else frameOf leaf)))
    if bitN leaf 11 then s
    else if !(s.homed (frameOf leaf)) || inHostWindow off || (if far then inFar off else inHbm off) then (next s).migSkip e.id (pageBytes large0)
    else if full then s
    else
      let s1 := s.startMove e.ctx va ea leaf far mot large dev (some e.id)
      if s1.mem.moves.length = s.mem.moves.length then (next s1).migSkip e.id (pageBytes large0) else next s1
/-- Serve the next sequence of a `pgal`: later ones stay untouched when the pool is too small (R266). -/
def State.allocStep (s : State) (e : EngOp) (pool k : Nat) (seqs : List (Nat × List Slice)) : State :=
  let c := smGet {} s.ctxs e.ctx
  match seqs, smFind c.pools pool with
  | (need, sls) :: rest, some p =>
    if p.pages.length < need then s.modEng e.id (fun x => { x with work := .none })
    else
      let mk (i : Nat) : EMove := { srcs := [], dsts := [sls.getD i []], xf := .const (p.pages.getD i 0) }
      let p1 : Pool := { p with pages := p.pages.drop need }
      let s1 := s.modCtx e.ctx (fun c => { c with pools := smIns c.pools pool p1 })
      s1.modEng e.id (fun x => { x with
        moves := x.moves ++ (List.range need).map mk, value := x.value + need * 2 ^ 32 + 2 ^ k, work := .alloc pool rest (k + 1) })
  | _, _ => s.modEng e.id (fun x => { x with work := .none })
/-- Push the pages of a `pgfr` (R267). -/
def State.freeStep (s : State) (e : EngOp) (pool : Nat) (pages : List Nat) : State :=
  match smFind (smGet {} s.ctxs e.ctx).pools pool with
  | none => s.modEng e.id (fun x => { x with work := .none })
  | some p =>
    let put := pages.take (p.cap - p.pages.length)
    let p1 : Pool := { p with pages := p.pages ++ put }
    (s.modCtx e.ctx (fun c => { c with pools := smIns c.pools pool p1 })).modEng e.id (fun x => { x with value := put.length, work := .none })
/-- One step of what a command does beside its moves. -/
def State.workStep (s : State) (e : EngOp) : State :=
  match e.work with
  | .none => s
  | .alloc pool seqs k => s.allocStep e pool k seqs
  | .free pool pages => s.freeStep e pool pages
  | .migrate pages far mot dev => s.migStep e far mot dev pages
  | .cancel tag =>
    let r := s.cancelTag e.ctx tag
    r.1.modEng e.id (fun x => { x with work := .none, value := r.2 })
/-- `ENGINE_WRITE_LAND` (R297): a move of a command lands; past its moves, its next piece of other work is done. -/
def execEngineWriteLand (op move : Nat) (s : State) : Out := .next (
  match s.eng.ops.find? (fun e => e.id = op) with
  | none => s
  | some e => if move < e.moves.length then s.landMove e move else s.workStep e)

/-! ### Completion (R182, R252, R253) -/

/-- An engine event reaches a workgroup's receive queue: held, in order, while the queue is full (R260, R348). -/
def Workgroup.takeEvent (w : Workgroup) (q : Nat) (v : QEntry) : Workgroup :=
  if w.iqHeld.any (fun x => x.1 = q) || decide (Config.queueDepth ≤ (smGet [] w.iq q).length) then { w with iqHeld := w.iqHeld ++ [(q, v)] }
  else { w with iq := smPut [] w.iq q (smGet [] w.iq q ++ [v]) }
/-- Append the next event of a command to its issuer's queue: the engine holds it while the queue is full; a workgroup saved away
always takes it. -/
def State.appendEvents (s : State) (id : Nat) : State :=
  match s.eng.ops.find? (fun e => e.id = id) with
  | none => s
  | some e => (match e.events with
    | [] => s
    | (q, v) :: rest =>
      let s := s.noteTraffic e.owner.wu (2 * e.id + 2) false
      (match s.findWu e.owner.wu with
      | some w =>
        if w.iqHeld.any (fun x => x.1 = q) || decide (Config.queueDepth ≤ (smGet [] w.iq q).length) then s
        else (s.modWu w.wu (fun w => w.takeEvent q v)).modEng id (fun x => { x with events := rest })
      | none =>
        let saves := s.eng.saves.map (fun w => if w.wu = e.owner.wu then w.takeEvent q v else w)
        ({ s with eng := { s.eng with saves := saves } } : State).modEng id (fun x => { x with events := rest })))
/-- Held events of a workgroup enter its queues while there is room (R348). -/
def Workgroup.flushHeldEvents (w : Workgroup) : Workgroup :=
  w.iqHeld.foldl (fun x e => x.takeEvent e.1 e.2) { w with iqHeld := [] }
/-- A command is complete: everything it does is done. -/
def State.engDone (s : State) (e : EngOp) : Bool :=
  e.moves == [] && decide (e.work = .none) && e.events == [] && e.rly.isNone && !(s.mem.moves.any (fun v => v.op = some e.id))
/-- The counted operation of a command: it may retire, with its reply and its report. -/
def OutOp.complete (o : OutOp) (e : EngOp) : OutOp :=
  let k : OutKind := match e.reply with | some d => .value (BitVec.ofNat 64 e.value) d | none => o.kind
  { o with kind := k, done := true, report := e.report }
/-- Change a member's operation of a number, saved members included (R348). -/
def State.modSaved (s : State) (r : MRef) (f : Member → Member) : State :=
  let s1 := s.modMem r f
  let saves := s1.eng.saves.map (fun w => if w.wu = r.wu then { w with members := replaceFirst (fun m => m.id = r.mem) f w.members } else w)
  { s1 with eng := { s1.eng with saves := saves } }
/-- The failure of a command that targets a node: the node is withdrawn, and the fault goes to the host (R253). -/
def State.engFail (s : State) (e : EngOp) (r : NRef) (g : Nat) : State := (s.postCtx e.die 1 e.ctx e.flt).withdrawNode r g
/-- Complete a command. -/
def State.engComplete (s : State) (e : EngOp) : State :=
  let ops := s.eng.ops.filter (fun x => x.id != e.id)
  let s1 : State := { s with eng := { s.eng with ops := ops } }
  match e.node, e.forNode with
  | some (r, g), _ =>
    let s2 := match e.reply with | some d => s1.modSaved e.owner (fun m => { m with r := m.r.putAll d e.value }) | none => s1
    if e.report.isSome then s2.engFail e r g else s2.landBytes e.node ((e.expect + 7) / 8)
  | none, some (r, g) => (match s1.findNode r with
    | none => s1
    | some n => if n.gen ≠ g then s1 else if e.report.isSome then s1.engFail e r g else s1.finishNode n)
  | none, none =>
    let fin (o : OutOp) : OutOp := if o.id = e.id then o.complete e else o
    ((s1.noteTraffic e.owner.wu (2 * e.id + 2) false).modSaved e.owner (fun m => { m with outs := m.outs.map fin })).retireFor e.owner 2
/-- `ENGINE_COMPLETION` (R252): first the events a command holds, as far as there is room. -/
def execEngineCompletion (op : Nat) (s : State) : Out := .next (
  let s := s.appendEvents op
  match s.eng.ops.find? (fun e => e.id = op) with
  | none => s
  | some e => if s.engDone e then s.engComplete e else s)

end Sys2Proof.Machine
end

