-- ==== Sys2Proof/Machine/Save.lean ====
section
/-!
DEFINITION. Save.lean: a workgroup leaves its core whole and comes back on another: saves, restores, migrations and the forwarding
entries they leave (R33, R54, R298, R325, R326, R345 to R349). A workgroup that is away stands in `EngSt.saves` with its registers,
counters and queues; its scratchpad stands apart, under the number 2^20 plus the workgroup's name.
-/
namespace Sys2Proof.Machine

/-! ### The scratchpad moves whole (R298, R345) -/

/-- Where the scratchpad of a workgroup that is away stands. -/
def spAway (wu : Nat) : Nat := 2 ^ 20 + wu
/-- A location after a range of one scratchpad has moved to another. -/
def Loc.spMoved (l : Loc) (c1 b1 c2 b2 n : Nat) : Loc :=
  if l.place = .sp c1 ∧ 8 * b1 ≤ l.bit ∧ l.bit < 8 * (b1 + n) then { l with place := .sp c2, bit := l.bit - 8 * b1 + 8 * b2 } else l
/-- The cells of a range of one memory, laid over the same range of another from another base. -/
def moveCells (src dst : Memory) (b1 b2 n : Nat) : Memory :=
  (src.filter (fun x => decide (b1 ≤ x.1) && decide (x.1 < b1 + n))).foldl (fun m x => memPut m (x.1 - b1 + b2) x.2)
    (dst.filter (fun x => !(decide (b2 ≤ x.1) && decide (x.1 < b2 + n))))
/-- Poisoned lines follow the bytes they lie in. -/
def movePsn (ps : List (Nat × Nat)) (c1 b1 c2 b2 n : Nat) : List (Nat × Nat) :=
  let inRange (c b : Nat) (p : Nat × Nat) : Bool := p.1 == c && decide (b / 128 ≤ p.2) && decide (p.2 < (b + n) / 128)
  ((ps.filter (inRange c1 b1)).map (fun p => (c2, p.2 - b1 / 128 + b2 / 128))) ++ ps.filter (fun p => !(inRange c2 b2 p))
/-- Move `n` bytes of a scratchpad, with everything on its way that names them. -/
def State.moveSp (s : State) (c1 b1 c2 b2 n : Nat) : State :=
  let s1 := s.mapLocs (·.spMoved c1 b1 c2 b2 n)
  let sp := moveCells (smGet [] s.mem.sp c1) (smGet [] s.mem.sp c2) b1 b2 n
  let mv (w : PWrite) : PWrite :=
    if w.place = .sp c1 ∧ b1 ≤ w.addr ∧ w.addr < b1 + n then { w with place := .sp c2, addr := w.addr - b1 + b2 } else w
  let cov := (List.range (n / 128)).foldl (fun m k =>
    smPut 0 m (c2 * 2 ^ 24 + b2 / 128 + k) (smGet 0 s.mem.spCover (c1 * 2 ^ 24 + b1 / 128 + k))) s.mem.spCover
  { s1 with mem := { s.mem with
      sp := smPut [] s.mem.sp c2 sp
      spPsn := movePsn s.mem.spPsn c1 b1 c2 b2 n
      spCover := cov
      writes := s.mem.writes.map mv } }
/-- Forget the scratchpad of a workgroup that is no longer away. -/
def State.dropAway (s : State) (wu : Nat) : State :=
  { s with mem := { s.mem with sp := smDel s.mem.sp (spAway wu), spPsn := s.mem.spPsn.filter (fun p => p.1 != spAway wu) } }
/-- The bytes of a workgroup's footprint, with the parenthesis-stack area. -/
def Workgroup.footprint (w : Workgroup) : Nat := 1024 * w.launch.charge.getD 2 0

/-! ### Leaving -/

/-- The workgroups of a workgroup's cluster group that have not ended. -/
def State.liveGroup (s : State) (w : Workgroup) : List Workgroup :=
  w.group.filterMap (fun wu => (s.findWu wu).bind (fun x => if x.stop = .ended then none else some x))
/-- R347, R298, R54: a workgroup's ld and st operations are complete, its writes are in place, no matrix instruction of it is
started, each group of the pass its relayouts are in may commit, and no command has landed part of a row of its registers or scratchpad. -/
def State.quiet (s : State) (w : Workgroup) : Bool :=
  (s.membersOf w.wu).all (fun m => m.outs.all (fun o => decide (2 ≤ o.cls))) &&
  s.mem.writes.all (fun x => decide (x.owner.wu ≠ w.wu) || decide (3 ≤ x.stage.num)) &&
  s.mem.msgs.all (fun q => decide (q.owner.wu ≠ w.wu)) && w.mx.queue.all (fun q => !q.started) &&
  s.eng.ops.all (fun e => decide (e.owner.wu ≠ w.wu) || e.halfRows == [] || !(e.moves.any (·.isLocal))) &&
  s.relayouts.all (fun ey => decide (ey.1.owner.wu ≠ w.wu) || ey.2.left.all (fun g => s.mayCommit ey.2 (ey.2.group g)))
/-- R54: the relayouts of a workgroup commit the pass they are in, and what is left of them is suspended. -/
def State.suspendRly (s : State) (wu : Nat) : State :=
  (s.relayouts.filter (fun ey => ey.1.owner.wu = wu)).foldl (fun t ey =>
    let t1 := ey.2.left.foldl (fun x g => x.commitGroup ey.1.id g) t
    match (t1.eng.ops.find? (fun e => e.id = ey.1.id)).bind (·.rly) with
    | none => t1
    | some y => (t1.noteRly y 3 y.pass (t1.ownerQuad ey.1.owner)).modEng ey.1.id (fun e => { e with rly := some { y with suspended := true } })) s
/-- Take a workgroup out of the resident ones. -/
def State.dropWu (s : State) (wu : Nat) : State :=
  if s.wg.wu = wu then { s with wg := { stop := .ended }, m := {} } else { s with wgs := dropFirst (fun w => w.wu = wu) s.wgs }
/-- The forwarding entries a core holds (R326). -/
def State.forwardsAt (s : State) (core : Nat) : Nat := (s.plat.forwards.filter (fun f => f.core = core)).length
/-- A workgroup leaves its core: a forwarding entry stands there for it (R348). A running `wtval` restarts its timeout (R346). -/
def State.saveWu (s : State) (wu : Nat) : State :=
  match s.findWu wu with
  | none => s
  | some w0 =>
    let s1 := (s.suspendRly wu).moveSp w0.core w0.spBase (spAway wu) 0 w0.footprint
    let w1 := (s1.findWu wu).getD w0
    let ms := (s1.membersOf wu).map (fun m => { m with wt := [], early := [], home := none })
    let saved : Workgroup := { w1 with members := ms, spBase := 0, area := none }
    let s2 := s1.dropWu wu
    let fwd : Forward := { id := s.uid, core := w0.core, wu := wu, toCore := none, senders := [] }
    { s2 with
      uid := s.uid + 1
      mem := { s2.mem with msgs := s2.mem.msgs.map (fun q => if q.toWu = wu then { q with via := true } else q) }
      eng := { s2.eng with saves := s2.eng.saves ++ [saved] }
      plat := { s2.plat with forwards := s2.plat.forwards ++ [fwd] } }
/-- R346 to R348: a whole cluster group may leave: every workgroup of it is stopped and quiet, and its cores have a forwarding entry
free. -/
def State.mayDepart (s : State) (w : Workgroup) : Bool :=
  (s.liveGroup w).all (fun x => s.quiet x && decide (s.forwardsAt x.core < 16))

/-! ### Coming back (R349) -/

/-- R326: who may still address a workgroup's old place: the die's task scheduler (0), the other workgroups of its group (odd numbers),
the engines that hold a command of it (even numbers). -/
def State.sendersOf (s : State) (w : Workgroup) : List Nat :=
  0 :: ((w.group.filter (fun k => k != w.wu && k != 0)).map (fun k => 2 * k + 1) ++ (s.eng.ops.filter (fun e => e.owner.wu = w.wu)).map (fun e => 2 * e.id + 2))
/-- R54: the suspended relayouts of a workgroup go on. -/
def State.resumeRly (s : State) (wu : Nat) : State :=
  (s.eng.ops.filter (fun e => e.owner.wu = wu)).foldl (fun t e => match e.rly with
    | none => t
    | some y =>
      if y.suspended then (t.noteRly y 1 y.pass (t.ownerQuad e.owner)).modEng e.id (fun x => { x with rly := some { y with suspended := false } })
      else t) s
/-- A saved workgroup is placed on a core: its scratchpad, its homes, its queues, and the acquire it begins with; its forwarding entry
knows where it went. A workgroup keeps its `%core` (R33). -/
def State.restoreWu (s : State) (w : Workgroup) (core : Nat) : State :=
  let base := s.spTop core
  let saves := s.eng.saves.filter (fun x => x.wu != w.wu)
  let w1 : Workgroup := { w.flushHeldEvents with core := core, stress := 0, stopCyc := 0 }
  let s1 := ({ s with eng := { s.eng with saves := saves } } : State).settleOn w1
  let s2 := s1.moveSp (spAway w.wu) 0 core base w.footprint
  let fs := s2.plat.forwards.map (fun f =>
    if f.wu = w.wu ∧ f.toCore = none then { f with toCore := some core, senders := s2.sendersOf w, quiet := 0 } else f)
  (({ s2 with plat := { s2.plat with forwards := fs } } : State).dropAway w.wu).resumeRly w.wu
/-- The saved workgroups of a workgroup's cluster group, in rank order. -/
def State.savedGroup (s : State) (w : Workgroup) : List Workgroup :=
  w.group.filterMap (fun wu => s.eng.saves.find? (fun x => x.wu = wu))
/-- Place a saved group on cores, in rank order. -/
def State.restoreOn (s : State) (ws : List Workgroup) (cores : List Nat) : State :=
  (ws.zip cores).foldl (fun t wc => t.restoreWu wc.1 wc.2) s
/-- The cores that a saved group takes on a die (R324), with the distributor's state after. -/
def State.chooseFor (s : State) (ws : List Workgroup) (die : Nat) : Option (List Nat × State) :=
  match ws with
  | [] => none
  | w :: _ => s.choose w.ctx { w.launch with clus := ws.length } die
/-- Restore a saved group on the first live die of its device that can hold it; none when no die can. -/
def State.restoreGroup (s : State) (ws : List Workgroup) : Option State :=
  match ws with
  | [] => none
  | w :: _ => ((s.liveDies w.ctx w.launch.dev).findSome? (s.chooseFor ws)).map (fun r => r.2.restoreOn ws r.1)

/-! ### Saving on the host's command (R346, R347) -/

/-- Stop the running workgroups of a cluster group for save. -/
def State.preemptGroup (s : State) (w : Workgroup) : State :=
  (s.liveGroup w).foldl (fun t x => t.modWu x.wu (fun y => if y.stop = .running then { y with stop := .preempt, stopCyc := 0 } else y)) s
/-- Save a workgroup's whole cluster group. -/
def State.saveGroup (s : State) (w : Workgroup) : State := (s.liveGroup w).foldl (fun t x => t.saveWu x.wu) s
/-- `SAVE_COMPLETE` (R347): a workgroup that was pre-empted leaves with its cluster group, once all of them are stopped and quiet. -/
def execSaveComplete (wu : Nat) (s : State) : Out := .next (
  match s.findWu wu with
  | none => s
  | some w =>
    if decide (w.stop = .preempt) && (s.liveGroup w).all (fun x => x.stop != .running) && s.mayDepart w then s.saveGroup w else s)

/-! ### Migration (R325, R326) -/

/-- A live handle with a QUAD field names the quad of a workgroup of the context (R39). -/
def State.quadHandle (s : State) (w : Workgroup) : Bool :=
  let c := smGet {} s.ctxs w.ctx
  (List.range c.htsize).any (fun k => k != 0 && (match s.readCtx w.ctx (c.htbase + 512 * k) 512 with
    | .error _ => false
    | .ok bs =>
      let img := entryImg bs
      bitN (entryWord bs) 12 && lySpace img == 1 && (lyLevels img).any (fun l => l.1 = 6) &&
      decide (quadOf w.core % 64 < 2 ^ lyWidth img 6)))
/-- R325: the condition that has held for 2^16 cycles on the source core, for one target core: stress, or starvation. -/
def State.mayMove (s : State) (w : Workgroup) (core : Nat) : Bool :=
  (decide (65536 ≤ (smGet {} s.cores w.core).stressed) && decide (s.stressOf core + 32 ≤ s.stressOf w.core)) ||
  (decide (2 ≤ ((s.residents w.core).filter (fun x => decide (65536 ≤ x.stress))).length) && s.residents core == [])
/-- The cores of a die that a migrating group goes to, given the one that its named workgroup's rank 0 takes: one core, or the fitting
cores of that core's quad. -/
def State.moveCores (s : State) (ws : List Workgroup) (core : Nat) : List Nat :=
  match ws with
  | [] => []
  | w :: _ => if w.group.length = 1 then [core].filter (s.fits w.ctx w.launch) else (s.quadFits w.ctx w.launch (quadOf core)).take ws.length
/-- `WORKGROUP_MIGRATION` (R325): the group leaves and is placed at once on other cores of its die; the stop between is latency. -/
def execWorkgroupMigration (wu core : Nat) (s : State) : Out := .next (
  match s.findWu wu with
  | none => s
  | some w =>
    let ws := s.liveGroup w
    let cores := s.moveCores ws core
    if w.stop = .running ∧ dieOf core = dieOf w.core ∧ cores.length = ws.length ∧ ws ≠ [] ∧ (ws.all (fun x => decide (x.stop = .running) &&
        (s.membersOf x.wu).all (fun m => m.level == 0) && !(s.quadHandle x)) && cores.all (s.mayMove w) && !(s.heldBack w) && s.mayDepart w) = true then
      let s1 := s.saveGroup w
      s1.restoreOn (s1.savedGroup w) cores
    else s)

/-! ### Forwarding entries (R326, R348) -/

/-- `SENDER_ACK` (R326): a sender has the new place. -/
def execSenderAck (fwd sender : Nat) (s : State) : Out := .next (
  let fs := s.plat.forwards.map (fun f => if f.id = fwd then { f with senders := f.senders.filter (· != sender) } else f)
  { s with plat := { s.plat with forwards := fs } })
/-- `FORWARD_RETIRE` (R326): every sender has acknowledged and the inbound path has been quiet for 4,096 cycles of its core. The entry
of a workgroup that is away stays (R348), unless the workgroup is no more. -/
def State.mayRetireFwd (s : State) (f : Forward) : Bool :=
  f.senders == [] && decide (4096 ≤ f.quiet) && (f.toCore.isSome || !(s.eng.saves.any (fun w => w.wu = f.wu)))
/-- `FORWARD_RETIRE` (R326). -/
def execForwardRetire (fwd : Nat) (s : State) : Out := .next (
  let fs := s.plat.forwards.filter (fun f => !(decide (f.id = fwd) && s.mayRetireFwd f))
  { s with plat := { s.plat with forwards := fs } })

/-! ### A new name (R282, R342) -/

/-- A name after a workgroup has been given another. -/
def renameNat (old new k : Nat) : Nat := if k = old then new else k
/-- A member's name after a change of its workgroup's. -/
def renameRef (old new : Nat) (r : MRef) : MRef := { r with wu := renameNat old new r.wu }
/-- A place after a change of name. -/
def Place.renamed (old new : Nat) (p : Place) : Place := match p with | .reg wu m => .reg (renameNat old new wu) m | p => p
/-- A location after a change of name. -/
def Loc.renamed (old new : Nat) (l : Loc) : Loc := { l with place := l.place.renamed old new }
/-- A layout's name after a change. -/
def LyRef.renamed (old new : Nat) (x : LyRef) : LyRef := match x with | .reg wu l => .reg (renameNat old new wu) l | x => x
/-- An engine move after a change of name. -/
def EMove.renamed (old new : Nat) (m : EMove) : EMove :=
  { m with selem := m.selem.map (LyRef.renamed old new), delem := m.delem.map (LyRef.renamed old new) }
/-- A relayout after a change of name. -/
def RlySt.renamed (old new : Nat) (y : RlySt) : RlySt := { y with x := y.x.renamed old new, target := y.target.renamed old new }
/-- A command after a change of name. -/
def EngOp.renamed (old new : Nat) (e : EngOp) : EngOp :=
  { e with owner := renameRef old new e.owner, moves := e.moves.map (EMove.renamed old new), rly := e.rly.map (RlySt.renamed old new) }
/-- A workgroup, saved or not, after a change of a name in its cluster group. -/
def Workgroup.renamed (old new : Nat) (w : Workgroup) : Workgroup :=
  { w with wu := renameNat old new w.wu, wgid := if w.wu = old then new % 2 ^ 32 else w.wgid, group := w.group.map (renameNat old new) }
/-- Give a workgroup that is away a new name, wherever it is named (R282). -/
def State.renameWu (s : State) (old new : Nat) : State :=
  let s1 := s.mapLocs (Loc.renamed old new)
  let bars := s1.eng.bars.map (fun b => ((b.1.1, b.1.2.1, renameNat old new b.1.2.2), { b.2 with arrived := b.2.arrived.map (renameNat old new) }))
  let eng := { s1.eng with
    ops := s1.eng.ops.map (EngOp.renamed old new)
    nodes := s1.eng.nodes.map (fun n => { n with owner := renameRef old new n.owner, engMoves := n.engMoves.map (EMove.renamed old new) })
    bars := bars
    paused := s1.eng.paused.map (RlySt.renamed old new)
    saves := s1.eng.saves.map (Workgroup.renamed old new) }
  let writes := s1.mem.writes.map (fun w => { w with owner := renameRef old new w.owner, place := w.place.renamed old new })
  let msgs := s1.mem.msgs.map (fun q => { q with owner := renameRef old new q.owner, toWu := renameNat old new q.toWu })
  let fs := s1.plat.forwards.map (fun f => { f with wu := renameNat old new f.wu })
  (({ s1 with
    wg := s1.wg.renamed old new
    wgs := s1.wgs.map (Workgroup.renamed old new)
    eng := eng
    mem := { s1.mem with writes := writes, msgs := msgs }
    plat := { s1.plat with forwards := fs } } : State).moveSp (spAway old) 0 (spAway new) 0 (2 ^ 20)).dropAway old

end Sys2Proof.Machine
end

