-- ==== Sys2Proof/Machine/Area.lean ====
section
/-!
DEFINITION. Area.lean: the save area of a workgroup, written and read back (R113, R237, R282, R350, R351). DESIGN CHOICE (log 74): where
R350 names a section's fields and gives no widths, a field is one 8-byte word, in the order R350 names them, a list is its length and its
items, and the words that a workgroup needs beside those stand after them.
-/
namespace Sys2Proof.Machine

/-! ### Words -/

/-- How a value is laid out in 8-byte words, and read back with the words that are left. -/
structure Codec (α : Type) where
  put : α → List Nat
  get : List Nat → α × List Nat
/-- One word. -/
def Codec.nat : Codec Nat := ⟨fun x => [x], fun ws => (ws.headD 0, ws.tail)⟩
/-- A value by way of another. -/
def Codec.iso {α β : Type} (c : Codec α) (there : β → α) (back : α → β) : Codec β :=
  ⟨fun x => c.put (there x), fun ws => let r := c.get ws; (back r.1, r.2)⟩
/-- Two values, one after the other. -/
def Codec.pair {α β : Type} (a : Codec α) (b : Codec β) : Codec (α × β) :=
  ⟨fun x => a.put x.1 ++ b.put x.2, fun ws => let r := a.get ws; let q := b.get r.2; ((r.1, q.1), q.2)⟩
/-- Read n items. -/
def getItems {α : Type} (c : Codec α) : Nat → List Nat → List α × List Nat
  | 0, ws => ([], ws)
  | n + 1, ws => let r := c.get ws; let q := getItems c n r.2; (r.1 :: q.1, q.2)
/-- A list: its length, its items. -/
def Codec.list {α : Type} (c : Codec α) : Codec (List α) :=
  ⟨fun xs => xs.length :: xs.flatMap c.put, fun ws => getItems c (min (ws.headD 0) ws.length) ws.tail⟩
/-- A truth value. -/
def Codec.bool : Codec Bool := Codec.nat.iso b2n (· != 0)
/-- A value that may be absent. -/
def Codec.opt {α : Type} (c : Codec α) : Codec (Option α) := c.list.iso Option.toList List.head?
/-- A bit vector of at most 64 bits. -/
def Codec.bits (n : Nat) : Codec (BitVec n) := Codec.nat.iso BitVec.toNat (BitVec.ofNat n)
/-- A number of `n` words. -/
def Codec.big (n : Nat) : Codec Nat :=
  ⟨fun x => (List.range n).map (fun k => x / 2 ^ (64 * k) % 2 ^ 64), fun ws => ((ws.take n).foldr (fun w x => w + 2 ^ 64 * x) 0, ws.drop n)⟩
/-- The bytes of some words. -/
def wordBytes (ws : List Nat) : List Byte := ws.flatMap (leBytes 8)
/-- The words of some bytes. -/
def bytesWords (bs : List Byte) : List Nat := (List.range ((bs.length + 7) / 8)).map (wordAt bs)

/-! ### Paths and entries (R113) -/

/-- A code pointer. -/
def cPc : Codec Pc := Codec.nat.iso (fun p => p.word.toNat) (fun w => { line := BitVec.ofNat 54 (w / 2 ^ 3), slot := BitVec.ofNat 3 w })
/-- The 16 bytes of a path entry, as a number. -/
def pathEntry (seq : Nat) (p : Path) : Nat :=
  2 ^ 126 + seq * 2 ^ 118 + b2n p.jrec.isSome * 2 ^ 117 + p.jrec.getD 0 * 2 ^ 109 + p.mask.toNat * 2 ^ 77 + p.pc.word.toNat
/-- The path of such a number. -/
def entryPath (x : Nat) : Path :=
  { pc := { line := BitVec.ofNat 54 (bitsN x 3 54), slot := BitVec.ofNat 3 (bitsN x 0 3) }, mask := BitVec.ofNat 32 (bitsN x 77 32)
    jrec := if bitN x 117 then some (bitsN x 109 8) else none }
/-- A timer's TRUN and TLEFT. DESIGN CHOICE (log 74): a timer past its timeout is TRUN 0, TLEFT 1. -/
def timerBits (t : Timer) : Nat := match t with | .idle => 0 | .run k => 2 ^ 16 + k | .spent => 1
/-- The timer of such bits. -/
def bitsTimer (x : Nat) : Timer := if bitN x 16 then .run (bitsN x 0 16) else if bitsN x 0 16 = 0 then .idle else .spent
/-- The 16 bytes of an entry of the parenthesis-stack area; 0 for a free one. -/
def entryBits (e : Option Entry) : Nat :=
  match e with
  | none => 0
  | some (.path seq p) => pathEntry seq p
  | some (.record ret outer timer pmask pc) =>
    (if ret then 3 else 2) * 2 ^ 126 + b2n outer.isSome * 2 ^ 125 + outer.getD 0 * 2 ^ 117 + timerBits timer * 2 ^ 100 + pmask.toNat * 2 ^ 57 +
      pc.word.toNat
/-- The entry of such bytes. -/
def bitsEntry (x : Nat) : Option Entry :=
  match bitsN x 126 2 with
  | 0 => none
  | 1 => some (.path (bitsN x 118 8) (entryPath x))
  | k => some (.record (k == 3) (if bitN x 125 then some (bitsN x 117 8) else none) (bitsTimer (bitsN x 100 17))
      (BitVec.ofNat 32 (bitsN x 57 32)) (entryPath x).pc)
/-- A live slot, as a path entry with a live bit. -/
def cLive : Codec (Option Path) :=
  ((Codec.big 2).pair Codec.bool).iso (fun p => ((p.map (pathEntry 0)).getD 0, p.isSome)) (fun r => if r.2 then some (entryPath r.1) else none)
/-- The stack area of a warp, of D entries. -/
def stackBytes (d : Nat) (m : Member) : List Byte := (List.range d).flatMap (fun k => leBytes 16 (entryBits (smFind m.pool k)))
/-- The pool of such an area. -/
def bytesStack (d : Nat) (bs : List Byte) : SMap Entry :=
  (List.range d).filterMap (fun k => (bitsEntry (leNat ((bs.drop (16 * k)).take 16))).map (fun e => (k, e)))

/-! ### Members -/

/-- A parked path. -/
def cParked : Codec Parked :=
  (((Codec.nat.pair Codec.nat).pair Codec.nat).pair (Codec.big 2)).iso
    (fun p => (match p.kind with | .fuse => ((0, 0), 0) | .bar sc n ph => ((sc + 1, n), ph), pathEntry 0 p.path))
    (fun r => { kind := if r.1.1.1 = 0 then .fuse else .bar (r.1.1.1 - 1) r.1.1.2 r.1.2, path := entryPath r.2 })
/-- A barrier arrival not yet waited for. -/
def cBarPart : Codec BarPart :=
  ((Codec.nat.pair Codec.nat).pair Codec.nat).iso (fun p => ((p.scope, p.num), p.phase)) (fun r => ⟨r.1.1, r.1.2, r.2⟩)
/-- What an outstanding operation of a saved member still is: an engine's, the matrix engine's, or a value to be written. -/
def cKind : Codec OutKind :=
  ((((Codec.nat.pair Codec.nat).pair Codec.nat).pair Codec.nat).pair (Codec.bits 32)).iso
    (fun k => match k with
      | .engine id => ((((0, id), 0), 0), 0)
      | .tile id => ((((1, id), 0), 0), 0)
      | .value v d => ((((2 + b2n d.signed, v.toNat), d.spec.toNat), d.size), d.mask)
      | _ => ((((4, 0), 0), 0), 0))
    (fun r => match r.1.1.1.1 with
      | 0 => .engine r.1.1.1.2
      | 1 => .tile r.1.1.1.2
      | 4 => .store
      | k => .value (BitVec.ofNat 64 r.1.1.1.2) { spec := BitVec.ofNat 9 r.1.1.2, size := r.1.2, signed := k == 3, mask := r.2 })
/-- An outstanding operation of a saved member. -/
def cOut : Codec OutOp :=
  ((((((Codec.nat.pair Codec.nat).pair Codec.nat).pair Codec.bool).pair Codec.bool).pair cKind).pair (Codec.bool.pair Codec.nat.opt)).iso
    (fun o => ((((((o.id, o.cls), o.scope), o.acq), o.rel), o.kind), (o.done, o.report)))
    (fun r => { id := r.1.1.1.1.1.1, cls := r.1.1.1.1.1.2, scope := r.1.1.1.1.2, acq := r.1.1.1.2, rel := r.1.1.2, kind := r.1.2
                done := r.2.1, report := r.2.2 })
/-- Pairs of numbers. -/
def cPairs : Codec (List (Nat × Nat)) := (Codec.nat.pair Codec.nat).list
/-- The control words of a member (R350): slots A and B, stack depth, exited mask, watchdog count, level, `epc`, `ecause`, `escr`, `%istat`,
`%fstat`, counters. -/
def ctlPut (depth : Nat) (m : Member) : List Nat :=
  cLive.put m.a ++ cLive.put m.b ++ [depth, m.exited.toNat, m.wdRemaining.toNat, m.level, m.epc.toNat, m.ecause.toNat, m.escr.toNat,
    m.r.istat.toNat, m.r.fstat.toNat] ++ (List.range 4).map m.count
/-- Read them back into a member. -/
def ctlGet (m : Member) (ws : List Nat) : Member × List Nat :=
  let a := cLive.get ws
  let b := cLive.get a.2
  let w (k : Nat) : Nat := b.2.getD k 0
  ({ m with
      a := a.1, b := b.1, exited := BitVec.ofNat 32 (w 1), wdCount := 1024 * m.wdBudget - w 2, level := w 3, epc := BitVec.ofNat 64 (w 4)
      ecause := BitVec.ofNat 64 (w 5), escr := BitVec.ofNat 64 (w 6)
      r := { m.r with istat := BitVec.ofNat 64 (w 7), fstat := BitVec.ofNat 64 (w 8) } }, b.2.drop 13)
/-- The rest of a member's control words. -/
def cMore : Codec Member :=
  (((((cParked.list.pair cBarPart.list).pair cOut.list).pair Codec.nat.list).pair (Codec.nat.pair Codec.nat.list)).pair Codec.bool).iso
    (fun m => (((((m.parked, m.bars), m.outs), m.reports), (m.wdBudget, m.made)), m.mxreset))
    (fun r => { parked := r.1.1.1.1.1, bars := r.1.1.1.1.2, outs := r.1.1.1.2, reports := r.1.1.2, wdBudget := r.1.2.1, made := r.1.2.2, mxreset := r.2 })
/-- A member's place in its team. -/
def cTeamMem : Codec Member :=
  (((((Codec.nat.pair Codec.bool).pair cPairs).pair cPairs).pair (Codec.nat.pair (Codec.nat.pair Codec.nat)).list).pair (cPairs.pair Codec.bool)).iso
    (fun m => (((((m.pos, m.priv), m.sent), m.ri), m.sending), (m.tsWait, m.moving)))
    (fun r => { pos := r.1.1.1.1.1, priv := r.1.1.1.1.2, sent := r.1.1.1.2, ri := r.1.1.2, sending := r.1.2, tsWait := r.2.1, moving := r.2.2 })
/-- The vector registers of a warp: register k of lane l at byte 128 k + 4 l, then a bitmap of the poison marks. -/
def vectorBytes (l : Launch) (m : Member) : List Byte :=
  (List.range (l.budget * 8)).flatMap (fun k => lanes32.flatMap (fun j => leBytes 4 (m.r.rv k j).toNat)) ++
  (List.range (l.budget * 32)).map (fun i => BitVec.ofNat 8 ((List.range 8).map (fun b => if m.r.vmark.contains (8 * i + b) then 2 ^ b else 0)).sum)
/-- How many bytes that is. -/
def vectorLen (l : Launch) : Nat := l.budget * 1056
/-- Read them back. -/
def vectorGet (l : Launch) (bs : List Byte) (m : Member) : Member :=
  let n := l.budget * 256
  { m with r := { m.r with
      v := (List.range n).map (fun i => (i, BitVec.ofNat 32 (leNat ((bs.drop (4 * i)).take 4))))
      vmark := (List.range n).filter (fun i => bitN (bs.getD (4 * n + i / 8) 0).toNat (i % 8)) } }
/-- A member's scalar words (R350): s registers, predicates, send registers; then the poison marks of the s registers. -/
def scalarPut (w : Workgroup) (m : Member) : List Nat :=
  (List.range 64).map (fun k => (m.r.rs k).toNat) ++ (List.range 7).map (fun k => (smGet 0 m.r.p k).toNat) ++
  (List.range 4).map (fun k => (smGet 0 w.sq k).toNat) ++ [((List.range 64).map (fun k => if m.r.smark.contains k then 2 ^ k else 0)).sum]
/-- How many words that is. -/
def scalarLen : Nat := 76
/-- Read them back. -/
def scalarGet (ws : List Nat) (m : Member) : Member :=
  { m with r := { m.r with
      s := (List.range 64).map (fun k => (k, BitVec.ofNat 64 (ws.getD k 0)))
      p := (List.range 7).map (fun k => (k, BitVec.ofNat 32 (ws.getD (64 + k) 0)))
      smark := (List.range 64).filter (bitN (ws.getD 75 0)) } }

/-! ### Team, matrix, queues -/

/-- A line-buffer entry (R233): line address and recorded outcomes. -/
def cEntry : Codec TeamEntry :=
  (((Codec.nat.pair Codec.nat).pair Codec.nat).pair (Codec.nat.pair cPc.opt).list).iso
    (fun e => (((e.line.toNat * 64, e.idx), e.start), e.outcome))
    (fun r => { line := BitVec.ofNat 54 (r.1.1.1 / 64), idx := r.1.1.2, start := r.1.2, outcome := r.2 })
/-- A stage of a ring (R237). -/
def cStage : Codec Stage :=
  (((Codec.bits 64).pair Codec.bool).pair Codec.bool).iso (fun g => ((g.desc, g.marker), g.phase)) (fun r => ⟨r.1.1, r.1.2, r.2⟩)
/-- An arrival in a send instance. -/
def cArrival : Codec Arrival :=
  ((((Codec.nat.pair Codec.nat).pair Codec.nat).pair (Codec.bits 64)).pair Codec.bool).iso
    (fun a => ((((a.inst, a.mem), a.op), a.payload), a.marker)) (fun r => ⟨r.1.1.1.1, r.1.1.1.2, r.1.1.2, r.1.2, r.2⟩)
/-- A ring (R237): SC, RC, stages; then its roles and arrivals. -/
def cRing : Codec Ring :=
  (((((Codec.nat.pair Codec.nat).pair cStage.list).pair Codec.nat).pair Codec.nat).pair cArrival.list).iso
    (fun r => (((((r.sc, r.rc), r.stages), r.srole), r.rrole), r.arrivals))
    (fun r => { sc := r.1.1.1.1.1, rc := r.1.1.1.1.2, stages := r.1.1.1.2, srole := r.1.1.2, rrole := r.1.2, arrivals := r.2 })
/-- The team section (R350): line-buffer entries, positions and read counts, rings, q0 to q15, drift bound; then what else a team holds. -/
def teamPut (t : Team) (ms : List Member) : List Nat :=
  cEntry.list.put t.entries ++ cTeamMem.list.put ms ++ cRing.list.put t.rings ++ (List.range 16).map (fun k => (smGet 0 t.q k).toNat) ++
  [t.drift, t.driftMax, t.tsPhase] ++ Codec.nat.list.put t.tsync ++ cPairs.put t.roles ++ cPairs.put t.qwr
/-- Read it back: the team and the members' places. -/
def teamGet (ws : List Nat) : Team × List Member :=
  let e := cEntry.list.get ws
  let m := cTeamMem.list.get e.2
  let r := cRing.list.get m.2
  let w (k : Nat) : Nat := r.2.getD k 0
  let ts := Codec.nat.list.get (r.2.drop 19)
  let ro := cPairs.get ts.2
  ({ entries := e.1, rings := r.1, q := (List.range 16).map (fun k => (k, BitVec.ofNat 64 (w k))), drift := w 16, driftMax := w 17, tsPhase := w 18
     tsync := ts.1, roles := ro.1, qwr := (cPairs.get ro.2).1 }, m.1)
/-- A location, as its workgroup names it: what is its own is found again where it comes back. -/
def cLoc (w : Workgroup) (wu : Nat) : Codec Loc :=
  (((Codec.nat.pair Codec.nat).pair Codec.nat).pair Codec.nat).iso
    (fun l => match l.place with
      | .glob => (((0, 0), l.bit), l.bits)
      | .sp c => if c = w.core ∧ 8 * w.spBase ≤ l.bit then (((1, 0), l.bit - 8 * w.spBase), l.bits) else (((2, c), l.bit), l.bits)
      | .reg _ m => (((3, m), l.bit), l.bits))
    (fun r => { place := (match r.1.1.1 with | 0 => .glob | 1 => .sp (spAway wu) | 2 => .sp r.1.1.2 | _ => .reg wu r.1.1.2), bit := r.1.2, bits := r.2 })
/-- The slices of an instruction's operands. -/
def cSlices (w : Workgroup) (wu : Nat) : Codec (List Slice) := (Codec.nat.pair (cLoc w wu)).list.list
/-- A matrix instruction that has not started: its slot, then what was read at its issue. -/
def cMx (w : Workgroup) (wu : Nat) : Codec MxOp :=
  let sl := cSlices w wu
  ((((((((Codec.big 2).pair (Codec.nat.pair Codec.nat)).pair (((Codec.big 32).pair (Codec.big 32)).pair (Codec.big 32))).pair
    ((Codec.big 4).pair (Codec.big 4))).pair (Codec.nat.pair Codec.nat.opt)).pair ((sl.pair sl).pair (sl.pair sl))).pair sl).pair
    ((Codec.nat.list.pair Codec.nat.list).pair Codec.bool)).iso
    (fun q => (((((((((encode q.instr).getD 0).toNat, (q.id, q.mem)), ((q.la.toNat, q.lb.toNat), q.ld.toNat)), (q.cba.toNat, q.cbb.toNat)),
      (q.kind, q.setslot)), ((q.src1, q.src2), (q.sc1, q.sc2))), q.dst), ((q.rdRegs, q.wrRegs), q.psn)))
    (fun r =>
      let h := r.1.1.1.1.1
      { id := h.1.2.1, mem := h.1.2.2, instr := decode (BitVec.ofNat 96 h.1.1), la := BitVec.ofNat 2048 h.2.1.1, lb := BitVec.ofNat 2048 h.2.1.2
        ld := BitVec.ofNat 2048 h.2.2, cba := BitVec.ofNat 256 r.1.1.1.1.2.1, cbb := BitVec.ofNat 256 r.1.1.1.1.2.2, kind := r.1.1.1.2.1
        setslot := r.1.1.1.2.2, src1 := r.1.1.2.1.1, src2 := r.1.1.2.1.2, sc1 := r.1.1.2.2.1, sc2 := r.1.1.2.2.2, dst := r.1.2
        rdRegs := r.2.1.1, wrRegs := r.2.1.2, psn := r.2.2 })
/-- The matrix section (R350): acc0 to acc7, kinds, poison flags, slot counts, the queue in issue order. -/
def matrixBytes (w : Workgroup) : List Byte :=
  (List.range 2048).flatMap (fun k => leBytes 4 (smGet 0 w.mx.acc k).toNat) ++
  wordBytes ((List.range 8).map (smGet 0 w.mx.kinds) ++ (List.range 8).map (fun t => b2n (w.mx.psn.contains t)) ++
    (List.range 8).map (smGet 0 w.mx.slots) ++ (cMx w 0).list.put w.mx.queue)
/-- Read it back. -/
def matrixGet (wu : Nat) (bs : List Byte) : Matrix :=
  let ws := bytesWords (bs.drop 8192)
  { acc := (List.range 2048).map (fun k => (k, BitVec.ofNat 32 (leNat ((bs.drop (4 * k)).take 4))))
    kinds := (List.range 8).map (fun k => (k, ws.getD k 0)), psn := (List.range 8).filter (fun k => ws.getD (8 + k) 0 != 0)
    slots := (List.range 8).map (fun k => (k, ws.getD (16 + k) 0)), queue := ((cMx {} wu).list.get (ws.drop 24)).1 }
/-- A receive queue's image (R350): its count, 32 payloads, and which were sent with `.rel`. -/
def queuePut (es : List QEntry) : List Nat :=
  es.length :: ((List.range 32).map (fun k => ((es.getD k { val := 0 }).val).toNat) ++
    [((List.range es.length).map (fun k => if (es.getD k { val := 0 }).rel then 2 ^ k else 0)).sum])
/-- Read it back. -/
def queueGet (ws : List Nat) : List QEntry :=
  (List.range (min (ws.headD 0) 32)).map (fun k => { val := BitVec.ofNat 64 (ws.getD (k + 1) 0), rel := bitN (ws.getD 33 0) k })
/-- The phase in progress of a barrier. -/
def cBarrier : Codec Barrier :=
  ((((Codec.nat.pair Codec.nat.list).pair Codec.nat.list).pair Codec.nat).pair Codec.nat.list).iso
    (fun b => ((((b.phase, b.arrived), b.counts), b.expect), b.broken)) (fun r => ⟨r.1.1.1.1, r.1.1.1.2, r.1.1.2, r.1.2, r.2⟩)
/-- A workgroup's own words, after those of its members: its place in the grid, its `%core`, its stop, its group's names, its barriers. -/
def cSelf : Codec Workgroup :=
  ((((Codec.nat.pair Codec.nat).pair (Codec.nat.pair Codec.nat)).pair Codec.bool).pair (Codec.nat.pair cBarrier).list).iso
    (fun w => ((((w.x, w.y), (w.z, w.lcore)), w.stop == .ended), w.bars))
    (fun r => { x := r.1.1.1.1, y := r.1.1.1.2, z := r.1.1.2.1, lcore := r.1.1.2.2, stop := if r.1.2 then .ended else .halt, bars := r.2 })

/-! ### The area (R350) -/

/-- Bytes 0 to 63 of a launch's descriptor (R315). -/
def descBytes (l : Launch) : List Byte :=
  [l.code.toNat * 64, l.const, l.clen, l.team, l.gx + l.gy * 2 ^ 21 + l.gz * 2 ^ 42,
   l.warps + l.budget * 2 ^ 8 + l.stack * 2 ^ 16 + l.scr * 2 ^ 24 + l.clus * 2 ^ 33 + b2n l.mtx * 2 ^ 36 + b2n l.rst * 2 ^ 37 +
     l.policy * 2 ^ 38 + l.itrap * 2 ^ 40, l.wdog, 0].flatMap (leBytes 8)
/-- The outstanding section (R350): of each counted command its slot, descriptor image, byte count, next row, pending report. -/
def outstandingPut (es : List EngOp) : List Nat :=
  es.flatMap (fun e => (Codec.big 2).put e.slot ++ Codec.nat.list.put (bytesWords e.image) ++
    [(e.expect + 7) / 8, ((e.moves.map (·.row)).min?).getD 0, (e.report.map (· + 1)).getD 0])
/-- The members of a workgroup in `%warp` order. -/
def State.orderedMembers (s : State) (w : Workgroup) : List Member := sortBy (fun a b => decide (a.id ≤ b.id)) (s.membersOf w.wu)
/-- The sections of a workgroup's save area, in kind order. -/
def State.sections (s : State) (w : Workgroup) : List (Nat × List Byte) :=
  let ms := if w.stop = .ended then [] else s.orderedMembers w
  let warps := ms.filter (fun m => m.kind = 0)
  let foot := 1024 * w.launch.scr
  let ops := s.eng.ops.filter (fun e => decide (e.owner.wu = w.wu) && e.node.isNone && e.forNode.isNone)
  [(1, descBytes w.launch ++ w.launch.args.take 256),
   (2, wordBytes (ms.flatMap (fun m => ctlPut (m.pool.filter (fun e => match e.2 with | .path _ _ => true | _ => false)).length m) ++
      ms.flatMap cMore.put ++ cSelf.put w)),
   (3, warps.flatMap (vectorBytes w.launch)), (4, wordBytes (ms.flatMap (scalarPut w))),
   (5, (List.range 16).flatMap (fun k => leBytes 256 (smGet 0 w.lregs k).toNat) ++ (List.range 16).flatMap (fun k => leBytes 32 (smGet 0 w.cbs k).toNat))] ++
  (match w.team with | some t => [(6, wordBytes (teamPut t ms))] | none => []) ++ (if w.launch.mtx then [(7, matrixBytes w)] else []) ++
  [(8, memGets (smGet [] s.mem.sp w.core) w.spBase foot ++ warps.flatMap (stackBytes w.launch.stack) ++
      (List.range w.launch.scr).map (fun i => BitVec.ofNat 8 ((List.range 8).map (fun b =>
        if s.mem.spPsn.contains (w.core, w.spBase / 128 + 8 * i + b) then 2 ^ b else 0)).sum)),
   (9, wordBytes ((List.range 4).flatMap (fun k => queuePut (smGet [] w.iq k))))] ++
  (if ops = [] then [] else [(10, wordBytes (outstandingPut ops))])
/-- Pad with zeros to a multiple. -/
def padTo (k : Nat) (bs : List Byte) : List Byte := bs ++ List.replicate ((k - bs.length % k) % k) 0
/-- Lay sections out from an offset: directory words, bytes. -/
def layOut : Nat → List (Nat × List Byte) → List Nat × List Byte
  | _, [] => ([], [])
  | o, (k, bs) :: rest =>
    let p := padTo 64 bs
    let r := layOut (o + p.length) rest
    ([o, k * 2 ^ 32 + bs.length] ++ r.1, p ++ r.2)
/-- WHY: the stop's cause, and what the area holds. -/
def State.whyBits (s : State) (w : Workgroup) : Nat :=
  (match w.stop with | .fault _ => 1 | .brk => 2 | .halt => 4 | .preempt => 8 | _ => 0) + 16 * b2n w.team.isSome + 32 * b2n w.launch.mtx +
  64 * b2n (s.eng.ops.any (fun e => decide (e.owner.wu = w.wu) && (match e.rly with | some y => y.suspended | none => false)))
/-- The bytes of an area from byte 64 on. -/
def State.areaTail (s : State) (w : Workgroup) : List Byte :=
  let r := layOut 512 (s.sections w)
  let dir := r.1.flatMap (leBytes 8)
  dir ++ List.replicate (448 - dir.length) 0 ++ (padTo 4096 (List.replicate 512 0 ++ r.2)).drop 512
/-- The save area of a workgroup, whole. -/
def State.saveArea (s : State) (w : Workgroup) (glast : Nat) : List Byte :=
  let tail := s.areaTail w
  [(tail.length + 64) * 2 ^ 32 + (s.sections w).length * 2 ^ 8 + 1, w.wgid * 2 ^ 32 + w.ctx, w.crank * 2 ^ 10 + glast * 2 ^ 8 + s.whyBits w, w.nodeId].flatMap
    (leBytes 8) ++ shaBytes tail ++ tail
/-- R282: the workgroups of a cluster group in rank order, one for each area: of a rank that has ended, what is left of it. -/
def State.areaGroup (s : State) (w : Workgroup) : List Workgroup :=
  (List.range w.group.length).map (fun k =>
    let wu := w.group.getD k 0
    match s.findWu wu with
    | some x => if x.stop = .ended then { x with members := [], mx := {} } else x
    | none => { w with wu := wu, wgid := wu % 2 ^ 32, crank := k, members := [], mx := {}, iq := [], bars := [], stop := .ended })

/-! ### Reading an area back (R351) -/

/-- The bytes of a section of an area, by its kind. -/
def areaSection (bs : List Byte) (kind : Nat) : Option (List Byte) :=
  ((List.range (bitsN (wordAt bs 0) 8 8)).find? (fun j => bitsN (wordAt bs (9 + 2 * j)) 32 8 == kind)).map (fun j =>
    (bs.drop (wordAt bs (8 + 2 * j))).take (wordAt bs (9 + 2 * j) % 2 ^ 32))
/-- The same, empty when there is none. -/
def areaBytes (bs : List Byte) (kind : Nat) : List Byte := (areaSection bs kind).getD []
/-- R351 step 4: the directory is in order, its sections lie in the area, those that every area has are there with the lengths that R350
gives them, the launch is one that R316 accepts, and every layout image is well-formed. -/
def areaOk (bs : List Byte) : Bool :=
  let n := bitsN (wordAt bs 0) 8 8
  let size := wordAt bs 0 / 2 ^ 32
  let kind (j : Nat) : Nat := bitsN (wordAt bs (9 + 2 * j)) 32 8
  let off (j : Nat) : Nat := wordAt bs (8 + 2 * j)
  let len (j : Nat) : Nat := wordAt bs (9 + 2 * j) % 2 ^ 32
  let desc := areaBytes bs 1
  bitsN (wordAt bs 0) 16 16 == 0 && bitsN (wordAt bs 1) 22 10 == 0 && wordAt bs 2 / 2 ^ 12 == 0 && !(bitN (wordAt bs 2) 7) &&
  decide (1 ≤ n) && decide (n ≤ 16) &&
  (List.range n).all (fun j => off j % 64 == 0 && decide (512 ≤ off j) && decide (off j + len j ≤ size) && wordAt bs (9 + 2 * j) / 2 ^ 40 == 0 &&
    decide (1 ≤ kind j) && decide (kind j ≤ 10) && (j == 0 || decide (kind (j - 1) < kind j))) &&
  [1, 2, 3, 4, 5, 8, 9].all (fun k => (areaSection bs k).isSome) && decide (64 ≤ desc.length) && decide (desc.length ≤ 320) &&
  !(launchZeros desc) && !(launchRange (launchOf desc)) && (areaBytes bs 5).length == 4608 && (areaBytes bs 9).length == 1088 &&
  (List.range 16).all (fun k =>
    let img := leNat (((areaBytes bs 5).drop (256 * k)).take 256)
    img == 0 || lyWellFormed img)
/-- R351 steps 2 to 4 for one area. -/
def State.areaGood (s : State) (bs : List Byte) : Bool :=
  wordAt bs 0 % 256 == 1 && bitsN (wordAt bs 1) 0 16 == s.wg.ctx % 65536 && bitsN (wordAt bs 1) 16 6 == partOf s.wg.ctx &&
  shaBytes (bs.drop 64) == (bs.drop 32).take 32 && areaOk bs
/-- An area stands for a rank that had ended. -/
def areaEnded (bs : List Byte) : Bool := areaBytes bs 3 == [] && areaBytes bs 4 == []
/-- The workgroup that is away whose area this is, unchanged since it was written: it holds everything that has arrived (R348). -/
def State.areaSaved (s : State) (bs : List Byte) : Option Workgroup :=
  s.eng.saves.find? (fun w => decide (w.wu = wuOf s.wg.ctx (wordAt bs 1 / 2 ^ 32)) && w.area == some (sha256 (bs.drop 64)))
/-- Read n members' control words. -/
def ctlGets : List Member → List Nat → List Member × List Nat
  | [], ws => ([], ws)
  | m :: ms, ws => let r := ctlGet m ws; let q := ctlGets ms r.2; (r.1 :: q.1, q.2)
/-- An operation of a member whose command is over. -/
def State.overOut (s : State) (o : OutOp) : OutOp :=
  match o.kind with | .engine id => if s.eng.ops.any (fun e => e.id = id) then o else { o with done := true } | _ => o
/-- The launch of an area: its constant segment and its team record are read anew (R315, R316, R349). -/
def State.areaLaunch (s : State) (bs : List Byte) : Launch :=
  let l := launchOf (areaBytes bs 1)
  let get (r : Except (Nat × Nat) (List Byte)) : List Byte := match r with | .ok b => b | .error _ => []
  { l with dev := s.wg.launch.dev, args := l.args ++ get (s.readCtx s.wg.ctx (l.const % 2 ^ 60) l.clen)
           teamRec := if l.team = 0 then [] else get (s.readCtx s.wg.ctx l.team 64) }
/-- The workgroup that an area holds, under a new WGID. -/
def State.areaWg (s : State) (bs : List Byte) (wgid : Nat) : Workgroup :=
  let ctx := s.wg.ctx
  let wu := wuOf ctx wgid
  let l := s.areaLaunch bs
  let nid := wordAt bs 3
  let ref := ((s.eng.nodes.find? (fun n => decide (n.ref.ctx = ctx) && decide (nodeId n = nid))).map (·.ref)).getD ⟨ctx, 0, nid / 4096⟩
  let names := sortBy (fun a b => decide (a.1 ≤ b.1)) l.memberList
  let ms0 := names.map (fun mk => ({ (startMember l mk) with a := none } : Member))
  let c := ctlGets ms0 (bytesWords (areaBytes bs 2))
  let more := getItems cMore ms0.length c.2
  let self := (cSelf.get more.2).1
  let team := (areaSection bs 6).map (fun b => teamGet (bytesWords b))
  let sc := bytesWords (areaBytes bs 4)
  let warp (k : Nat) : Nat := ((ms0.take k).filter (fun m => m.kind = 0)).length
  let mem (k : Nat) : Member :=
    let m := c.1.getD k {}
    let x := more.1.getD k {}
    let tm := (team.bind (fun r => r.2[k]?)).getD {}
    let m1 := { m with
      parked := x.parked, bars := x.bars, outs := x.outs.map s.overOut, reports := x.reports, wdBudget := x.wdBudget, made := x.made
      mxreset := x.mxreset, pos := tm.pos, priv := tm.priv, sent := tm.sent, ri := tm.ri, sending := tm.sending, tsWait := tm.tsWait
      moving := tm.moving }
    let m2 := scalarGet ((sc.drop (scalarLen * k)).take scalarLen) m1
    if m.kind = 0 then
      let m3 := vectorGet l ((areaBytes bs 3).drop (vectorLen l * warp k)) m2
      { m3 with pool := bytesStack l.stack ((areaBytes bs 8).drop (1024 * l.scr + 16 * l.stack * warp k)) }
    else m2
  let ly := areaBytes bs 5
  let iq := bytesWords (areaBytes bs 9)
  { wu := wu, wgid := wgid, ctx := ctx, node := ref, nodeId := nid, launch := l, crank := bitsN (wordAt bs 2) 10 2, x := self.x, y := self.y, z := self.z
    lcore := self.lcore, bars := self.bars, members := (List.range ms0.length).map mem, stop := self.stop, team := team.map (·.1)
    lregs := (List.range 16).map (fun k => (k, BitVec.ofNat 2048 (leNat ((ly.drop (256 * k)).take 256))))
    cbs := (List.range 16).map (fun k => (k, BitVec.ofNat 256 (leNat ((ly.drop (4096 + 32 * k)).take 32))))
    sq := (List.range 4).map (fun k => (k, BitVec.ofNat 64 (sc.getD (71 + k) 0)))
    iq := (List.range 4).map (fun k => (k, queueGet (iq.drop (34 * k))))
    mx := ((areaSection bs 7).map (matrixGet wu)).getD {} }
/-- A workgroup read from an area is away, with its scratchpad. -/
def State.addSaved (s : State) (bs : List Byte) (w : Workgroup) : State :=
  let b := areaBytes bs 8
  let foot := 1024 * w.launch.scr
  let at' := spAway w.wu
  let psn := (List.range (8 * w.launch.scr)).filter (fun i => bitN (b.getD (foot + 16 * w.launch.stack * w.launch.warps + i / 8) 0).toNat (i % 8))
  { s with
    eng := { s.eng with saves := s.eng.saves ++ [w] }
    mem := { s.mem with
      sp := smPut [] s.mem.sp at' (memPuts [] 0 (b.take foot))
      spPsn := s.mem.spPsn ++ psn.map (fun i => (at', i)) } }

end Sys2Proof.Machine
end

