-- ==== Sys2Proof/Machine/System.lean ====
section
/-!
DEFINITION. System.lean: system and trap instructions, opcodes 0xD0 to 0xD8, and the save area (R277 to R285, R350, R351).
-/
namespace Sys2Proof.Machine

/-! ### Checks (R277, R278) -/

/-- The fields that a format S entry leaves zero: whether each is used. -/
def zerosS (f : FS) (sub csr src dst imm : Bool) : Bool :=
  f.zero == 0 && (sub || f.sub == 0) && (csr || f.csr == 0) && (src || f.src == 0) && (dst || f.dst == 0) && (imm || f.imm == 0)
/-- A system slot: its checks; nothing under a false guard; PRIV below level `lvl`; then its effect. -/
def runS (s : State) (h : Hdr) (uses : List SpecUse) (ok : Bool) (lvl : Nat) (go : State → State) : Out :=
  runSlot s (issueFault s h (classOk s .sys false h.role.toNat) uses (needs ok)) (s.hazard uses)
    (fun s => if !(s.guardLow h) then s.advance
      else if s.m.level < lvl then s.fault PRIV
      else if s.marked uses [lowLane s.active] then s.fault POISON else go s)

/-! ### Control and status registers (R279) -/

/-- The numbers that exist. -/
def csrKnown (n : Nat) : Bool := decide (n ≤ 3) || (decide (0x100 ≤ n) && decide (n ≤ 0x103))
/-- The numbers that may be written. -/
def csrWritable (n : Nat) : Bool := n == 1 || n == 2 || n == 0x100 || n == 0x102
/-- The privilege level a number needs. -/
def csrLevel (n : Nat) : Nat := if n < 0x100 then 0 else 1
/-- What a number reads. -/
def State.csrRead (s : State) (n : Nat) : W64 :=
  match n with
  | 0x000 => s.core.cyc
  | 0x001 => s.rf.istat
  | 0x002 => s.rf.fstat
  | 0x003 => s.m.wdRemaining
  | 0x100 => s.m.epc
  | 0x101 => s.m.ecause
  | 0x102 => s.m.escr
  | 0x103 => s.ctx.evbase
  | _ => 0
/-- A write of a writable number; a status register keeps the bits it defines (R8). DESIGN CHOICE (log 120): the epc register keeps and
reads back all 64 bits, those that R86 calls zero included; `eret` is what looks at them. -/
def State.csrWrite (s : State) (n : Nat) (x : W64) : State :=
  match n with
  | 0x001 => s.modR (fun r => { r with istat := x &&& 0x3 })
  | 0x002 => s.modR (fun r => { r with fstat := x &&& 0x3F })
  | 0x100 => s.modM (fun m => { m with epc := x })
  | 0x102 => s.modM (fun m => { m with escr := x })
  | _ => s
/-- `csrr` (R278, R279). -/
def execCsrr (h : Hdr) (f : FS) (s : State) : Out :=
  runS s h [{ spec := f.dst, wr := true }] (zerosS f false true false true false && isS f.dst && csrKnown f.csr.toNat) (csrLevel f.csr.toNat)
    (fun s => (s.modR (·.ws (f.dst.toNat - 256) (s.csrRead f.csr.toNat))).advance)
/-- `csrw` (R278, R279). -/
def execCsrw (h : Hdr) (f : FS) (s : State) : Out :=
  runS s h [{ spec := f.src, ok511 := true }]
    (zerosS f false true true false (f.src == 511) && (isS f.src || isQ f.src || f.src == 511) && csrKnown f.csr.toNat && csrWritable f.csr.toNat)
    (csrLevel f.csr.toNat) (fun s => (s.csrWrite f.csr.toNat (s.rd64 f.src f.imm false (lowLane s.active))).advance)

/-! ### The handler (R280) -/

/-- `svc` (R280). -/
def execSvc (h : Hdr) (f : FS) (s : State) : Out :=
  let n := f.imm.toNat
  runS s h [] (zerosS f false false false false true && decide (n < 65536)) 0 (fun s =>
    if s.m.level ≠ 0 then s.fault PRIV
    else if !s.m.whole then s.fault ILLOP
    else if s.ctx.evbase = 0 then
      s.raise { code := PROGTRAP, detail := n, lanes := if s.m.scalar then 1 else s.active, flags := 4 }
    else match pcOf s.ctx.evbase with
      | none => s.fault ILLTARGET
      | some p =>
        if !(s.tgt p) then s.noReach p
        else ((s.modM (fun m => { m with epc := m.path.pc.next.word, ecause := BitVec.ofNat 64 n, level := 1 })).setPc p).goPrivate)
/-- `eret` (R280). -/
def execEret (h : Hdr) (f : FS) (s : State) : Out :=
  runS s h [] (zerosS f false false false false false) 1 (fun s =>
    match pcOf s.m.epc with
    | none => s.fault ILLTARGET
    | some p => (s.modM (fun m => { m with level := 0 })).setPc p)

/-! ### Translation (R281) -/

/-- A held translation covers an address. -/
def TlbEntry.holds (t : TlbEntry) (va : Nat) : Bool :=
  if t.large then t.page / 8192 == bitsN va 29 31 else t.page == bitsN va 16 44
/-- Drop translations of the issuer's context. -/
def State.tlbDrop (s : State) (p : TlbEntry → Bool) : State :=
  { s with mem := { s.mem with tlb := s.mem.tlb.filter (fun t => !(decide (t.ctx = s.wg.ctx) && p t)) } }
/-- `tlbi.all` (R281). -/
def execTlbiAll (h : Hdr) (f : FS) (s : State) : Out :=
  runS s h [] (zerosS f false false false false false) 1 (fun s => (s.tlbDrop (fun _ => true)).advance)
/-- `tlbi.page` (R281). -/
def execTlbiPage (h : Hdr) (f : FS) (s : State) : Out :=
  runS s h [{ spec := f.src }] (zerosS f true false true false false && f.sub == 1 && isS f.src) 1 (fun s =>
    let va := (s.rf.rs (f.src.toNat - 256)).toNat
    (s.tlbDrop (·.holds va)).advance)

/-! ### `ctxsv` (R282) -/

/-- Write bytes at a virtual address now, as relaxed accesses of the issuer at `.pkg` (R282); the faults of reaching them. -/
def State.writeNow (s : State) (a : Nat) (bs : List Byte) (go : State → State) : State :=
  match s.parts 1 a bs.length 2 with
  | .error e => s.faultAt e a
  | .ok ps =>
    if ps.any (fun p => s.lyHit none p.2.1 p.2.2) then s.faultAt (LYBUSY, 0) a
    else s.reach (pagesOf (ps.filterMap (·.2.2))) (fun s => go (s.putTable ps bs))
/-- The workgroup that `ctxsv` saves: of the issuer's context, not of its own cluster group, and stopped by a fault, `brk` or `halt`. -/
def State.savable (s : State) (id : Nat) : Option Workgroup :=
  if 2 ^ 32 ≤ id then none
  else match s.wgs.find? (fun w => w.wu = wuOf s.wg.ctx id) with
    | none => none
    | some w => if w.group.contains s.wg.wu then none else match w.stop with
      | .fault _ => some w
      | .brk => some w
      | .halt => some w
      | _ => none
/-- The areas of a workgroup's cluster group, in rank order (R282). -/
def State.groupBytes (s : State) (w : Workgroup) : List Byte := (s.areaGroup w).flatMap (fun x => s.saveArea x (w.group.length - 1))
/-- R282: a `ctxsv` that faults has stopped nothing: the workgroups that its wait stopped go on (log 131). -/
def State.unstopGroup (s : State) (w : Workgroup) : State :=
  (s.liveGroup w).foldl (fun t x => t.modWu x.wu (fun y => if y.stop = .preempt then { y with stop := .running } else y)) s
/-- The group leaves, each workgroup with the digest of its area. -/
def State.departWith (s : State) (w : Workgroup) : State :=
  let ds := (s.liveGroup w).map (fun x => (x.wu, sha256 (s.areaTail x)))
  let s1 := s.saveGroup w
  let mark (x : Workgroup) : Workgroup := match ds.find? (fun d => d.1 = x.wu) with | some d => { x with area := some d.2 } | none => x
  { s1 with eng := { s1.eng with saves := s1.eng.saves.map mark } }
/-- `ctxsv` (R282): it stops the rest of the cluster group, waits until the group is quiet, writes the areas in rank order, and the group
leaves. Where the area cannot be written it faults first. -/
def execCtxsv (h : Hdr) (f : FS) (s : State) : Out :=
  let wsp : Spec := BitVec.ofNat 9 (f.imm.toNat % 512)
  runS s h [{ spec := f.src }, { spec := wsp }, { spec := f.dst, wr := true }]
    (zerosS f false false true true true && isS f.src && isS f.dst && isS wsp && decide (f.imm.toNat < 512)) 1 (fun s =>
    let a := (s.rf.rs (f.src.toNat - 256)).toNat
    if a % 4096 ≠ 0 then s.faultAt (ALIGN, 0) a
    else match s.savable (s.rf.rs (wsp.toNat - 256)).toNat with
      | none => s.faultAt (PERM, 2) a
      | some w => (match s.parts 1 a (s.groupBytes w).length 2 with
        | .error e => (s.unstopGroup w).faultAt e a
        | .ok _ =>
          let s1 := s.preemptGroup w
          if !(s1.mayDepart w) then s1
          else
            let s2 := (s1.liveGroup w).foldl (fun t x => t.suspendRly x.wu) s1
            let bs := s2.groupBytes w
            s2.writeNow a bs (fun t =>
              ((t.departWith w).modR (·.ws (f.dst.toNat - 256) (BitVec.ofNat 64 bs.length))).tick.advance)))

/-! ### `ctxld` (R282, R351) -/

/-- Read an area: its bytes, and the virtual addresses read. -/
def State.readArea (s : State) (a : Nat) : Except (Nat × Nat) (List Byte × List Nat) :=
  match s.peek 1 a 512 with
  | .error f => .error f
  | .ok p =>
    let size := wordAt p.bytes 0 / 2 ^ 32
    if p.psn then .error (POISON, 0)
    else if size % 4096 ≠ 0 ∨ size = 0 then .error (PERM, 2)
    else match s.peek 1 a size with
      | .error f => .error f
      | .ok q => if q.psn then .error (POISON, 0) else .ok (q.bytes, q.vas)
/-- The areas of a group from the first on, each as R351 wants it, and the virtual addresses read; `k` areas are left. -/
def State.readGroup (s : State) (glast nid : Nat) : Nat → Nat → Nat → Except (Nat × Nat) (List (List Byte) × List Nat)
  | 0, _, _ => .ok ([], [])
  | k + 1, rank, a => match s.readArea a with
    | .error f => .error f
    | .ok (bs, vas) =>
      if !(s.areaGood bs) then .error (PERM, 2)
      else if bitsN (wordAt bs 2) 10 2 ≠ rank ∨ bitsN (wordAt bs 2) 8 2 ≠ glast ∨ wordAt bs 3 ≠ nid then .error (PERM, 2)
      else match s.readGroup glast nid k (rank + 1) (a + wordAt bs 0 / 2 ^ 32) with
        | .error f => .error f
        | .ok r => .ok (bs :: r.1, vas ++ r.2)
/-- Bring the workgroup of an area back among those that are away, under the next WGID (R282, R342): the state, and its name; 0 for a rank
that had ended. -/
def State.bringArea (s : State) (bs : List Byte) : State × Nat :=
  if areaEnded bs then (s, 0)
  else
    let wgid := s.nextWgid s.wg.ctx
    let new := wuOf s.wg.ctx wgid
    let t := s.takeWgid s.wg.ctx
    match s.areaSaved bs with
    | some w => (t.renameWu w.wu new, new)
    | none => (t.addSaved bs (s.areaWg bs wgid), new)
/-- Bring back a group of areas, in rank order: the state, and the names. -/
def State.bringAreas (s : State) (areas : List (List Byte)) : State × List Nat :=
  areas.foldl (fun acc bs => let r := acc.1.bringArea bs; (r.1, acc.2 ++ [r.2])) (s, [])
/-- Restore the workgroups of a group of areas: none while no die can hold them. -/
def State.loadGroup (s : State) (areas : List (List Byte)) : Option (State × Nat) :=
  let r := s.bringAreas areas
  let back := r.2.filterMap (fun wu => if wu = 0 then none else r.1.eng.saves.find? (fun x => x.wu = wu))
  (r.1.restoreGroup (back.map (fun w => { w with stop := .running, group := r.2, area := none }))).map (fun t => (t, r.2.headD 0 % 2 ^ 32))
/-- `ctxld` (R282, R351). -/
def execCtxld (h : Hdr) (f : FS) (s : State) : Out :=
  runS s h [{ spec := f.src }, { spec := f.dst, wr := true }] (zerosS f false false true true false && isS f.src && isS f.dst) 1 (fun s =>
    let a := (s.rf.rs (f.src.toNat - 256)).toNat
    if a % 4096 ≠ 0 then s.faultAt (ALIGN, 0) a
    else match s.peek 1 a 512 with
      | .error e => s.faultAt e a
      | .ok hd =>
        let glast := bitsN (wordAt hd.bytes 2) 8 2
        match s.readGroup glast (wordAt hd.bytes 3) (glast + 1) 0 a with
        | .error e => s.faultAt e a
        | .ok (areas, vas) =>
          if s.m.acqPending s.uid then s
          else s.reach (pagesOf vas) (fun s => match s.loadGroup areas with
            | none => s
            | some (t, id) => (t.modR (·.ws (f.dst.toNat - 256) (BitVec.ofNat 64 id))).advance))

/-! ### `halt` and `hint` (R283, R284) -/

/-- `halt` (R283): the workgroup stops at the next slot and waits for the host. -/
def execHalt (h : Hdr) (f : FS) (s : State) : Out :=
  runS s h [] (zerosS f false false false false false) 1 (fun s =>
    if s.holdFull (dieOf s.wg.core) then s
    else ((s.postFault s.m.path.pc { code := PROGTRAP, lanes := if s.m.scalar then 1 else s.active, flags := 8 } false).modW
      (fun w => { w with stop := .halt })).advance)
/-- `hint` (R284): no architectural state. -/
def execHint (h : Hdr) (f : FS) (s : State) : Out :=
  runS s h [] (zerosS f true false false false false && decide (f.sub.toNat ≤ 2)) 0 State.advance

end Sys2Proof.Machine
end

