-- ==== Sys2Proof/Machine/Sched.lean ====
section
/-!
DEFINITION. Sched.lean: the task schedulers and the distributors: queue entries, nodes that launch and finish, cluster groups dealt and
placed, resources released (R122, R272, R317 to R324, R349). An event whose condition does not hold changes nothing.
-/
namespace Sys2Proof.Machine

/-! ### Launch queues (R318, R319) -/

/-- Whether the entry taken before it from the same queue lets an entry be taken: it has finished, or been rejected or withdrawn; or, for
an entry with CONC, it has launched. -/
def State.prevDone (s : State) (lq : LQueue) (conc : Bool) : Bool :=
  match lq.prev with
  | none => true
  | some r => (match s.eng.nodes.find? (fun n => n.ref = r && n.gen = lq.prevGen) with
    | none => true
    | some n => n.gone || (conc && decide (n.st = .launched)))
/-- Pass over the head entry of a queue, changing what it keeps of the entry before. -/
def State.passEntry (s : State) (ctx q : Nat) (f : LQueue → LQueue) : State :=
  s.modCtx ctx (fun c =>
    let lq := smGet {} c.lq q
    let lq1 := f { lq with head := lq.head + 1, withdrawn := lq.withdrawn.filter (· != lq.head.toNat) }
    { c with lq := smIns c.lq q lq1 })
/-- The lowest of R317's reasons that an entry's own fields give. -/
def entryReason (e : Nat × Nat) : Option Nat :=
  if bitsN e.2 2 30 ≠ 0 ∨ bitsN e.1 60 4 ≠ 0 then some 2 else if e.1 % 64 ≠ 0 then some 3 else none
/-- The launch of a queue entry, or the reason that rejects it (R317, R344). -/
def State.entryLaunch (s : State) (c : Ctx) (ctx q : Nat) (e : Nat × Nat) : Except Nat Launch :=
  if c.stopped then .error 1
  else match s.takeLaunch ctx (devOf c.mode q) (e.1 % 2 ^ 60), entryReason e with
    | .error (r, _, _), none => .error r
    | .error (r, _, _), some k => .error (min r k)
    | .ok _, some k => .error k
    | .ok l, none => .ok l
/-- Take the head entry of a queue: a rejected one gives a launch-error record; another becomes an armed node (R319). -/
def State.takeEntry (s : State) (c : Ctx) (ctx q : Nat) (e : Nat × Nat) : State :=
  let die := s.queueDie c q
  match s.entryLaunch c ctx q e with
  | .error r =>
    (s.passEntry ctx q (fun x => { x with prev := none })).postCtx die 2 ctx [r * 2 ^ 48, e.1, e.2 / 2 ^ 32 * 2 ^ 32 + q]
  | .ok l => (match s.freeSlot ctx die with
    | none => s
    | some k =>
      let ref : NRef := ⟨ctx, die, k⟩
      let n : Node := { ref := ref, gen := 0, st := .armed, tag := e.2 / 2 ^ 32, kind := 1, desc := e.1, launch := l, queue := some q, evt := bitN e.2 1 }
      (s.addNode n).passEntry ctx q (fun x => { x with prev := some ref, prevGen := smGet 0 s.eng.gens (slotKey ref) }))
/-- `LAUNCH_ENTRY_TAKE` (R319): a withdrawn entry is skipped; the head entry is taken once the one before it lets it. -/
def execLaunchEntryTake (ctx q : Nat) (s : State) : Out := .next (
  match smFind s.ctxs ctx with
  | none => s
  | some c =>
    let lq := smGet {} c.lq q
    if 4 ≤ q ∨ lq.size = 0 ∨ lq.head = lq.tail then s
    else if lq.withdrawn.contains lq.head.toNat then s.passEntry ctx q id
    else
      let e := s.lqEntry lq lq.head.toNat
      if s.prevDone lq (bitN e.2 0) then s.takeEntry c ctx q e else s)

/-! ### Nodes (R272, R320, R321) -/

/-- A node may launch: armed, with no predecessor and no byte to wait for. -/
def Node.ready (n : Node) : Bool := decide (n.st = .armed) && n.pred == 0 && n.bytes == 0
/-- The engine command of a copy node. -/
def Node.copyOp (n : Node) (id : Nat) (us : List Nat) : EngOp :=
  { id := id, units := us, owner := n.owner, ctx := n.ref.ctx, die := n.ref.die, fn := 0, forNode := some (n.ref, n.gen), moves := n.engMoves
    expect := n.expect, flt := n.flt }
/-- Launch a ready node: an empty one finishes in the same step; a kernel is ready to be dealt; a copy goes to a copy engine with a place free (R330). -/
def State.launchNode (s : State) (n : Node) : State :=
  match n.kind with
  | 0 => s.finishNode n
  | 1 =>
    let co := decide (n.launch.groups ≤ s.deviceRoom n.ref.ctx n.launch true)
    (s.modNode n.ref (fun x => { x with st := .launched, seq := s.uid, coResident := co })).tick
  | _ =>
    let us := s.copyUnits n.ref.die (n.engMoves.flatMap (·.locs))
    if s.unitsFull us then s
    else
      let s1 := s.modNode n.ref (fun x => { x with st := .launched, engMoves := [] })
      ({ s1 with eng := { s1.eng with ops := s1.eng.ops ++ [n.copyOp s.uid us] } } : State).tick
/-- `NODE_LAUNCH` (R272). -/
def execNodeLaunch (n : NRef) (s : State) : Out := .next (
  match s.findNode n with
  | none => s
  | some x => if x.ready then s.launchNode x else s)
/-- A write of a workgroup of a kernel is still on its way to the memory of `.pkg`, or to its home in another package (R321). -/
def State.kernelWrites (s : State) (n : Node) : Bool :=
  let mine (wu : Nat) : Bool := (s.findWu wu).any (fun w => decide (w.node = n.ref) && decide (w.nodeId = nodeId n))
  s.mem.writes.any (fun w => mine w.owner.wu && (!(s.homed w.addr) || decide (w.stage.num < 3) || decide (w.place ≠ .glob)))
/-- `NODE_FINISH` (R321): every workgroup of the kernel has ended and its writes are in place. -/
def execNodeFinish (n : NRef) (s : State) : Out := .next (
  match s.findNode n with
  | none => s
  | some x =>
    if x.kind = 1 ∧ x.st = .launched ∧ x.undealt = 0 ∧ x.dealt = [] ∧ x.launch.gx * x.launch.gy * x.launch.gz ≤ x.ended ∧ !(s.kernelWrites x) then
      s.finishNode x
    else s)

/-! ### Dealing and placing (R322 to R324) -/

/-- The master distributor of a kernel's device: that of its lowest live die. -/
def State.masterOf (s : State) (n : Node) : Option Nat := (s.liveDies n.ref.ctx n.launch.dev).head?
/-- A kernel that still has cluster groups to deal. -/
def Node.dealing (n : Node) : Bool := n.kind == 1 && decide (n.st = .launched) && n.undealt != 0
/-- Kernels are dealt in the order in which they launched (R322). -/
def State.dealNext (s : State) (n : Node) : Bool :=
  n.dealing && s.eng.nodes.all (fun x => !x.dealing || decide (n.seq ≤ x.seq) || decide (s.masterOf x ≠ s.masterOf n))
/-- A die holds a cluster group that it has not placed. -/
def State.holdsUnplaced (s : State) (die : Nat) : Bool := s.eng.nodes.any (fun n => n.dealt.any (fun d => d.1 = die))
/-- The cores of a die on which one cluster group of a launch fits. -/
def State.fitCount (s : State) (ctx : Nat) (l : Launch) (die : Nat) : Nat :=
  ((List.range 64).map (fun q =>
    let k := (s.quadFits ctx l (64 * die + q)).length
    if l.clus ≤ k then k else 0)).sum
/-- R322: the die that the next chunk goes to: the one with the most such cores, the lower on a tie, among those that hold no unplaced
group. -/
def State.dealDie (s : State) (n : Node) : Option Nat :=
  let ds := (s.liveDies n.ref.ctx n.launch.dev).filter (fun d => !(s.holdsUnplaced d))
  let c (d : Nat) : Nat := s.fitCount n.ref.ctx n.launch d
  ds.find? (fun d => ds.all (fun x => decide (c x ≤ c d)))
/-- The first codes of a list whose groups follow each other, at most k of them. -/
def consecutive : Nat → List Nat → List Nat
  | k + 1, g :: h :: rest => if h / 16 = g / 16 + 1 then g :: consecutive k (h :: rest) else [g]
  | _ + 1, [g] => [g]
  | _, _ => []
/-- The groups of the next chunk, by their codes: consecutive ones, at most `room`: of those to deal again first, else from the next one on. -/
def Node.chunk (n : Node) (room : Nat) : List Nat :=
  if n.redo ≠ [] then consecutive (min 16 room) n.redo
  else (List.range (min (min 16 room) (n.launch.groups - n.nextGroup))).map (fun k => 16 * (n.nextGroup + k))
/-- Give a die the next chunk of a kernel. -/
def Node.deal (n : Node) (die room : Nat) : Node :=
  let gs := n.chunk room
  let fresh := if n.redo = [] then gs.length else 0
  { n with dealt := n.dealt ++ gs.map (fun g => (die, g)), redo := n.redo.drop (gs.length - fresh), nextGroup := n.nextGroup + fresh }
/-- The groups that a chunk for a die may hold: of a co-resident kernel, those that the die can place at once, so that all are placed
(R323). -/
def State.chunkRoom (s : State) (n : Node) (die : Nat) : Nat := if n.coResident then s.dieRoom n.ref.ctx n.launch false die else 16
/-- R323: nothing of a co-resident kernel is dealt until all that is left of it can be placed. -/
def State.mayDeal (s : State) (n : Node) : Bool :=
  s.dealNext n && (!n.coResident || decide (n.undealt + n.dealt.length ≤ s.deviceRoom n.ref.ctx n.launch false))
/-- `CHUNK_DEAL` (R322). -/
def execChunkDeal (n : NRef) (s : State) : Out := .next (
  match s.findNode n with
  | none => s
  | some x => if s.mayDeal x then (match s.dealDie x with | none => s | some d => s.modNode n (·.deal d (s.chunkRoom x d))) else s)

/-- The next dealt group that a die is to place: that of the kernel launched first. -/
def State.nextDealt (s : State) (die : Nat) : Option (Node × Nat) :=
  let ns := s.eng.nodes.filter (fun n => n.dealt.any (fun d => d.1 = die))
  (ns.find? (fun n => ns.all (fun x => decide (n.seq ≤ x.seq)))).bind (fun n => (n.dealt.find? (fun d => d.1 = die)).map (fun d => (n, d.2)))
/-- A group whose workgroups are away and that the host has resumed: those of one that may come back on a die (R349). -/
def State.nextSaved (s : State) (die : Nat) : Option (List Workgroup) :=
  (s.eng.saves.find? (fun w => decide (w.stop = .running) && (s.liveDies w.ctx w.launch.dev).contains die &&
    (s.chooseFor (s.savedGroup w) die).isSome)).map s.savedGroup
/-- Place the next dealt group of a die, when its cores fit it (R324). -/
def State.placeDealt (s : State) (die : Nat) : State :=
  match s.nextDealt die with
  | none => s
  | some (n, g) => (match s.choose n.ref.ctx { n.launch with clus := (codeRanks n.launch g).length } die with
    | none => s
    | some (cores, s1) => (s1.modNode n.ref (fun x => { x with dealt := x.dealt.erase (die, g) })).startGroup n g cores)
/-- `WORKGROUP_PLACE` (R324, R349): a group that comes back, else the next one dealt. -/
def execWorkgroupPlace (die : Nat) (s : State) : Out := .next (
  match s.nextSaved die with
  | some ws => (match s.chooseFor ws die with | none => s | some (cores, s1) => s1.restoreOn ws cores)
  | none => s.placeDealt die)

/-! ### Resources of an ended workgroup (R122) -/

/-- Everything that an ended workgroup had outstanding is over. -/
def State.spent (s : State) (w : Workgroup) : Bool :=
  decide (w.stop = .ended) && (s.membersOf w.wu).all (fun m => m.outs == []) && w.mx.queue == [] &&
  !(s.eng.ops.any (fun e => e.owner.wu = w.wu)) && !(s.mem.writes.any (fun x => x.owner.wu = w.wu)) && !(s.mem.msgs.any (fun q => q.owner.wu = w.wu))
/-- A paused relayout of a workgroup's layout register. -/
def RlySt.ofWu (y : RlySt) (wu : Nat) : Bool := match y.x with | .reg k _ => k == wu | .handle _ _ => false
/-- `RESOURCE_RELEASE` (R122): core, registers, scratchpad and homes are free again. -/
def execResourceRelease (wu : Nat) (s : State) : Out := .next (
  match s.findWu wu with
  | none => s
  | some w =>
    if wu ≠ 0 ∧ s.spent w = true then
      let paused := s.eng.paused.filter (fun y => !(y.ofWu wu))
      ({ s with eng := { s.eng with paused := paused } } : State).dropWu wu
    else s)

end Sys2Proof.Machine
end

