-- ==== Sys2Proof/Machine/Faults.lean ====
section
/-!
DEFINITION. Faults.lean: a die is fenced, with its writes, workgroups, nodes and barriers (R188, R299, R320, R327, R354); unhandled
faults; droops, trips and power gating (R34, R324, R343, R403). An event whose condition does not hold changes nothing.
-/
namespace Sys2Proof.Machine

/-! ### Broken barriers (R188) -/

/-- A scope wider than a die, as R4 resolves it in a mode. -/
def wideScope (mode code : Nat) : Bool := decide (4 ≤ code) && !(code == 7 && mode == 2)
/-- The phase in progress of a workgroup's own view of a barrier is broken, if it has an arrival. -/
def Barrier.break (b : Barrier) : Barrier :=
  if b.arrived = [] then b else { b with phase := b.phase + 1, arrived := [], broken := b.broken ++ [b.phase] }
/-- A workgroup's wide barriers are broken. -/
def Workgroup.breakBars (w : Workgroup) (mode : Nat) : Workgroup :=
  { w with bars := w.bars.map (fun kb => (kb.1, if wideScope mode (kb.1 / 16) then kb.2.break else kb.2)) }
/-- The wide barriers of a kernel are broken, here and in the fabric's count of them. -/
def State.breakKernel (s : State) (n : Node) : State :=
  let mode := (smGet {} s.ctxs n.ref.ctx).mode
  let key := slotKey n.ref * 4096 + nodeId n % 4096
  let mine (w : Workgroup) : Bool := decide (w.node = n.ref) && decide (w.nodeId = nodeId n)
  let brk (w : Workgroup) : Workgroup := if mine w then w.breakBars mode else w
  let bars := s.eng.bars.map (fun b =>
    if b.1.1 = key ∧ wideScope mode (b.1.2.1 / 16) = true then (b.1, { b.2 with phase := b.2.phase + 1, arrived := [], counts := [] }) else b)
  let pod (m : BarMsg) : Bool := m.part == partOf n.ref.ctx && m.ctxid == n.ref.ctx % 65536 && m.node == nodeId n && m.die == n.ref.die && m.pkg == s.plat.pkg
  let fabBars := s.fab.bars.map (fun b => if pod b.ident then { b with phase := b.phase + 1, count := 0, expect := 0, nextCount := 0, nextExpect := 0, seen := [] } else b)
  { s with
    wg := brk s.wg
    wgs := s.wgs.map brk
    eng := { s.eng with bars := bars, saves := s.eng.saves.map brk }
    fab := { s.fab with bars := fabBars, sentArr := s.fab.sentArr.filter (fun m => !(pod m)), barNet := s.fab.barNet.filter (fun m => !(pod m)) } }
/-- A member waits at a barrier whose phase was broken: the path it waits with. -/
def Member.brokenWait (m : Member) (w : Workgroup) : Bool :=
  match m.barWait with
  | none => false
  | some (sc, n, _) => m.bars.any (fun p => p.scope == sc && p.num == n && (w.bar (barIdx sc n)).broken.contains p.phase)
/-- Raise BARBROKEN, precisely, at the `bar` the member in focus waits at. -/
def State.raiseBroken (s : State) : State :=
  if !(s.m.brokenWait s.wg) || s.holdFull (dieOf s.wg.core) then s
  else match s.m.parked with
    | [] => s
    | q :: rest =>
      let lanes := s.m.parked.foldl (fun x p => x ||| p.path.mask) (0 : Mask)
      (s.modM (fun m => { m with a := some q.path, parked := rest, curB := false })).raise { code := BARBROKEN, lanes := if s.m.scalar then 1 else lanes }

/-! ### The fence (R327, R354) -/

/-- R299: a write of a fenced die that has not reached PM reaches it, or is lost; one held back from OB is lost. -/
def State.settleWrite (s : State) (w : PWrite) : State :=
  if decide (w.place = .glob) && decide (w.stage ≠ .held) && Config.choice (s.uid + w.id) then
    s.pushWrite { w with bytes := w.merged (memGet s.mem.pm w.addr), half := none }
  else s.dropWrite w.id
/-- R299: the die's writes settle. -/
def State.settleWrites (s : State) (die : Nat) : State :=
  (s.mem.writes.filter (fun w => decide (w.quad / 64 = die) && decide (w.stage.num < 3))).foldl (fun t w => t.settleWrite w) s
/-- The die of the engine that performs a move (R331): that of the slice it gathers from, or that of its command. -/
def State.moveDie (s : State) (e : EngOp) (mv : EMove) : Nat :=
  if e.fn = 2 then (((s.gatherUnits e.die (mv.srcs.flatten.map (·.2))).head?).map unitDie).getD e.eng else e.eng
/-- R299: of a move that may land, each part of each value lands, or is lost. -/
def State.settleMove (s : State) (e : EngOp) (mv : EMove) : State :=
  if !(s.mayLand e mv) then s
  else
    let psn := s.movePoison mv
    (mv.dsts.zip (s.moveVals mv)).foldl (fun t dv => dv.1.foldl (fun t p =>
      if Config.choice t.uid then
        let t1 := t.putSlice (t.ownerQuad e.owner) [p] dv.2
        (if psn then t1.markSlice [p] else t1).tick
      else t.tick) t) s
/-- R299: what an engine of the die still has to write lands now, or is lost; what is lost of a command whose issuer stays is reported
(R354). -/
def State.settleMoves (s : State) (die : Nat) : State :=
  s.eng.ops.foldl (fun t e =>
    let mine := e.moves.filter (fun mv => s.moveDie e mv = die)
    let whole := decide (e.eng = die)
    let lost := mine != [] || (whole && e.rly.isSome)
    (mine.foldl (fun t mv => t.settleMove e mv) t).modEng e.id (fun x => { x with
      moves := x.moves.filter (fun mv => s.moveDie e mv ≠ die)
      work := if whole then .none else x.work
      rly := if whole then none else x.rly
      report := if lost then some POISON else x.report })) s
/-- A workgroup counts as placed on a die: it stands there, or holds a forwarding entry there (R326, R327). -/
def State.placedOn (s : State) (w : Workgroup) (die : Nat) : Bool :=
  dieOf w.core == die && s.allWgs.any (fun x => x.wu = w.wu) || s.plat.forwards.any (fun f => decide (f.wu = w.wu) && dieOf f.core == die)
/-- The workgroups of a kernel that had been placed on a die and had not ended. -/
def State.lostWgs (s : State) (n : Node) (die : Nat) : List Workgroup :=
  (s.allWgs ++ s.eng.saves).filter (fun w => decide (w.node = n.ref) && decide (w.nodeId = nodeId n) && w.wu != 0 && w.stop != .ended && s.placedOn w die)
/-- Kernels, as their nodes. -/
def State.kernels (s : State) : List Node := s.eng.nodes.filter (fun n => n.kind == 1 && decide (n.st = .launched))
/-- A cluster group to deal again, by its code: the ranks to start are those of the workgroups given (R327). -/
def redoCode (l : Launch) (g : Nat) (ws : List Workgroup) : Nat :=
  16 * g + ((List.range l.clus).map (fun k => if ws.any (fun w => decide (w.crank = k)) then 0 else 2 ^ k)).sum
/-- The number of a workgroup's cluster group. -/
def Workgroup.groupNo (w : Workgroup) : Nat := (w.x + w.launch.gx * (w.y + w.launch.gy * w.z)) / w.launch.clus
/-- Drop a workgroup that starts afresh elsewhere, with what it had on its way. -/
def State.forgetWu (s : State) (wu : Nat) : State :=
  let s1 := s.dropWu wu
  let msgs := s1.mem.msgs.filter (fun q => !(decide (q.owner.wu = wu)) || Config.choice (s.uid + q.id))
  let eng := { s1.eng with
    ops := s1.eng.ops.filter (fun e => e.owner.wu != wu || e.forNode.isSome)
    saves := s1.eng.saves.filter (fun w => w.wu != wu)
    paused := s1.eng.paused.filter (fun y => !(y.ofWu wu)) }
  let fs := s1.plat.forwards.filter (fun f => f.wu != wu)
  { s1 with mem := { s1.mem with msgs := msgs }, eng := eng, plat := { s1.plat with forwards := fs } }
/-- Groups to deal again, by their codes, in ascending order beside those that wait already (R322). -/
def Node.again (n : Node) (codes : List Nat) : Node := { n with redo := sortBy (fun a b => decide (a ≤ b)) (n.redo ++ codes) }
/-- R327: deal again what a restartable kernel lost with a die. -/
def State.redealKernel (s : State) (n : Node) (lost : List Workgroup) : State :=
  let gs := sortBy (fun a b => decide (a ≤ b)) (lost.map (·.groupNo)).dedup
  let codes := gs.map (fun g => redoCode n.launch g (lost.filter (fun w => w.groupNo = g)))
  (lost.foldl (fun t w => t.forgetWu w.wu) s).modNode n.ref (fun x => x.again codes)
/-- The device of a kernel has no live die left. -/
def State.deviceDead (s : State) (n : Node) : Bool := s.liveDies n.ref.ctx n.launch.dev == []
/-- R327 for one kernel, its losses as they stood at the fence. -/
def State.fenceKernel (s : State) (nl : Node × List Workgroup) : State :=
  let (n, lost) := nl
  if s.deviceDead n then s.stopCtx n.ref.ctx
  else if lost = [] then s
  else if n.launch.rst then (s.breakKernel n).redealKernel n lost
  else (s.breakKernel n).stopCtx n.ref.ctx
/-- Groups dealt to a fenced die and not placed are dealt again. -/
def Node.undeal (n : Node) (die : Nat) : Node :=
  let rest : Node := { n with dealt := n.dealt.filter (fun d => d.1 != die) }
  rest.again ((n.dealt.filter (fun d => d.1 = die)).map (·.2))
/-- R323, R327: a kernel stays co-resident over a fence while not all of it has been placed, and while all of it can be. -/
def State.stillCo (s : State) (n : Node) : Bool :=
  n.coResident && decide (n.undealt + n.dealt.length ≠ 0) && decide (n.launch.groups ≤ s.deviceRoom n.ref.ctx n.launch true)
/-- R320: the node of a launched kernel is withdrawn with its die: its record, and its successors; its workgroups run on (R327). -/
def State.dropKernelNode (s : State) (n : Node) : State :=
  let waiting := n.succs.filter (fun e => s.eng.nodes.any (fun x => x.ref = e.1 && x.gen = e.2 && x.st != .launched))
  let s1 := (s.modNode n.ref (fun x => { x with gone := true, succs := [], evt := false })).postCtx n.ref.die 4 n.ref.ctx [nodeId n, 0, n.tag * 2 ^ 32]
  let s2 : State := { s1 with eng := { s1.eng with gens := smPut 0 s1.eng.gens (slotKey n.ref) ((n.gen + 1) % 4096) } }
  withdraw s2 s2.graphFuel waiting
/-- The contexts that a fence concerns: a workgroup (R326: one that holds a forwarding entry there too), a node or a launch queue in use on the die (R340). -/
def State.fenceCtxs (s : State) (die : Nat) : List Nat :=
  (s.ctxs.filter (fun kc =>
    (s.allWgs ++ s.eng.saves).any (fun w => decide (w.ctx = kc.1) && w.wu != 0 && w.stop != .ended && s.placedOn w die) ||
    s.eng.nodes.any (fun n => decide (n.ref.ctx = kc.1) && n.ref.die == die) ||
    (List.range 4).any (fun k => (smGet {} kc.2.lq k).size != 0 && s.queueDie kc.2 k == die))).map (·.1)
/-- FENCING A DIE (R354): F0 emits the record and its copies; then the die's writes settle, its kernels, nodes and barriers go as R327,
R320 and R188 say. -/
def State.fenceDie (s : State) (die cause : Nat) : State :=
  if s.plat.fenced.contains die || decide (4 ≤ die) then s
  else
    let ctxs := s.fenceCtxs die
    let s1 := ctxs.foldl (fun t c => t.post 4 6 die (some c) (partOf c) (c % 65536) [cause]) (s.post 4 6 die none 0 0 [cause])
    let losses := s1.kernels.map (fun n => (n, s1.lostWgs n die))
    let s2 := (s1.settleWrites die).settleMoves die
    let s3 : State := { s2 with plat := { s2.plat with fenced := s2.plat.fenced ++ [die] }, uid := s2.uid + 1 }
    let s4 : State := { s3 with eng := { s3.eng with
      nodes := s3.eng.nodes.map (fun n => ({ n with coResident := s3.stillCo n } : Node).undeal die) } }
    let s5 := losses.foldl (fun t nl => t.fenceKernel nl) s4
    let there := s5.eng.nodes.filter (fun n => n.ref.die == die && !n.gone)
    let s6 := (there.filter (fun n => n.st = .launched ∧ n.kind = 1)).foldl (fun t n => t.dropKernelNode n) s5
    withdraw s6 s6.graphFuel ((there.filter (fun n => n.st != .launched || n.kind == 2)).map (fun n => (n.ref, n.gen)))
/-- `DIEFENCE` (R354): cause 1 logic, 2 link, 3 thermal. -/
def execDiefence (die cause : Nat) (s : State) : Out := .next (if 1 ≤ cause ∧ cause ≤ 3 then s.fenceDie die cause else s)
/-- `THERMAL_TRIP` (R403): a core's margin is 0, and its die is fenced. -/
def execThermalTrip (core : Nat) (s : State) : Out := .next (
  let c := smGet {} s.cores core
  ({ s with cores := smPut {} s.cores core { c with margin := 0 } } : State).fenceDie (dieOf core) 3)

/-! ### The host gives up on a fault (R343) -/

/-- `DECLARE_UNHANDLED` (R343): a replayable fault is declared unhandled, and the policy applies. -/
def execDeclareUnhandled (wu : Nat) (s : State) : Out := .next (
  match s.findWu wu with
  | some w => if w.stop = .fault true then s.applyPolicy w else s
  | none => (match s.eng.saves.find? (fun w => w.wu = wu) with
    | none => s
    | some w =>
      if w.stop ≠ .fault true then s
      else if w.launch.policy = 0 then
        (s.dropSaves (fun x => x.wu = wu)).modNode w.node (fun n => { n with ended := n.ended + 1 })
      else s.applyPolicy w))

/-! ### Droops and power gating (R34, R324, R404) -/

/-- `VOLTAGE_DROOP` (R324, R404): a core records a droop, of one of 16 bins. -/
def execVoltageDroop (core bin : Nat) (s : State) : Out := .next (
  let c := smGet {} s.cores core
  let old := c.droops.filter (fun t => decide ((c.cyc.toNat + 2 ^ 64 - t) % 2 ^ 64 < 2 ^ 20))
  let c1 : Core := { c with droops := (old ++ [c.cyc.toNat]).drop (old.length - 126) }
  ({ s with cores := smPut {} s.cores core c1 } : State).modAlm (fun a => { a with droop := bump a.droop (dieOf core * 16 + bin % 16) 1 }))
/-- `POWER_GATING` (R34): a core's clock stops, or starts again. -/
def execPowerGating (core : Nat) (stop : Bool) (s : State) : Out := .next
  { s with cores := smPut {} s.cores core { (smGet {} s.cores core) with gated := stop } }

end Sys2Proof.Machine
end

