-- ==== Sys2Proof/Machine/Links.lean ====
section
/-!
DEFINITION. Links.lean: die links and optical links: rates, retraining, replay, wavelengths and their records (R335, R336, R356, R359 to
R366, R384). Flits are neither lost nor reordered by any of it; what a program may observe is latency alone. Links 0 to 47 are the
optical links by plane, links 64 to 77 the die links.
-/
namespace Sys2Proof.Machine

/-! ### Rates, windows and time (R335, R363, R7) -/

/-- The next rate (0 full, 1 half, 2 quarter) at a use of the current one in percent. -/
def nextRate (rate use : Nat) : Nat := if use < 25 then min (rate + 1) 2 else if 75 < use then rate - 1 else rate
/-- The cycles of a rate step's period. -/
def ratePeriod : Nat := 65536
/-- A period ends: a rate step, which opens a retraining window, where the use asks for one. -/
def LinkSt.step (l : LinkSt) (use : Nat) : LinkSt :=
  if l.down || l.window || nextRate l.rate use == l.rate then { l with pcyc := 0 }
  else { l with pcyc := 0, rate := nextRate l.rate use, window := true, stepped := true, wcyc := 0 }
/-- A direction after a retraining: it replays what is not acknowledged. -/
def LinkDir.resume (d : LinkDir) : LinkDir :=
  { d with replays := 0, replayFrom := if d.pending = 0 then none else some d.acked, nak := false, age := 0 }
/-- A retraining ends: the link resumes and replays what is not acknowledged; or it has failed, and after three failures in a row it
is down. -/
def LinkSt.retrained (l : LinkSt) (ok : Bool) : LinkSt :=
  if ok then { l with window := false, stepped := false, wcyc := 0, fails := 0, up := l.up.resume, dn := l.dn.resume }
  else if 3 ≤ l.fails + 1 then { l with window := false, stepped := false, wcyc := 0, fails := l.fails + 1, down := true }
  else { l with fails := l.fails + 1 }
/-- Cycles since an acknowledgement was last had, while flits wait for one. -/
def LinkDir.tick (d : LinkDir) (n : Nat) : LinkDir := { d with age := if d.pending = 0 then 0 else d.age + n }
/-- Cycles of a link's controller pass: its period, its timeouts, the light of lost wavelengths (for at most 2^20 cycles), and a window,
which after a rate step lasts at most `most`. -/
def LinkSt.tick (l : LinkSt) (most n : Nat) : LinkSt :=
  if l.down then l
  else
    let l1 : LinkSt := { l with pcyc := min (l.pcyc + n) ratePeriod, lit := if l.light = 0 then 0 else min (l.lit + n) (2 ^ 20) }
    if l1.window then
      let l2 := { l1 with wcyc := l1.wcyc + n }
      if l2.stepped && decide (most ≤ l2.wcyc) then l2.retrained true else l2
    else { l1 with up := l1.up.tick n, dn := l1.dn.tick n }

/-! ### Die links (R335, R336) -/

/-- The near die that a die link fences when it goes down: links 0 to 5 join the near dies in pairs (0-1, 0-2, 0-3, 1-2, 1-3, 2-3), and the
higher one is fenced; link 6 + 2 d + f joins near die d and far die f. -/
def linkVictim (link : Nat) : Nat := if link < 6 then [1, 2, 3, 2, 3, 3].getD link 0 else (link - 6) / 2
/-- A die link. -/
def State.dieLink (s : State) (link : Nat) : LinkSt := smGet {} s.plat.dieLinks link
/-- Set a die link. -/
def State.setDieLink (s : State) (link : Nat) (l : LinkSt) : State :=
  { s with plat := { s.plat with dieLinks := smPut {} s.plat.dieLinks link l } }
/-- Change a link by number. -/
def State.modAnyLink (s : State) (k : Nat) (f : LinkSt → LinkSt) : State :=
  if k < 48 then s.modLink k f else if 64 ≤ k ∧ k < 78 then s.setDieLink (k - 64) (f (s.dieLink (k - 64))) else s
/-- `DIE_LINK_RATE_STEP` (R335): at the end of a period. -/
def execDieLinkRateStep (link use : Nat) (s : State) : Out := .next (
  if 14 ≤ link ∨ (s.dieLink link).pcyc < ratePeriod then s else s.setDieLink link ((s.dieLink link).step use))
/-- `DIE_LINK_RETRAIN` (R336): a window ends; after three failures in a row a near die is fenced. -/
def execDieLinkRetrain (link : Nat) (ok : Bool) (s : State) : Out := .next (
  let l := s.dieLink link
  if 14 ≤ link ∨ l.window = false then s
  else
    let l1 := l.retrained ok
    let s1 := (s.setDieLink link l1).modAlm (fun a => { a with retrain := bump a.retrain link 1 })
    if l1.down then s1.fenceDie (linkVictim link) 2 else s1)

/-! ### Replay (R361) -/

/-- A direction replays from a flit; at the eighth time the link retrains. -/
def LinkSt.replay (l : LinkSt) (up : Bool) (k : Nat) : LinkSt :=
  let d := l.dir up
  let n := if d.replayFrom = some k then d.replays + 1 else 1
  if 8 ≤ n then { l.modDir up (fun d => { d with replayFrom := some k, replays := 0, age := 0 }) with window := true, stepped := false, wcyc := 0 }
  else l.modDir up (fun d => { d with replayFrom := some k, replays := n, age := 0 })
/-- `LINK_CONTROL` (R361): the receiver has everything before the flit that it expects next; one that discards asks for a replay from it. -/
def execLinkControl (way seq : Nat) (s : State) : Out := .next (
  let plane := wayLink way
  let up := wayUp way
  let l := s.link plane
  let d := l.dir up
  if 48 ≤ plane ∨ l.open = false ∨ seq ≠ d.got then s
  else if d.nak then (s.modLink plane (fun l => (l.modDir up (fun d => { d.ack with nak := false })).replay up seq)).pump
  else (s.modLink plane (·.modDir up (·.ack))).pump)
/-- `ACK_TIMEOUT` (R361, R383): no acknowledgement for 40,960 cycles of the link controller, scaled: the sender replays from its oldest
flit. -/
def execAckTimeout (way : Nat) (s : State) : Out := .next (
  let plane := wayLink way
  let up := wayUp way
  let l := s.link plane
  let d := l.dir up
  if 48 ≤ plane ∨ l.open = false ∨ d.pending = 0 ∨ d.age < ackLimit (widthOf l.waves) then s
  else s.modLink plane (fun l => l.replay up d.acked))
/-- A flit fails its CRC (R336, R361, R404): the receiver discards until the replay it asks for; the correction is counted. A die link
replays at once, and its receiver takes what is replayed. -/
def State.crcFailed (s : State) (plane : Nat) (up : Bool) : State :=
  let count (s : State) : State := s.modAlm (fun a => { a with soft := bump a.soft (8192 + plane) 1 })
  if plane < 48 then
    count (s.modLink plane (fun l => if l.open && decide ((l.dir up).seq ≠ (l.dir up).got) then l.modDir up (fun d => { d with nak := true }) else l))
  else if 64 ≤ plane ∧ plane < 78 then
    count (s.modAnyLink plane (fun l => if l.open then l.replay up (l.dir up).acked else l))
  else s
/-- `FLIT_CRC_FAILURE` (R336, R361). -/
def execFlitCrcFailure (way : Nat) (s : State) : Out := .next (s.crcFailed (wayLink way) (wayUp way))
/-- A far die's records take note of a link that resumes, and of the flits it replays (R384). -/
def LaserRec.note (r : LaserRec) (plane : Nat) (n : Nat) : LaserRec :=
  if r.die = plane / 24 ∧ r.links.getLsbD (plane % 24) = true ∧ r.resumed.contains (plane % 24) = false then
    { r with replayed := r.replayed + n, resumed := r.resumed ++ [plane % 24] }
  else r
/-- A link has resumed, or not: records, and what was held. -/
def State.afterRetrain (s : State) (plane : Nat) (ok : Bool) : State :=
  if ok then ({ s with fab := { s.fab with laser := s.fab.laser.map (fun r =>
    if r.cause = 2 ∧ (s.link plane).pendUp ≠ 0 then r else r.note plane (s.link plane).up.pending) } } : State).pump
  else s
/-- `LINK_RETRAIN` (R361). -/
def execLinkRetrain (plane : Nat) (ok : Bool) (s : State) : Out := .next (
  if 48 ≤ plane ∨ (s.link plane).window = false then s
  else ((s.modLink plane (·.retrained ok)).modAlm (fun a => { a with retrain := bump a.retrain (64 + plane) 1 })).afterRetrain plane ok)
/-- Cycles of a link's controller pass (R7). -/
def State.linkCycles (s : State) (k n : Nat) : State :=
  let s1 := s.modAnyLink k (·.tick (if k < 48 then 8192 else 2048) n)
  if (s.link k).window && !((s1.link k).window) then s1.afterRetrain k true else s1
/-- R361: a receiver acknowledges what it has received in order; what a die link replayed has been accepted. -/
def State.ackNow (s : State) (k : Nat) (up : Bool) : State :=
  (s.modAnyLink k (fun l => if l.open then l.modDir up (fun d => if k < 48 then d.ack else { d with replays := 0, replayFrom := none }) else l)).pump

/-! ### Wavelengths (R356, R364, R365) -/

/-- The fibre pairs of a mask. -/
def pairsOf (links : BitVec 24) : List Nat := (List.range 24).filter (fun k => links.getLsbD k)
/-- The mask of fibre pairs. -/
def maskPairs (ks : List Nat) : BitVec 24 := ks.foldl (fun m k => m ||| BitVec.ofNat 24 (2 ^ k)) 0
/-- The modules that feed wavelengths. -/
def modulesOf (waves : BitVec 16) : Nat := ((List.range 4).map (fun m => if bitsN waves.toNat (4 * m) 4 = 0 then 0 else 2 ^ m)).sum
/-- A link loses wavelengths: it retrains at the W that is left, or is down; a retraining that runs starts again. -/
def LinkSt.lose (l : LinkSt) (waves : BitVec 16) : LinkSt :=
  let left := l.waves &&& ~~~waves
  let l1 := { l with waves := left, pendUp := l.pendUp &&& ~~~waves, light := l.light &&& ~~~waves, lit := 0, stepped := false, wcyc := 0 }
  if widthOf left = 0 then { l1 with down := true, window := false } else { l1 with window := true }
/-- Change the listed links of a far die. -/
def State.modLinks (s : State) (die : Nat) (ks : List Nat) (f : LinkSt → LinkSt) : State :=
  ks.foldl (fun t k => t.modLink (24 * die + k) f) s
/-- W of the first listed link. -/
def State.firstWidth (s : State) (die : Nat) (links : BitVec 24) : Nat := (((pairsOf links).head?).map (fun k => widthOf (s.link (24 * die + k)).waves)).getD 0
/-- W of the first listed link as it has come to be: 0 when it is down (R366). -/
def State.newWidth (s : State) (die : Nat) (links : BitVec 24) : Nat :=
  (((pairsOf links).head?).map (fun k => let l := s.link (24 * die + k); if l.down then 0 else widthOf l.waves)).getD 0
/-- A loss joins the record of a loss whose retraining it restarts (R364, R384); else it has its own. -/
def addLoss (laser : List LaserRec) (window : Nat → Bool) (new : LaserRec) : List LaserRec :=
  let joins (r : LaserRec) : Bool := r.die == new.die && r.cause != 2 && (pairsOf r.links).any (fun k => new.links.getLsbD k && window k && !(r.resumed.contains k))
  match laser.find? joins with
  | none => laser ++ [new]
  | some _ => replaceFirst joins (fun r => { r with
      links := r.links ||| new.links, modules := r.modules ||| new.modules, cause := min r.cause new.cause
      resumed := r.resumed.filter (fun k => !(new.links.getLsbD k)) }) laser
/-- The links of a far die that a loss of wavelengths concerns: a monitor's loss is that of all 24 (R364), each as far as it carries one. -/
def State.lossLinks (s : State) (die : Nat) (waves : BitVec 16) (links : BitVec 24) (atMonitor : Bool) : List Nat :=
  (pairsOf (if atMonitor then BitVec.allOnes 24 else links)).filter (fun k =>
    let l := s.link (24 * die + k)
    !l.down && decide (l.waves &&& waves ≠ 0))
/-- `WAVELENGTH_LOSS` (R364): a loss at a module's monitor, or at the receiver of the links listed. -/
def execWavelengthLoss (die : Nat) (waves : BitVec 16) (links : BitVec 24) (atMonitor : Bool) (s : State) : Out := .next (
  let ks := s.lossLinks die waves links atMonitor
  if 2 ≤ die ∨ ks = [] then s
  else
    let s1 := s.modLinks die ks (·.lose waves)
    let new : LaserRec :=
      { die := die, links := maskPairs ks, wold := s.firstWidth die (maskPairs ks), modules := modulesOf waves, cause := if atMonitor then 0 else 1 }
    { s1 with fab := { s1.fab with laser := addLoss s.fab.laser (fun k => (s.link (24 * die + k)).window) new } })
/-- The links of a far die that some lost wavelengths may widen: all of these have shone for 2^20 cycles (R365). -/
def State.litLinks (s : State) (die : Nat) (waves : BitVec 16) (links : BitVec 24) : List Nat :=
  (pairsOf links).filter (fun k =>
    let l := s.link (24 * die + k)
    let lost := waves &&& ~~~(l.waves ||| l.pendUp)
    !l.down && decide (lost ≠ 0) && decide (lost &&& ~~~l.light = 0) && decide (2 ^ 20 ≤ l.lit))
/-- `WAVELENGTH_RESTORE` (R365): lost wavelengths have shown light for 2^20 cycles; each link widens at its next rate step. -/
def execWavelengthRestore (die : Nat) (waves : BitVec 16) (links : BitVec 24) (s : State) : Out := .next (
  let ks := s.litLinks die waves links
  if 2 ≤ die ∨ ks = [] then s
  else
    let s1 := s.modLinks die ks (fun l => { l with pendUp := l.pendUp ||| (waves &&& ~~~l.waves) })
    let new : LaserRec := { die := die, links := maskPairs ks, wold := s.firstWidth die (maskPairs ks), modules := modulesOf waves, cause := 2 }
    { s1 with fab := { s1.fab with laser := s.fab.laser ++ [new] } })
/-- What the monitors of a far die see: the lost wavelengths of each link that shine. -/
def State.setLight (s : State) (die : Nat) (waves : BitVec 16) : State :=
  if 2 ≤ die then s
  else s.modLinks die (List.range 24) (fun l =>
    let lost := waves &&& ~~~l.waves
    if l.light = lost then l else { l with light := lost, lit := 0 })
/-- A link at the end of a period (R363, R365): wavelengths that have come back, and the rate by its use. -/
def LinkSt.rateStep (l : LinkSt) (use : Nat) : LinkSt :=
  if l.open && decide (l.pendUp ≠ 0) then
    { l with waves := l.waves ||| l.pendUp, pendUp := 0, pcyc := 0, rate := nextRate l.rate use, window := true, stepped := true, wcyc := 0 }
  else l.step use
/-- `LINK_RATE_STEP` (R363, R365): at the end of a period. -/
def execLinkRateStep (plane use : Nat) (s : State) : Out := .next (
  if 48 ≤ plane ∨ (s.link plane).pcyc < ratePeriod then s else s.modLink plane (·.rateStep use))
/-- A record may be posted: every listed link has resumed, or is down (R384). -/
def State.laserDue (s : State) (r : LaserRec) : Bool := (pairsOf r.links).all (fun k => (s.link (24 * r.die + k)).down || r.resumed.contains k)
/-- The body of a LASERLOSS record (R366), with the W that its links have come to. -/
def LaserRec.body (r : LaserRec) (wnew : Nat) : List Nat :=
  [r.links.toNat * 2 ^ 40 + r.wold * 2 ^ 32 + wnew * 2 ^ 24 + r.modules * 2 ^ 16 + r.cause, r.replayed % 2 ^ 32]
/-- `LASERLOSS` (R384): a far die posts the oldest of its records. -/
def execLaserloss (die : Nat) (s : State) : Out := .next (
  match s.fab.laser.find? (fun r => r.die = die) with
  | none => s
  | some r =>
    if s.laserDue r then
      ({ s with fab := { s.fab with laser := s.fab.laser.erase r } } : State).post (4 + die) 7 (4 + die) none 0 0 (r.body (s.newWidth die r.links))
    else s)

end Sys2Proof.Machine
end

