-- ==== Sys2Proof/Machine/Fabric.lean ====
section
/-!
DEFINITION. Fabric.lean: the Itkader fabric: directories and their transactions, recalls, a lost plane, pod barriers (R357, R358, R362,
R367 to R381). An event takes the oldest message of its kind that its links bring next. A message of TYPE 7 says in `op` whether its line is
to be shared (1) or given up (2); one of TYPE 11 whether it answers an invalidation or a forward (0), an eviction (1), an atomic's
reply (2) or a recall (3, with the state in `size`); one of TYPE 12 the state granted; one of TYPE 4 whether it is an engine's or an
uncached write (1) or an eviction (0); one of TYPE 10 whether it replies to an atomic (1).
-/
namespace Sys2Proof.Machine

/-! ### The network -/

/-- The first message of a kind that its links bring next: no message before it shares one with it (R361, R363). -/
def State.firstMsg (s : State) (kind : Nat) : List FabMsg → List FabMsg → Option FabMsg
  | _, [] => none
  | before, m :: ms =>
    if m.kind = kind && m.seq.isSome && s.arrives (s.crossing m) && !(before.any (fun x => (s.crossing x).shares (s.crossing m))) then some m
    else s.firstMsg kind (m :: before) ms
/-- The next message of a kind, and the state without it, with its flits received. -/
def State.takeMsg (s : State) (kind : Nat) : Option (FabMsg × State) :=
  (s.firstMsg kind [] s.fab.net).map (fun m =>
    (m, (({ s with fab := { s.fab with net := dropFirst (fun x => x == m) s.fab.net } } : State).received (s.crossing m)).pump))
/-- Do something with the next message of a kind. -/
def onMsg (s : State) (kind : Nat) (f : State → FabMsg → State) : Out :=
  .next (match s.takeMsg kind with | none => s | some (m, s1) => f s1 m)
/-- A poisoned line's data marks the line (R314, R357). -/
def State.markPsn (s : State) (m : FabMsg) : State :=
  if m.psn && !(s.mem.psn.contains m.line) then { s with mem := { s.mem with psn := m.line :: s.mem.psn, cover := smDel s.mem.cover m.line } } else s
/-- A data message: the bytes of a line, to a requester (TYPE 10). -/
def State.sendData (s : State) (from' to' tag line : Nat) : State :=
  s.send { kind := 10, src := from', dst := to', tag := tag, line := line, psn := s.poisoned (128 * line), data := s.lineData line }
/-- The state in which this package holds a peer line, its eviction buffer included (R370, R372). -/
def State.holding (s : State) (line : Nat) : Nat :=
  let p := smGet 0 s.fab.peer line
  if p = 0 then smGet 0 s.fab.evict line else p
/-- This package gives up its copy of a line. -/
def State.giveUp (s : State) (line : Nat) : State :=
  { s with fab := { s.fab with peer := smDel s.fab.peer line, evict := smDel s.fab.evict line } }
/-- This package shares a line: E becomes S, M becomes O (R371). -/
def State.shareLine (s : State) (line : Nat) : State :=
  let dn (st : Nat) : Nat := match st with | 2 => 1 | 3 => 4 | k => k
  let ch (m : SMap Nat) : SMap Nat := smPut 0 m line (dn (smGet 0 m line))
  { s with fab := { s.fab with peer := ch s.fab.peer, evict := ch s.fab.evict } }

/-! ### Directory entries (R368 to R371) -/

/-- The entry of a line; a line without one is in I. -/
def State.entryOf (s : State) (line : Nat) : DirEntry := smGet {} s.fab.dir line
/-- Every holder that an entry names. -/
def DirEntry.holders (d : DirEntry) : List Nat := (if 2 ≤ d.st then [d.owner] else []) ++ d.sharers
/-- Set an entry; one without holders is I, and at home the remote-held bit goes (R369). -/
def State.setEntry (s : State) (line : Nat) (d : DirEntry) : State :=
  if d.st = 0 ∨ (d.st = 1 ∧ d.sharers = []) then s.dropEntry line
  else { s with fab := { s.fab with dir := smIns s.fab.dir line d } }
/-- The set of a line in its plane's directory: 2^24 entries are 2^20 sets of 16 (R368). -/
def setOf (line : Nat) : Nat := Config.dirSet line % 2 ^ 20
/-- The lines of the set that a line falls into, on its plane (R368). -/
def State.setLines (s : State) (line : Nat) : List (Nat × DirEntry) :=
  s.fab.dir.filter (fun e => s.planeOf e.1 == s.planeOf line && setOf e.1 == setOf line)
/-- A line that has no entry finds its set full (R375). -/
def State.setFull (s : State) (line : Nat) : Bool := (s.entryOf line).st == 0 && decide (16 ≤ (s.setLines line).length)
/-- The entry of a set granted longest ago. -/
def State.victim (s : State) (line : Nat) : Option Nat :=
  let es := s.setLines line
  (es.find? (fun e => es.all (fun x => decide (e.2.granted ≤ x.2.granted)))).map (·.1)
/-- The entry after a request by a package (R371). -/
def DirEntry.after (d : DirEntry) (kind p : Nat) : DirEntry :=
  let add (l : List Nat) : List Nat := if l.contains p then l else l ++ [p]
  if kind = 1 then
    match d.st with
    | 0 => { d with st := 2, owner := p, sharers := [] }
    | 1 => { d with sharers := add d.sharers }
    | 2 => if d.owner = p then d else { d with st := 1, sharers := add [d.owner] }
    | 3 => if d.owner = p then d else { d with st := 4, sharers := [p] }
    | _ => if d.owner = p then d else { d with sharers := add d.sharers }
  else { d with st := 3, owner := p, sharers := [] }
/-- The state in which a package holds a line, by its entry. -/
def DirEntry.stateOf (d : DirEntry) (p : Nat) : Nat := if 2 ≤ d.st ∧ d.owner = p then d.st else if d.sharers.contains p then 1 else 0

/-! ### Transactions (R368, R371, R374, R382) -/

/-- A line has a transaction in progress. -/
def State.lineBusy (s : State) (line : Nat) : Bool := s.fab.trans.any (fun t => t.line = line)
/-- The set's victim stands by for a recall: it has no transaction in progress. -/
def State.victimFree (s : State) (line : Nat) : Bool := ((s.victim line).map (fun v => !(s.lineBusy v))).getD false
/-- The first message of a kind that waits at the switch and need not wait on: the first of its line to have got there, with no transaction
of the line in progress, and with room, or a victim to recall, in its set (R368, R375). -/
def State.firstWaiting (s : State) (kind : Nat) : List Nat → List FabMsg → Option FabMsg
  | _, [] => none
  | before, m :: ms =>
    if m.kind = kind && !(s.lineBusy m.line) && !(before.contains m.line) && (4 ≤ kind || !(s.setFull m.line) || s.victimFree m.line) then some m
    else s.firstWaiting kind (m.line :: before) ms
/-- A message that has reached the switch waits: behind the others, or, having waited before, ahead of them. -/
def State.waitAt (s : State) (front : Bool) (m : FabMsg) : State :=
  { s with fab := { s.fab with waiting := if front then m :: s.fab.waiting else s.fab.waiting ++ [m] } }
/-- A line is in use at the switch: a transaction is in progress, or a message for it waits (R368). -/
def State.lineQueued (s : State) (line : Nat) : Bool := s.lineBusy line || s.fab.waiting.any (fun m => m.line = line)
/-- Do something with the next message of a kind at the switch: one that waited there, or one that arrives, which waits while its line is
in use. -/
def onSwitch (s : State) (kind : Nat) (f : Bool → State → FabMsg → State) : Out :=
  .next (match s.firstWaiting kind [] s.fab.waiting with
    | some m => f true { s with fab := { s.fab with waiting := dropFirst (fun x => x == m) s.fab.waiting } } m
    | none => (match s.takeMsg kind with
      | none => s
      | some (m, s1) => if s1.lineQueued m.line then s1.waitAt false m else f false s1 m))
/-- The result of an atomic kept for a requester's tag (R374). -/
def State.keptOf (s : State) (m : FabMsg) : Option W64 := (s.fab.kept.find? (fun k => k.1 = m.src && k.2.1 = m.tag)).map (·.2.2)
/-- The home performs an atomic once, keeps its result, and replies (R374). -/
def State.homeAtomic (s : State) (m : FabMsg) : State :=
  let off := ((m.data.head?).map (·.1)).getD 0
  let pa := 128 * m.line + off
  let reply (t : State) (x : W64) : State := t.send { kind := 10, src := m.dst, dst := m.src, tag := m.tag, line := m.line, op := 1, opa := x }
  match s.keptOf m with
  | some x => reply s x
  | none =>
    let old := leNat ((List.range m.size).map (fun i => s.gmByte (pa + i)))
    let new := atomStep m.op m.size old { lane := 0, loc := ⟨.glob, 8 * pa, 8 * m.size⟩, a := m.opa, b := m.opb }
    let s1 := s.homePuts pa (leBytes m.size new)
    reply { s1 with fab := { s1.fab with kept := s1.fab.kept ++ [(m.src, m.tag, BitVec.ofNat 64 old)] } } (BitVec.ofNat 64 old)
/-- Write the masked bytes of a message at the line's home, with the poison they carry. -/
def State.homeWrite (s : State) (m : FabMsg) : State := (m.data.foldl (fun t b => t.homePut (128 * m.line + b.1) b.2) s).markPsn m
/-- A transaction ends: the entry changes, and the requester is granted the line; an atomic or a write is performed at home. -/
def State.endTrans (s : State) (t : Trans) : State :=
  let s1 := { s with fab := { s.fab with trans := dropFirst (fun x => x.line = t.line) s.fab.trans } }
  match t.req with
    | none => s1.dropEntry t.line
    | some m =>
      if m.kind = 6 then (s1.dropEntry t.line).homeAtomic m
      else if m.kind = 4 then
        ((s1.dropEntry t.line).homeWrite m).send { kind := 11, src := m.src, dst := m.src, tag := m.tag, line := t.line, op := 1 }
      else
        let d := (s1.entryOf t.line).after m.kind m.src
        let s3 := if m.src = m.dst then s1 else s1.setRemote t.line
        let s4 := s3.setEntry t.line { d with granted := s.fab.grantNo }
        ({ s4 with fab := { s4.fab with grantNo := s.fab.grantNo + 1 } } : State).send
          { kind := 12, src := m.dst, dst := m.src, tag := m.tag, line := t.line, op := d.stateOf m.src }
/-- The messages that a request sends to the holders of its line: kind and `op` for each holder. -/
def DirEntry.asks (d : DirEntry) (kind p : Nat) : List (Nat × Nat × Nat) :=
  if kind = 1 then
    match d.st with
    | 0 => []
    | 1 => ((sortBy (fun a b => decide (a ≤ b)) (d.sharers.filter (· != p))).take 1).map (fun q => (q, 7, 1))
    | _ => if d.owner = p then [] else [(d.owner, 7, 1)]
  else if kind = 2 ∨ kind = 3 then
    let others := sortBy (fun a b => decide (a ≤ b)) (d.sharers.filter (· != p))
    match d.st with
    | 0 => []
    | 1 => if d.sharers.contains p then others.map (fun q => (q, 8, 0)) else (others.take 1).map (fun q => (q, 7, 2)) ++ (others.drop 1).map (fun q => (q, 8, 0))
    | _ => (if d.owner = p then [] else [(d.owner, 7, 2)]) ++ others.map (fun q => (q, 8, 0))
  else d.holders.map (fun q => (q, 8, 0))
/-- The switch starts a request's transaction. Data that no cache holds comes from home. -/
def State.startTrans (s : State) (m : FabMsg) : State :=
  let d := s.entryOf m.line
  let asks := d.asks m.kind m.src
  let t : Trans := { line := m.line, req := some m, acks := asks.map (·.1) }
  let s1 := { s with fab := { s.fab with trans := s.fab.trans ++ [t] } }
  let s2 := asks.foldl (fun x a => x.send { kind := a.2.1, src := m.src, dst := a.1, tag := m.tag, line := m.line, op := a.2.2 }) s1
  let s3 := if decide (m.kind ≤ 3) && d.st == 0 then s2.sendData m.dst m.src m.tag m.line else s2
  if asks = [] then s3.endTrans t else s3
/-- The set's victim is recalled: its holders give the line up (R375). -/
def State.recallVictim (s : State) (line : Nat) : State :=
  match s.victim line with
  | none => s
  | some v =>
    if s.lineBusy v then s
    else
      let hs := (s.entryOf v).holders
      let s1 := { s with fab := { s.fab with trans := s.fab.trans ++ [{ line := v, req := none, acks := hs }] } }
      hs.foldl (fun t q => t.send { kind := 8, src := pkgOf (128 * v), dst := q, line := v }) s1
/-- A request has its turn at the switch. Into a full set, a read shared gets its data with an uncached grant, and another waits for the
entry that is freed (R375). -/
def State.atSwitch (front : Bool) (s : State) (m : FabMsg) : State :=
  if decide (m.kind ≤ 3) && s.setFull m.line then
    let s1 := s.recallVictim m.line
    if m.kind = 1 then
      (s1.sendData m.dst m.src m.tag m.line).send { kind := 13, src := m.dst, dst := m.src, tag := m.tag, line := m.line, psn := s.poisoned (128 * m.line) }
    else s1.waitAt front m
  else s.startTrans m

/-- `READ_SHARED` (R371). -/
def execReadShared (s : State) : Out := onSwitch s 1 State.atSwitch
/-- `READ_EXCLUSIVE` (R371). -/
def execReadExclusive (s : State) : Out := onSwitch s 2 State.atSwitch
/-- `UPGRADE` (R371). -/
def execUpgrade (s : State) : Out := onSwitch s 3 State.atSwitch
/-- A write-back of an owner writes the line at home, with the poison it carries; from M it leaves I, from O what its sharers hold. One
that a transaction has overtaken is acknowledged and no more. -/
def State.evicted (s : State) (m : FabMsg) : State :=
  let d := s.entryOf m.line
  let s1 := if 3 ≤ d.st ∧ d.owner = m.src then
      let w := m.data.foldl (fun t b => { t with mem := { t.mem with gm := memPut t.mem.gm (128 * m.line + b.1) b.2 } }) s
      (w.markPsn m).setEntry m.line { d with st := if d.st = 4 then 1 else 0, owner := 0 }
    else s
  s1.send { kind := 11, src := m.src, dst := m.src, tag := m.tag, line := m.line, op := 1 }
/-- `WRITE_BACK` (R371, R382). -/
def execWriteBack (s : State) : Out := onSwitch s 4 (fun front s m => if m.op = 1 then State.atSwitch front s m else s.evicted m)
/-- `CLEAN_EVICTION` (R371, R372). -/
def execCleanEviction (s : State) : Out := onSwitch s 5 (fun _ s m =>
  let d := s.entryOf m.line
  let left := d.sharers.filter (· != m.src)
  let d1 : DirEntry := if d.st = 2 ∧ d.owner = m.src then { d with st := 0, sharers := left } else { d with sharers := left }
  (s.setEntry m.line d1).send { kind := 11, src := m.src, dst := m.src, tag := m.tag, line := m.line, op := 1 })
/-- `ATOMIC` (R374). -/
def execAtomic (s : State) : Out := onSwitch s 6 State.atSwitch
/-- A holder answers the switch. -/
def State.answer (s : State) (m : FabMsg) (op size : Nat) : State :=
  s.send { kind := 11, src := m.dst, dst := pkgOf (128 * m.line), tag := m.tag, line := m.line, op := op, size := size }
/-- `FORWARD` (R371): the owner sends its data to the requester, and shares or gives up its copy. -/
def execForward (s : State) : Out := onMsg s 7 (fun s m =>
  let s1 := s.sendData m.dst m.src m.tag m.line
  let s2 := if m.dst = s.plat.pkg then (if m.op = 2 then s1.giveUp m.line else s1.shareLine m.line) else s1
  s2.answer m 0 0)
/-- `INVALIDATE` (R371): the holder drops its copy; an owner's data is at GM, which the home then writes. -/
def execInvalidate (s : State) : Out := onMsg s 8 (fun s m =>
  (if m.dst = s.plat.pkg then s.giveUp m.line else s).answer m 0 0)
/-- `RECALL` (R376): a package answers with its state, as its copy or the entry gives it. -/
def execRecall (s : State) : Out := onMsg s 9 (fun s m =>
  s.answer m 3 (if m.dst = s.plat.pkg then s.holding m.line else (s.entryOf m.line).stateOf m.dst))
/-- `DATA` (R371): the line's data reaches its requester; in this package it waits for the grant. -/
def execData (s : State) : Out := onMsg s 10 (fun s m =>
  if m.dst ≠ s.plat.pkg ∨ m.op = 1 then s else { s with fab := { s.fab with arrived := s.fab.arrived.filter (fun x => x.line != m.line) ++ [m] } })
/-- The data that waits for a line's grant is there to use: it fills PM (R373). -/
def State.useData (s : State) (line : Nat) : State :=
  match s.fab.arrived.find? (fun x => x.line = line) with
  | none => s
  | some m =>
    (({ s with fab := { s.fab with arrived := s.fab.arrived.filter (fun x => x.line != line) } } : State).fillPm (128 * line) (m.data.map (·.2))).markPsn m
/-- `GRANT` (R371): the requester holds the line in the state granted, and uses its data from now on. -/
def execGrant (s : State) : Out := onMsg s 12 (fun s m =>
  if m.dst = s.plat.pkg then (({ s with fab := { s.fab with peer := smPut 0 s.fab.peer m.line m.op } } : State).useData m.line).markPsn m else s)
/-- `UNCACHED_GRANT` (R375): the data is delivered once, and no copy is kept. -/
def execUncachedGrant (s : State) : Out := onMsg s 13 (fun s m => if m.dst = s.plat.pkg then (s.useData m.line).markPsn m else s)

/-! ### Recalls (R376, R377) -/

/-- Every package that an entry, or the transaction in progress, names as a possible holder. -/
def State.possible (s : State) (line : Nat) : List Nat :=
  ((s.entryOf line).holders ++ (s.fab.trans.filter (fun t => t.line = line)).flatMap (fun t => (t.req.map (·.src)).toList)).dedup
/-- The entry that the answers to a recall give. -/
def rebuilt (d : DirEntry) (as : List (Nat × Nat)) : DirEntry :=
  let sharers := (as.filter (fun a => a.2 = 1)).map (·.1)
  match as.find? (fun a => 2 ≤ a.2) with
  | some a => { d with st := a.2, owner := a.1, sharers := sharers }
  | none => { d with st := if sharers = [] then 0 else 1, owner := 0, sharers := sharers }
/-- A recall is over: the entry is rebuilt, and the interrupted transaction starts again, ahead of what waits. -/
def State.endRecall (s : State) (t : Trans) : State :=
  let s1 := { s with fab := { s.fab with trans := dropFirst (fun x => x.line = t.line) s.fab.trans } }
  let s2 := s1.setEntry t.line (rebuilt (s.entryOf t.line) t.answers)
  { s2 with fab := { s2.fab with waiting := t.req.toList ++ s2.fab.waiting } }
/-- Change the transaction of a line. -/
def State.modTrans (s : State) (line : Nat) (f : Trans → Trans) : State :=
  { s with fab := { s.fab with trans := replaceFirst (fun t => t.line = line) f s.fab.trans } }
/-- The transaction of a line. -/
def State.findTrans (s : State) (line : Nat) : Option Trans := s.fab.trans.find? (fun t => t.line = line)
/-- An answer to an invalidation or a forward: the last one ends the transaction. A recall of the line waits for its own answers. -/
def State.gotAck (s : State) (m : FabMsg) : State :=
  let s1 := s.modTrans m.line (fun t => { t with acks := t.acks.erase m.src })
  match s1.findTrans m.line with
  | none => s1
  | some t => if t.acks = [] ∧ t.recallCause = none then s1.endTrans t else s1
/-- An answer to a recall: the last one ends it. -/
def State.gotAnswer (s : State) (m : FabMsg) : State :=
  let s1 := s.modTrans m.line (fun t => { t with answers := t.answers.filter (fun a => a.1 != m.src) ++ [(m.src, m.size)] })
  match s1.findTrans m.line with
  | none => s1
  | some t => if t.recallCause.isSome && (s1.possible m.line).all (fun p => t.answers.any (fun a => a.1 = p)) then s1.endRecall t else s1
/-- `ACKNOWLEDGEMENT` (R368, R372, R374, R376). -/
def execAcknowledgement (s : State) : Out := onMsg s 11 (fun s m =>
  match m.op with
  | 0 => s.gotAck m
  | 1 => if m.dst = s.plat.pkg then { s with fab := { s.fab with evict := smDel s.fab.evict m.line } } else s
  | 2 => { s with fab := { s.fab with kept := s.fab.kept.filter (fun k => !(decide (k.1 = m.src) && decide (k.2.1 = m.tag))) } }
  | _ => s.gotAnswer m)
/-- `LINE_RECALL` (R376): cause 0 lost update, 1 lost acknowledgement, 2 switch error. -/
def execLineRecall (line cause : Nat) (s : State) : Out := .next (
  let hs := s.possible line
  if 3 ≤ cause ∨ hs = [] then s
  else
    let s1 := if s.lineBusy line then s.modTrans line (fun t => { t with recallCause := some cause, answers := [], age := 0 })
      else { s with fab := { s.fab with trans := s.fab.trans ++ [{ line := line, req := none, recallCause := some cause }] } }
    hs.foldl (fun t q => t.send { kind := 9, src := pkgOf (128 * line), dst := q, line := line }) s1)
/-- The body of a RECALL record (R377). -/
def recallBody (psn : Bool) (cause line : Nat) (silent : Option Nat) (plane : Nat) : List Nat :=
  [b2n psn * 2 ^ 63 + cause * 2 ^ 61 + line * 128, b2n silent.isSome * 2 ^ 16 + silent.getD 0 * 2 ^ 8 + plane]
/-- The recall window of a plane in switch cycles: 2^20, scaled for the smallest W on the plane (R376, R383). -/
def State.recallLimit (s : State) (plane : Nat) : Nat :=
  let l := s.link plane
  scaledTime (2 ^ 20) (min l.minW (if l.down then 16 else widthOf l.waves))
/-- This package has still to answer a recall, and its link to the plane is up: its answer is on its way (R376). -/
def State.owesAnswer (s : State) (line : Nat) (t : Trans) : Bool :=
  (s.possible line).contains s.plat.pkg && !(t.answers.any (fun a => a.1 = s.plat.pkg)) && !((s.link (s.planeOf line)).down)
/-- `RECALL_WINDOW_EXPIRY` (R376): silent E and S holders are removed; a silent possible M or O holder leaves the line poisoned. This
package is silent only when its link to the plane is down. -/
def execRecallWindowExpiry (line : Nat) (s : State) : Out := .next (
  match s.findTrans line with
  | none => s
  | some t => (match t.recallCause with
    | none => s
    | some cause =>
      if t.age < s.recallLimit (s.planeOf line) ∨ s.owesAnswer line t = true then s else
      let d := s.entryOf line
      let silent := (s.possible line).filter (fun p => !(t.answers.any (fun a => a.1 = p)))
      let dirty (p : Nat) : Bool := (decide (3 ≤ d.st) && d.owner == p) || t.req.any (fun m => m.src == p && (m.kind == 2 || m.kind == 3))
      let bad := silent.find? dirty
      let plane := s.planeOf line
      let s1 := s.endRecall t
      let s2 := if bad.isSome && !(s1.mem.psn.contains line) then
          { s1 with mem := { s1.mem with psn := line :: s1.mem.psn, cover := smDel s1.mem.cover line } } else s1
      if s.homed (128 * line) || t.req.any (fun m => m.src == s.plat.pkg) then
        s2.post (4 + plane / 24) 9 (4 + plane / 24) none 0 0 (recallBody bad.isSome cause line bad plane)
      else s2))

/-! ### Pod barriers (R358, R381) -/

/-- Cycles of a plane's switch pass: its recalls run (R7, R376). -/
def State.switchCycles (s : State) (plane n : Nat) : State :=
  { s with fab := { s.fab with trans := s.fab.trans.map (fun t => if s.planeOf t.line = plane ∧ t.recallCause.isSome = true then { t with age := t.age + n } else t) } }
/-- Two messages belong to one barrier: the identity of R358. -/
def sameBar (a b : BarMsg) : Bool :=
  a.pkg == b.pkg && a.die == b.die && a.part == b.part && a.ctxid == b.ctxid && a.node == b.node && a.bar == b.bar
/-- What a package has counted toward a phase. -/
def PodBar.counted (b : PodBar) (p : Nat) : Nat := ((b.seen.filter (fun x => x.1 = p)).map (·.2)).sum
/-- An increment is summed; a resent one only so far as it was not counted before (R381). -/
def PodBar.add (b : PodBar) (m : BarMsg) : PodBar :=
  if m.phase < b.phase then b
  else if b.phase < m.phase then
    { b with nextCount := b.nextCount + m.n, nextExpect := if b.nextCount = 0 then m.expect else b.nextExpect, seen := b.seen ++ [(m.src, 0)] }
  else
    let n := if m.op = 2 then m.n - b.counted m.src else m.n
    let expect := if b.expect = 0 then m.expect else b.expect
    { b with
      count := b.count + n
      expect := expect
      nextExpect := if expect < b.count + n ∧ b.nextCount = 0 then m.expect else b.nextExpect
      seen := b.seen ++ [(m.src, n)] }
/-- The completions of phases that are complete, in turn, and the entry that is left: none when no arrival of the next phase is
pending (R381). An arrival beyond the count opens the next phase with the count it gave (R186). -/
def phasesDone (pkg : Nat) : Nat → PodBar → List BarMsg × Option PodBar
  | 0, b => ([], some b)
  | fuel + 1, b =>
    if b.expect = 0 ∨ b.count < b.expect then ([], some b)
    else
      let done : List BarMsg := ((b.seen.map (·.1)).dedup).map (fun p =>
        { b.ident with phase := b.phase, n := b.expect, expect := 0, src := pkg, dst := p, op := 1, seq := none })
      let left := b.count - b.expect + b.nextCount
      if left = 0 then (done, none)
      else
        let r := phasesDone pkg fuel { b with
          phase := b.phase + 1, count := left, expect := b.nextExpect, nextCount := 0, nextExpect := b.nextExpect
          seen := b.seen.map (fun x => (x.1, 0)) }
        (done ++ r.1, r.2)
/-- A phase that is complete sends its completions, and the entry goes on to the next phase, or is free (R381). -/
def State.settlePod (s : State) (b : PodBar) : State :=
  let others := s.fab.bars.filter (fun x => !(sameBar x.ident b.ident))
  let r := phasesDone s.plat.pkg (b.count + b.nextCount) b
  r.1.foldl (fun t m => t.sendBar m) { s with fab := { s.fab with bars := others ++ r.2.toList } }
/-- A barrier message may be taken: it has left its sender, and its links bring it. -/
def State.barHere (s : State) (m : BarMsg) : Bool := m.seq.isSome && s.arrives (s.barCrossing m)
/-- An increment finds its entry, or a free one (R381). -/
def State.barRoom (s : State) (m : BarMsg) : Bool :=
  s.fab.bars.any (fun b => sameBar b.ident m) || decide ((s.fab.bars.filter (fun b => s.barPlane b.ident = s.barPlane m)).length < 65536)
/-- The next barrier message of a sort, and the state without it, with its flit received. -/
def State.takeBar (s : State) (p : BarMsg → Bool) : Option (BarMsg × State) :=
  (s.fab.barNet.find? (fun m => p m && s.barHere m)).map (fun m =>
    (m, (({ s with fab := { s.fab with barNet := dropFirst (fun x => x == m) s.fab.barNet } } : State).received (s.barCrossing m)).pump))
/-- `BARRIER_INCREMENT` (R381): with no entry free an increment of a new identity is held. -/
def execBarrierIncrement (s : State) : Out := .next (
  match s.takeBar (fun m => m.op != 1 && s.barRoom m) with
  | none => s
  | some (m, s1) => s1.settlePod (((s.fab.bars.find? (fun b => sameBar b.ident m)).getD { ident := m, phase := m.phase }).add m))
/-- The key of this package's own view of a pod barrier. -/
def podKey (m : BarMsg) : Nat × Nat × Nat :=
  (slotKey ⟨m.part * 65536 + m.ctxid, m.die, m.node / 4096⟩ * 4096 + m.node % 4096, barIdx 6 m.bar, 0)
/-- `BARRIER_COMPLETION` (R381): the phase is over for the arrivals of this package that it counts. -/
def execBarrierCompletion (s : State) : Out := .next (
  match s.takeBar (fun m => m.op == 1) with
  | none => s
  | some (m, s1) =>
    let b := s1.wideBar (podKey m)
    if m.dst ≠ s.plat.pkg ∨ b.phase ≠ m.phase then s1
    else
      let s2 := { s1 with fab := { s1.fab with sentArr := s1.fab.sentArr.filter (fun x => !(sameBar x m && x.phase == m.phase)) } }
      (s2.completeWide (podKey m) (min m.n b.arrived.length)).wakeAll)

/-! ### A lost plane (R378 to R380) -/

/-- The planes that survive. -/
def State.livePlanes (s : State) : List Nat := (List.range 48).filter (fun p => !(s.fab.lost.contains p))
/-- R379: the entries of REMAP that name a lost plane, given the surviving planes in turn. -/
def rewrite (live : List Nat) (at' : Nat → Nat) (lost : Nat) : List (Nat × Nat) :=
  (((List.range 4096).filter (fun e => at' e = lost)).zipIdx).map (fun x => (x.1, live.getD (x.2 % live.length) 0))
/-- This package's arrivals of barriers on a plane, one resent increment for each barrier and phase (R381). -/
def State.resend (s : State) (plane : Nat) : List BarMsg :=
  let ms := s.fab.sentArr.filter (fun m => s.barPlane m = plane)
  let firsts := ms.foldl (fun (acc : List BarMsg) m => if acc.any (fun x => sameBar x m && x.phase == m.phase) then acc else acc ++ [m]) []
  firsts.map (fun m => { m with n := ((ms.filter (fun x => sameBar x m && x.phase == m.phase)).map (·.n)).sum, op := 2, seq := none })
/-- R362: a damaged increment of this package is sent again, with every arrival that it keeps of the phase. -/
def State.againBar (s : State) (k : Nat) : State :=
  match s.fab.barNet[k]? with
  | none => s
  | some m =>
    if m.op = 1 ∨ m.src ≠ s.plat.pkg then s
    else
      let s1 := { s with fab := { s.fab with barNet := s.fab.barNet.eraseIdx k } }
      ((s.resend (s.barPlane m)).filter (fun x => sameBar x m && x.phase == m.phase)).foldl (fun t x => t.sendBar x) s1
/-- R362: what becomes of a message that its plane has lost, as its sender or its requester sends it again: requests, clean evictions and
atomics as they were; one whose grant or reply is lost as the request that had it. -/
def retried (m : FabMsg) : List FabMsg :=
  let again (kind : Nat) : List FabMsg := [{ kind := kind, src := m.dst, dst := m.src, tag := m.tag, line := m.line }]
  if m.kind ≤ 3 ∨ m.kind = 5 ∨ m.kind = 6 then [{ m with seq := none }]
  else if m.kind = 12 then again (if m.op = 3 then 2 else 1)
  else if m.kind = 13 then again 1
  else if m.kind = 10 ∧ m.op = 1 then again 6
  else []
/-- R379: a table of planes in which the entries that name a lost plane name the surviving ones. -/
def rewritten (live : List Nat) (at' : Nat → Nat) (lost : Nat) (m : SMap Nat) : SMap Nat := (rewrite live at' lost).foldl (fun m e => smIns m e.1 e.2) m
/-- The entries of the others' plane table that differ from this package's after both have been rewritten. -/
def State.othersRewritten (s : State) (live : List Nat) (lost : Nat) : SMap Nat :=
  if s.fab.swRemap = [] then []
  else
    let mine := rewritten live s.remapAt lost s.fab.remap
    let theirs := rewritten live s.otherRemapAt lost []
    let at1 (e : Nat) : Nat := (smFind mine e).getD (e % 48)
    ((List.range 4096).map (fun e => (e, (smFind theirs e).getD (s.otherRemapAt e)))).filter (fun x => x.2 != at1 x.1)
/-- Write-backs and engine writes that a lost plane did not bring home are written there directly (R362, R378). -/
def State.writeLost (s : State) (ms : List FabMsg) : State :=
  (ms.filter (fun m => m.kind = 4)).foldl (fun t m =>
    if m.op = 1 then t.homeWrite m
    else State.markPsn { t with mem := { t.mem with gm := m.data.foldl (fun g (b : Nat × Byte) => memPut g (128 * m.line + b.1) b.2) t.mem.gm } } m) s
/-- `PLANEDOWN` (R378): cause 0 the switch failed, 1 this package's link is down, 2 another package's. Write-backs on the plane are written
home; clean copies are dropped; directories of the plane are gone; requests, whether on their way, waiting or in progress, go to the
lines' new planes. -/
def execPlanedown (plane cause pkg : Nat) (s : State) : Out := .next (
  let live := s.livePlanes.filter (· != plane)
  if 48 ≤ plane ∨ s.fab.lost.contains plane ∨ live = [] ∨ 3 ≤ cause ∨ (cause = 1 ∧ (s.link plane).down = false) then s
  else
    let onPlane (line : Nat) : Bool := s.planeOf line == plane
    let mine := (s.fab.peer ++ s.fab.evict.filter (fun p => smGet 0 s.fab.peer p.1 = 0)).filter (fun p => onPlane p.1)
    let dropped := (mine.filter (fun p => decide (p.2 ≤ 2))).length
    let written := mine.length - dropped
    let inFlight := s.fab.net.filter (fun m => onPlane m.line)
    let atSwitch := (s.fab.trans.filter (fun t => onPlane t.line)).flatMap (fun t => t.req.toList) ++ s.fab.waiting.filter (fun m => onPlane m.line)
    let s1 := s.writeLost (inFlight ++ atSwitch)
    let lines := ((s.fab.dir.map (·.1)) ++ s.fab.remote).filter onPlane
    let s2 := lines.foldl (fun t l => t.dropEntry l) s1
    let s3 : State := { s2 with fab := { s2.fab with
      lost := s2.fab.lost ++ [plane]
      peer := s2.fab.peer.filter (fun p => !(onPlane p.1))
      evict := s2.fab.evict.filter (fun p => !(onPlane p.1))
      arrived := s2.fab.arrived.filter (fun m => !(onPlane m.line))
      trans := s2.fab.trans.filter (fun t => !(onPlane t.line))
      waiting := s2.fab.waiting.filter (fun m => !(onPlane m.line))
      net := s2.fab.net.filter (fun m => !(onPlane m.line)) ++ (atSwitch ++ inFlight).flatMap retried
      barNet := s.fab.barNet.filter (fun m => s.barPlane m != plane) ++ s.resend plane
      bars := s2.fab.bars.filter (fun b => s.barPlane b.ident != plane)
      remap := rewritten live s.remapAt plane s2.fab.remap
      swRemap := s.othersRewritten live plane } }
    s3.pump.post (4 + plane / 24) 8 (4 + plane / 24) none 0 0
      [live.length * 2 ^ 24 + (if cause = 0 then 0 else if cause = 1 then s.plat.pkg else pkg % 256) * 2 ^ 16 + cause * 2 ^ 8 + plane, written, dropped])
/-- `PLANE_READMISSION` (R376): a package comes back to a plane without its clean peer lines of it. -/
def execPlaneReadmission (pkg plane : Nat) (s : State) : Out := .next (
  if 48 ≤ plane then s
  else
    let onPlane (line : Nat) : Bool := s.planeOf line == plane
    let s1 := (s.fab.dir.filter (fun e => onPlane e.1)).foldl (fun t e =>
      let clean : DirEntry := { e.2 with
        st := if e.2.st = 2 ∧ e.2.owner = pkg then 0 else e.2.st
        sharers := e.2.sharers.filter (· != pkg) }
      t.setEntry e.1 clean) s
    let peer := if pkg = s.plat.pkg then s1.fab.peer.filter (fun p => !(onPlane p.1 && decide (p.2 ≤ 2))) else s1.fab.peer
    let s2 : State := { s1 with fab := { s1.fab with peer := peer, lost := s1.fab.lost.filter (· != plane) } }
    if pkg = s.plat.pkg then s2.modLink plane (fun l => { l with down := false, fails := 0, up := {}, dn := {} }) else s2)

/-! ### What comes from outside (R357 to R359, R367) -/

/-- The line that a TAG of this package names (TYPE 10). -/
def State.tagLine (s : State) (tag : Nat) : Nat :=
  let mine (m : FabMsg) : Bool := m.src == s.plat.pkg && m.tag == tag
  (((s.fab.trans.flatMap (fun t => t.req.toList) ++ s.fab.waiting ++ s.fab.net).find? mine).map (·.line)).getD 0
/-- Flits come in on the wavelengths of this package's link to a plane: one that is not whole, or has a wrong CRC or a zero field that is not
zero, is a CRC failure; one that is not the next in order is discarded; the acknowledgement that they carry counts, and their message
is on its way. -/
def State.flitsIn (s : State) (plane : Nat) (flits : List (List (Nat × List Byte))) : State :=
  let l := s.link plane
  let raw := flits.map (unstripe l.waves)
  let fs := raw.filterMap id
  let h := hdrIn (fs.headD [])
  let good := decide (flits ≠ []) && decide (fs.length = raw.length) && (fs.zipIdx).all (fun x => flitGood (x.2 == 0) x.1)
  if 48 ≤ plane ∨ l.open = false ∨ l.dn.nak = true then s
  else if good = false then
    (s.modLink plane (fun l => { l with dn := { l.dn with nak := true } })).crcFailed plane false
  else if h.seq ≠ l.dn.seq ∨ h.dst ≠ s.plat.pkg then s
  else
    let s1 := if h.ackv && decide ((h.ackseq + 1 + 4096 - l.up.acked) % 4096 ≤ (l.up.got + 4096 - l.up.acked) % 4096) then
        s.modLink plane (fun l => { l with up := { l.up with acked := (h.ackseq + 1) % 4096, age := 0 } }) else s
    let s2 := s1.modLink plane (fun l => { l with dn := l.dn.send flits.length })
    let here := s2.modLink plane (fun l => { l with dn := l.dn.take flits.length })
    let bar := barIn (fs.headD [])
    let m := msgIn s.tagLine fs
    if h.kind = 14 ∧ bar.op = 1 then { s2 with fab := { s2.fab with barNet := s2.fab.barNet ++ [bar] } }
    else if 1 ≤ h.kind ∧ h.kind ≤ 13 ∧ (s.crossing m).down = true ∧ s.planeOf m.line = plane then { s2 with fab := { s2.fab with net := s2.fab.net ++ [m] } }
    else here
/-- An entry of the plane table as other packages and the switches hold it (R367). -/
def State.setOther (s : State) (e plane : Nat) : State :=
  let rest := smDel s.fab.swRemap (e % 4096)
  { s with fab := { s.fab with swRemap := if plane % 48 = s.remapAt (e % 4096) then rest else smIns rest (e % 4096) (plane % 48) } }
/-- Message k moves ahead of those before it that share no link with it (R361). -/
def State.netFirst (s : State) (k : Nat) : State :=
  match s.fab.net[k]? with
  | none => s
  | some m =>
    if (s.fab.net.take k).any (fun x => (s.crossing x).shares (s.crossing m)) then s
    else { s with fab := { s.fab with net := m :: s.fab.net.eraseIdx k } }
/-- A message of another package enters the fabric. -/
def State.peerMsg (s : State) (m : FabMsg) : State :=
  if m.src = s.plat.pkg ∨ m.kind = 0 ∨ 13 < m.kind then s else s.send m
/-- A barrier message of another package, or of a switch, enters the fabric. -/
def State.peerBar (s : State) (m : BarMsg) : State := if m.src = s.plat.pkg ∨ 3 ≤ m.op then s else s.sendBar m

end Sys2Proof.Machine
end

