-- ==== Sys2Proof/Machine/Host.lean ====
section
/-!
DEFINITION. Host.lean: what the host does: CXL.mem accesses, register writes, the mailbox commands of the partition manager, and SPDM
requests (R266, R299, R340, R385 to R395, R397, R400, R404).
-/
namespace Sys2Proof.Machine

/-! ### CXL.mem (R299, R386, R389) -/

/-- The far frames of a partition's HDM range: its grant in order, or all of far memory where no grant is listed (log 24). -/
def State.hdmFar (s : State) (part : Nat) : Nat → Option Nat := fun k =>
  match smFind s.plat.farGrant part with
  | some fs => fs[k / 65536]?.map (fun f => f + k % 65536)
  | none =>
    let cap (p : Nat) : Nat := smGet 0 s.host.portcap p
    let start (p : Nat) : Nat := ((List.range p).map cap).sum
    ((List.range 8).find? (fun p => decide (start p ≤ k) && decide (k < start p + cap p))).map (fun p =>
      s.plat.pkg * 2 ^ 49 + 2 ^ 44 + p * 2 ^ 41 + (k - start p))
/-- R386, R389: the physical address of an offset in a partition's HDM range: 1 GiB of every stack, then far memory. -/
def State.hdmPa (s : State) (part off : Nat) : Option Nat :=
  if off < 12 * 2 ^ 30 then some (s.plat.pkg * 2 ^ 49 + off / 2 ^ 30 * 2 ^ 36 + part * 2 ^ 30 + off % 2 ^ 30) else s.hdmFar part (off - 12 * 2 ^ 30)
/-- The host reaches a byte of a partition: its keys exist and the byte is backed. -/
def State.hdmOk (s : State) (part pa : Nat) : Bool :=
  s.plat.parts.contains part &&
  (if inHbm (offOf pa) then s.stackUp (stackOf (offOf pa)) else decide (offOf pa % 2 ^ 41 < smGet 0 s.host.portcap (portOf (offOf pa))))
/-- One byte that the host reads, at PM; none is a poison response. -/
def State.hostByte (s : State) (part off : Nat) : Option Byte :=
  match s.hdmPa part off with
  | none => none
  | some pa => if s.hdmOk part pa && !(s.poisoned pa) then some (memGet s.mem.pm pa) else none
/-- One byte that the host writes. -/
def State.hostPut (s : State) (part off : Nat) (b : Byte) : State :=
  match s.hdmPa part off with
  | none => s
  | some pa => if s.hdmOk part pa && !(s.fencedByte pa) then s.homePut pa b else s
/-- `HOST_MEM_ACCESS` (R386): a write, or a read whose answer is kept; before stacks 0 to 2 are trained it waits (R401). -/
def execHostMemAccess (part off : Nat) (wr : Option (List Byte)) (len : Nat) (s : State) : Out := .next (
  if !s.plat.step5 then s
  else match wr with
    | some bs => (List.range bs.length).foldl (fun t i => t.hostPut part (off + i) (bs.getD i 0)) s
    | none => { s with host := { s.host with memResp := (List.range len).map (fun i => s.hostByte part (off + i)) } })

/-! ### Registers of the context page and the management page (R387, R388, R391, R400) -/

/-- R388: a write of a tail: ignored when it moves back or past the size. -/
def newTail (head tail size v : W64) : W64 :=
  if size.toNat < (v - head).toNat ∨ (v - head).toNat < (tail - head).toNat then tail else v
/-- A size that R387 and R391 allow: a power of two in a range. -/
def sizeOk (v : W64) (lo hi : Nat) : Bool := decide (lo ≤ v.toNat) && decide (v.toNat ≤ hi) && v.toNat == 2 ^ Nat.log2 v.toNat
/-- A ring's base and size change only while it is empty (R388). -/
def HostRing.setBase (r : HostRing) (v : W64) : HostRing := if r.head = r.tail ∧ v.toNat % 64 = 0 then { r with base := v, baseSet := true } else r
/-- The size of a ring. -/
def HostRing.setSize (r : HostRing) (v : W64) (lo hi : Nat) : HostRing := if r.head = r.tail ∧ sizeOk v lo hi = true then { r with size := v } else r
/-- Vector and enable. -/
def HostRing.setVec (r : HostRing) (v : W64) : HostRing := { r with vec := v &&& 0xFFF }
/-- Change a launch queue's registers. -/
def State.modLq (s : State) (ctx q : Nat) (f : LQueue → LQueue) : State :=
  s.modCtx ctx (fun c => { c with lq := smIns c.lq q (f (smGet {} c.lq q)) })
/-- A write of LQTAIL. -/
def State.setTail (s : State) (ctx q : Nat) (v : W64) : State :=
  s.modLq ctx q (fun x => { x with tail := newTail x.head x.tail x.size v })
/-- `LQTAIL` (R388). -/
def execLqtail (ctx q : Nat) (v : W64) (s : State) : Out := .next (if q < 4 then s.setTail ctx q v else s)
/-- A write of a half of FEATACC (R400): only offered bits, only while no context exists. -/
def State.setFeat (s : State) (hi : Bool) (v : W64) : State :=
  if s.ctxs ≠ [] then s
  else
    let old := s.host.featacc
    let x : BitVec 128 := if hi then v ++ old.extractLsb' 0 64 else old.extractLsb' 64 64 ++ v
    { s with host := { s.host with featacc := x &&& s.host.featoff } }
/-- `FEATACC` (R400). -/
def execFeatacc (hi : Bool) (v : W64) (s : State) : Out := .next (s.setFeat hi v)
/-- A host write of a context page (R387); a register that only the device writes, or that is absent, is left alone. -/
def State.ctxWrite (s : State) (ctx off : Nat) (v : W64) : State :=
  if off < 0x80 then
    let q := off / 0x20
    match off % 0x20 with
    | 0x00 => s.modLq ctx q (fun x => if x.head = x.tail ∧ v.toNat % 64 = 0 then { x with base := v } else x)
    | 0x08 => s.modLq ctx q (fun x => if x.head = x.tail ∧ sizeOk v 16 65536 = true then { x with size := v } else x)
    | 0x18 => s.setTail ctx q v
    | _ => s
  else match off with
    | 0x80 => (s.modCtx ctx (fun c => { c with eq := c.eq.setBase v })).flushHeld
    | 0x88 => (s.modCtx ctx (fun c => { c with eq := c.eq.setSize v 64 65536 })).flushHeld
    | 0x90 => (s.modCtx ctx (fun c => { c with eq := { c.eq with head := v } })).flushHeld
    | 0xA0 => s.modCtx ctx (fun c => { c with eq := c.eq.setVec v })
    | 0xB0 => s.modCtx ctx (fun c => { c with rfhead := v })
    | _ => s
/-- Change the host's side. -/
def State.modHost (s : State) (f : HostSt → HostSt) : State := { s with host := f s.host }
/-- A host write of the management page (R391). -/
def State.mgmtWrite (s : State) (off : Nat) (v : W64) : State :=
  match off with
  | 0x10 => s.setFeat false v
  | 0x18 => s.setFeat true v
  | 0x40 => s.modHost (fun h => { h with mb := h.mb.setBase v })
  | 0x48 => s.modHost (fun h => { h with mb := h.mb.setSize v 16 4096 })
  | 0x58 => s.modHost (fun h => { h with mb := { h.mb with tail := newTail h.mb.head h.mb.tail h.mb.size v } })
  | 0x60 => s.modHost (fun h => { h with mb := h.mb.setVec v })
  | 0x80 => (s.modHost (fun h => { h with meq := h.meq.setBase v })).flushHeld
  | 0x88 => (s.modHost (fun h => { h with meq := h.meq.setSize v 64 65536 })).flushHeld
  | 0x90 => (s.modHost (fun h => { h with meq := { h.meq with head := v } })).flushHeld
  | 0xA0 => s.modHost (fun h => { h with meq := h.meq.setVec v })
  | _ => s
/-- `HOST_REGISTER_WRITE` (R388): of a context's page, or of the management page. -/
def execHostRegisterWrite (ctx : Option Nat) (off : Nat) (v : W64) (s : State) : Out :=
  .next (match ctx with | some c => s.ctxWrite c off v | none => s.mgmtWrite off v)

/-! ### The mailbox (R391, R392) -/

/-- The head entry of the mailbox ring, as eight words; none when the ring is not set up, or empty. -/
def State.mbHead (s : State) : Option (List Nat) :=
  let r := s.host.mb
  if r.size = 0 ∨ r.head = r.tail then none
  else
    let a := r.base.toNat + 64 * (r.head.toNat % r.size.toNat)
    some ((List.range 8).map (fun i => s.pmNat (a + 8 * i) 8))
/-- Complete the head command: the reply in bytes 8 to 15, the error code in byte 1, byte 7 done; then MBHEAD rises. -/
def State.mbDone (s : State) (err : Nat) (reply : Option Nat) : State :=
  let r := s.host.mb
  let a := r.base.toNat + 64 * (r.head.toNat % r.size.toNat)
  let s1 := match reply with | some x => s.homePuts (a + 8) (leBytes 8 x) | none => s
  let s2 := (s1.homePut (a + 1) (BitVec.ofNat 8 err)).homePut (a + 7) 1
  let s3 := s2.modHost (fun h => { h with mb := { h.mb with head := h.mb.head + 1 } })
  if bitN r.vec.toNat 11 then s3.modHost (fun h => { h with msi := h.msi ++ [bitsN r.vec.toNat 0 11] }) else s3
/-- What a command answers: an error code; or the state after it, with its reply. -/
abbrev MbOut := Except Nat (State × Option Nat)
/-- The valid copy of the start record with the higher generation (R397). -/
def validCopy (cs : List StartCopy) : Option StartCopy :=
  let ok := cs.filter (·.valid)
  ok.find? (fun c => ok.all (fun x => decide (x.gen ≤ c.gen)))
/-- A mailbox command is served once step 4 has passed; READSTART (OP 0x0A) as soon as the host port works, which step 2 brings (R398). -/
def State.serves (s : State) (op : Nat) : Bool :=
  s.plat.started || (op == 10 && decide (2 ≤ s.plat.startStep) && ((validCopy s.plat.flash).map (fun c => (c.steps.getD 1 {}).outcome)).getD 0 == 0)
/-- Run the head command when it is the one of an OP, and well-formed in bytes 1 to 7. The operands are the words from byte 8 on. -/
def onMb (s : State) (op : Nat) (f : (Nat → Nat) → MbOut) : Out := .next (
  match s.mbHead with
  | none => s
  | some ws =>
    if ws.getD 0 0 ≠ op ∨ s.serves op = false then s
    else match f (fun i => ws.getD i 0) with
      | .error e => s.mbDone e none
      | .ok (t, reply) => t.mbDone 0 reply)
/-- `MALFORMED_COMMAND` (R391): error 1. -/
def execMalformedCommand (s : State) : Out := .next (
  match s.mbHead with
  | none => s
  | some ws => if 1 ≤ ws.getD 0 0 ∧ ws.getD 0 0 ≤ 12 ∨ !s.plat.started then s else s.mbDone 1 none)

/-- The key of a context that PART and CTXID name; error 1 for an operand out of range, 2 for a context that does not exist. -/
def State.mbCtx (s : State) (part id : Nat) : Except Nat Nat :=
  if 64 ≤ part ∨ 65536 ≤ id then .error 1
  else if (smFind s.ctxs (part * 65536 + id)).isNone then .error 2 else .ok (part * 65536 + id)
/-- A CTXID may be given: no context has it, and nothing of an earlier one is left. -/
def State.ctxFree (s : State) (c : Nat) : Bool :=
  (smFind s.ctxs c).isNone && s.allWgs.all (fun w => w.wu == 0 || w.ctx != c) && s.eng.ops.all (fun e => e.ctx != c)
/-- The lowest CTXID from 1 up that is free in a partition. -/
def State.newCtxid (s : State) (part : Nat) : Option Nat := ((List.range 65535).map (· + 1)).find? (fun k => s.ctxFree (part * 65536 + k))
/-- R393: the fields of a context descriptor, of eight words, that error 1 refuses. -/
def State.badCtx (s : State) (part : Nat) (w : Nat → Nat) : Bool :=
  bitsN (w 0) 57 7 != 0 || bitsN (w 0) 3 13 != 0 || w 0 % 4 == 3 || (w 1 != 0 && (pcOf (BitVec.ofNat 64 (w 1))).isNone) || w 2 % 64 != 0 ||
  !(bitN (w 3) part) || (List.range 64).any (fun k => bitN (w 3) k && !(s.plat.parts.contains k)) || w 4 % 4096 != 0 ||
  decide (2 ^ 20 < w 5) || w 6 != 0 || w 7 != 0
/-- The context that a descriptor makes: full service, or a UNIFIED context of twilight (R401). -/
def State.makeCtx (s : State) (w : Nat → Nat) : Ctx :=
  { mode := if s.plat.full then w 0 % 4 else 0, dbg := bitN (w 0) 2, root := bitsN (w 0) 16 41 * 65536, evbase := BitVec.ofNat 64 (w 1), relq := w 2
    pmask := BitVec.ofNat 64 (w 3), htbase := w 4, htsize := w 5, feats := s.host.featacc, twilight := !s.plat.full }
/-- `CREATE` (R392, R393, R400, R401): it waits until stacks 0 to 2 are trained. -/
def execCreate (s : State) : Out :=
  if !s.plat.step5 then .next s
  else onMb s 1 (fun w =>
    let part := w 1
    if 64 ≤ part then .error 1
    else if !(s.plat.parts.contains part) then .error 2
    else
      let d (i : Nat) : Nat := s.pmNat (w 2 + 8 * i) 8
      if s.rangePoison (w 2) 64 || s.badCtx part d then .error 1
      else if d 0 % 4 ≠ 0 ∧ !(s.host.featacc.getLsbD 4) then .error 3
      else match s.newCtxid part with
        | none => .error 4
        | some id => .ok ({ s with ctxs := smIns s.ctxs (part * 65536 + id) (s.makeCtx d) }, some id))
/-- `DESTROY` (R392): the CONTEXT policy, then the context is no more. -/
def execDestroy (s : State) : Out := onMb s 2 (fun w =>
  match s.mbCtx (w 1) (w 2) with
  | .error e => .error e
  | .ok c =>
    let s1 := s.stopCtx c
    let nodes := s1.eng.nodes.filter (fun n => n.ref.ctx != c)
    let tlb := s1.mem.tlb.filter (fun t => t.ctx != c)
    .ok ({ s1 with eng := { s1.eng with nodes := nodes }, mem := { s1.mem with tlb := tlb }, ctxs := smDel s1.ctxs c }, none))
/-- A workgroup by context and WGID, resident or away, that has not ended. -/
def State.liveWu (s : State) (c id : Nat) : Option Workgroup :=
  match s.findWu (wuOf c id) with
  | some w => if w.stop = .ended then none else some w
  | none => s.eng.saves.find? (fun w => w.wu = wuOf c id)
/-- A workgroup is resident. -/
def State.here (s : State) (wu : Nat) : Bool := s.allWgs.any (fun w => w.wu = wu)
/-- `PREEMPT` (R346, R392): of a workgroup, with its cluster group, or of every one of a context. -/
def execPreempt (s : State) : Out := onMb s 3 (fun w =>
  match s.mbCtx (w 1) (w 2) with
  | .error e => .error e
  | .ok c =>
    if 2 ^ 32 ≤ w 3 then .error 1
    else if w 3 = 0 then
      .ok ((s.allWgs.filter (fun x => x.ctx = c ∧ x.wu ≠ 0 ∧ x.stop = .running)).foldl (fun t x => t.preemptGroup x) s, none)
    else match s.liveWu c (w 3) with
      | none => .error 2
      | some x => .ok (if s.here x.wu && decide (x.stop = .running) then s.preemptGroup x else s, none))
/-- Resume a workgroup; one that is away is placed again (R349). -/
def State.resumeAny (s : State) (wu : Nat) : State :=
  if s.here wu then s.resumeWu wu
  else
    let saves := s.eng.saves.map (fun w => if w.wu = wu then { w with stop := .running } else w)
    { s with eng := { s.eng with saves := saves } }
/-- `RESUME` (R343, R392). -/
def execResume (s : State) : Out := onMb s 4 (fun w =>
  match s.mbCtx (w 1) (w 2) with
  | .error e => .error e
  | .ok c =>
    if 2 ^ 32 ≤ w 3 then .error 1
    else match s.liveWu c (w 3) with
      | none => .error 2
      | some x => if x.stop = .running then .error 5 else .ok (s.resumeAny x.wu, none))
/-- `SETPOOL` (R266). -/
def execSetpool (s : State) : Out := onMb s 5 (fun w =>
  match s.mbCtx (w 1) (w 2) with
  | .error e => .error e
  | .ok c =>
    let hd := s.pmNat (w 4) 8
    let cap := bitsN hd 32 21
    let n := bitsN hd 0 21
    if 16 ≤ w 3 ∨ bitsN hd 53 11 ≠ 0 ∨ bitsN hd 21 11 ≠ 0 ∨ cap = 0 ∨ 2 ^ 20 < cap ∨ cap < n ∨ s.rangePoison (w 4) (8 + 4 * n) then .error 1
    else
      let p : Pool := { cap := cap, pages := (List.range n).map (fun i => s.pmNat (w 4 + 8 + 4 * i) 4) }
      .ok (s.modCtx c (fun x => { x with pools := smIns x.pools (w 3) p }), none))
/-- A frame that a partition's near or far reserve may hold. -/
def State.frameOk (s : State) (part tier pa : Nat) : Bool :=
  let off := offOf pa
  pa % 65536 == 0 && pa / 2 ^ 57 == 0 && s.homed pa &&
  (if tier = 0 then inHbm off && bitsN off 30 6 == part
   else inFar off && (match smFind s.plat.farGrant part with | some fs => fs.contains pa | none => true))
/-- Append frames to a reserve (R312): the queue may name it empty again. -/
def State.addReserve (s : State) (part tier : Nat) (fs : List Nat) : State :=
  let quiet := s.plat.resQuiet.filter (· != resKey part (tier == 1))
  if tier = 0 then { s with plat := { s.plat with nearRes := smPut [] s.plat.nearRes part (smGet [] s.plat.nearRes part ++ fs), resQuiet := quiet } }
  else { s with plat := { s.plat with farRes := smPut [] s.plat.farRes part (smGet [] s.plat.farRes part ++ fs), resQuiet := quiet } }
/-- `SETRESERVE` (R392). -/
def execSetreserve (s : State) : Out := onMb s 6 (fun w =>
  let n := w 4
  if 64 ≤ w 1 ∨ 2 ≤ w 2 ∨ n = 0 ∨ 65536 < n then .error 1
  else if !(s.plat.parts.contains (w 1)) then .error 2
  else
    let fs := (List.range n).map (fun i => s.pmNat (w 3 + 8 * i) 8)
    let held := (smGet [] (if w 2 = 0 then s.plat.nearRes else s.plat.farRes) (w 1)).length
    if s.rangePoison (w 3) (8 * n) || !(fs.all (s.frameOk (w 1) (w 2))) then .error 1
    else if 65536 < held + n then .error 4
    else .ok (s.addReserve (w 1) (w 2) fs, none))
/-- `SETREMAP` (R367, R392). -/
def execSetremap (s : State) : Out := onMb s 7 (fun w =>
  let es := (List.range 4096).map (fun e => s.pmNat (w 1 + e) 1)
  if s.ctxs ≠ [] then .error 5
  else if s.rangePoison (w 1) 4096 || es.any (fun x => decide (47 < x)) then .error 1
  else .ok ({ s with fab := { s.fab with remap := (List.range 4096).map (fun e => (e, es.getD e 0)) } }, none))
/-- `PARTNEW` (R390, R392): a partition's keys are made; its counts of frames taken begin (R355). -/
def execPartnew (s : State) : Out := onMb s 8 (fun w =>
  if 64 ≤ w 1 then .error 1
  else if s.plat.parts.contains (w 1) then .error 5
  else .ok ({ s with plat := { s.plat with
    resTaken := smDel (smDel s.plat.resTaken (resKey (w 1) false)) (resKey (w 1) true)
    resQuiet := s.plat.resQuiet.filter (fun k => decide (k / 2 ≠ w 1))
    parts := s.plat.parts ++ [w 1], partKeys := smPut 0 s.plat.partKeys (w 1) (smGet 0 s.plat.partKeys (w 1) + 1) } }, none))
/-- A physical address in the HBM share of a partition. -/
def State.inShare (s : State) (part pa : Nat) : Bool := s.homed pa && inHbm (offOf pa) && bitsN (offOf pa) 30 6 == part
/-- Zero a partition's HBM share and scratchpads. -/
def State.zeroPart (s : State) (part : Nat) : State :=
  let s0 := ((s.fab.remote ++ s.fab.dir.map (·.1)).filter (fun l => s.inShare part (128 * l))).foldl (fun t l => t.dropEntry l) s
  let keep (m : Memory) : Memory := m.filter (fun c => !(s.inShare part c.1))
  { s0 with mem := { s0.mem with
      pm := keep s0.mem.pm
      gm := keep s0.mem.gm
      qv := s0.mem.qv.map (fun q => (q.1, keep q.2))
      sp := s0.mem.sp.filter (fun c => quadOf c.1 % 64 != part || decide (1024 ≤ c.1))
      psn := s0.mem.psn.filter (fun l => !(s.inShare part (128 * l)))
      spPsn := s0.mem.spPsn.filter (fun p => quadOf p.1 % 64 != part || decide (1024 ≤ p.1)) } }
/-- `PARTFREE` (R392): not while a context of the partition exists. -/
def execPartfree (s : State) : Out := onMb s 9 (fun w =>
  if 64 ≤ w 1 then .error 1
  else if !(s.plat.parts.contains (w 1)) then .error 2
  else if s.ctxs.any (fun c => partOf c.1 = w 1) then .error 5
  else
    let s1 := s.zeroPart (w 1)
    .ok ({ s1 with plat := { s1.plat with parts := s1.plat.parts.filter (· != w 1) } }, none))
/-- `RESETCTX` (R344, R392). -/
def execResetctx (s : State) : Out := onMb s 12 (fun w =>
  match s.mbCtx (w 1) (w 2) with
  | .error e => .error e
  | .ok c =>
    if !(smGet {} s.ctxs c).stopped then .error 5
    else
      let s1 := s.modCtx c (fun x => { x with stopped := false, lq := x.lq.map (fun q => (q.1, { q.2 with head := q.2.tail, withdrawn := [] })) })
      .ok ((s1.allWgs.filter (fun x => x.ctx = c ∧ x.wu ≠ 0 ∧ s1.spent x = true)).foldl (fun t x => t.dropWu x.wu) s1, none))

/-! ### The start record and the almanac, read by the host (R397, R398, R404) -/

/-- An entry of the record (R397). -/
def StepRec.word (r : StepRec) : Nat := r.count % 2 ^ 32 * 2 ^ 32 + r.way * 2 ^ 6 + r.outcome
/-- A record's bytes, one 8-byte entry for each of the ten steps. -/
def StartCopy.bytes (c : StartCopy) : List Byte := (List.range 10).flatMap (fun k => leBytes 8 (c.steps.getD k {}).word)
/-- `READSTART` (R397). -/
def execReadstart (s : State) : Out := onMb s 10 (fun w =>
  match validCopy s.plat.flash with
  | none => .error 5
  | some c => .ok (s.homePuts (w 1) c.bytes, some c.gen))
/-- The counts of an almanac, in a row: of each table how many entries it has, then its keys and counts. -/
def Almanac.counts (a : Almanac) : List Nat :=
  [a.soft, a.temp, a.droop, a.laser, a.retrain].flatMap (fun t => t.length :: t.flatMap (fun e => [e.1, e.2])) ++ [a.starts, a.twilight]
/-- An almanac snapshot (R404): its layout is open, so its bytes (fewer than 2^24) are a free function of the counts (log 102); a
signature over its digest ends it. -/
def State.snapshot (s : State) : List Byte :=
  let c := s.plat.almanac.counts
  let body := (List.range (Config.almanacLength c % 2 ^ 24)).map (Config.almanacByte c)
  body ++ signature body
/-- `READALM` (R404). -/
def execReadalm (s : State) : Out := onMb s 11 (fun w =>
  .ok (s.homePuts (w 1) s.snapshot, some s.snapshot.length))
/-- `I3C_START_RECORD_READ` (R398): served whatever the state of the dies and of the host port. -/
def execI3cStartRecordRead (s : State) : Out :=
  .next { s with host := { s.host with sideband := ((validCopy s.plat.flash).map StartCopy.bytes).getD [] } }

/-! ### SPDM (R395) -/

/-- What measurement blocks 1 to 9 hold: registers 0 to 7, then the partition table: the partitions that exist and their key counts, and
the PMASK of each context. -/
def State.measured (s : State) : List Byte :=
  (List.range 8).flatMap (fun j => leBytes 32 (smGet 0 s.plat.measure j).toNat) ++
  (List.range 64).flatMap (fun k => [BitVec.ofNat 8 (b2n (s.plat.parts.contains k))] ++ leBytes 8 (smGet 0 s.plat.partKeys k)) ++
  s.ctxs.flatMap (fun c => leBytes 4 c.1 ++ leBytes 8 c.2.pmask.toNat)
/-- Answer the SPDM request that waits: bytes that R395 does not state, as a function of the request and of what it asks about. -/
def State.spdm (s : State) (code : Nat) (about : List Byte) (signed : Bool) : State :=
  if s.host.doeReq = [] then s
  else
    let q := s.host.doeReq ++ about
    let body := (List.range (Config.spdmLength code q)).map (Config.spdmByte code q)
    let resp := if signed then body ++ signature (q ++ body) else body
    { s with host := { s.host with doeReq := [], doeResp := resp } }
/-- `GET_VERSION` (R395). -/
def execGetVersion (s : State) : Out := .next (s.spdm 0 [] false)
/-- `GET_CAPABILITIES` (R395). -/
def execGetCapabilities (s : State) : Out := .next (s.spdm 1 [] false)
/-- `NEGOTIATE_ALGORITHMS` (R395). -/
def execNegotiateAlgorithms (s : State) : Out := .next (s.spdm 2 [] false)
/-- `GET_DIGESTS` (R395). -/
def execGetDigests (s : State) : Out := .next (s.spdm 3 [] false)
/-- `GET_CERTIFICATE` (R395). -/
def execGetCertificate (s : State) : Out := .next (s.spdm 4 [] false)
/-- `CHALLENGE` (R395): signed by the identity key. -/
def execChallenge (s : State) : Out := .next (s.spdm 5 [] true)
/-- `GET_MEASUREMENTS` (R395): blocks 1 to 9. -/
def execGetMeasurements (s : State) : Out := .next (s.spdm 6 s.measured false)

end Sys2Proof.Machine
end

