-- ==== Sys2Proof/Machine/Bringup.lean ====
section
/-!
DEFINITION. Bringup.lean: the start steps and their record, firmware and measurement, twilight and full service, the power cap, the
almanac on flash, and power going (R394, R396 to R404). How the physical side of each step turns out is free data (`startRes`).
-/
namespace Sys2Proof.Machine

/-! ### The start steps (R396, R397, R399) -/

/-- Steps that may be left out. -/
def stepOptional (k : Nat) : Bool := k == 7 || k == 8 || k == 9
/-- Steps with an alternate way. -/
def stepAlt (k : Nat) : Bool := k == 1 || k == 2 || k == 5 || k == 6
/-- The record as the device reads it; with no valid copy every step has a blank entry. -/
def State.startRec (s : State) : StartCopy := (validCopy s.plat.flash).getD { steps := List.replicate 10 {} }
/-- The entry of a step. -/
def State.stepRec (s : State) (k : Nat) : StepRec := s.startRec.steps.getD (k - 1) {}
/-- How the physical side of a step turns out. -/
def State.stepRes (s : State) (k : Nat) : StepRes := s.plat.startRes.getD (k - 1) {}
/-- R397, R399: how a step is taken and how it ends: the way, the outcome, whether it passed, whether the start stops here. -/
def takeStep (k : Nat) (prev : StepRec) (r : StepRes) : Nat × Nat × Bool × Bool :=
  if prev.outcome = 1 ∧ stepOptional k then (2, 2, false, false)
  else if prev.outcome = 1 ∧ stepAlt k then (1, b2n (!r.alternate), r.alternate, !r.alternate)
  else if r.primary then (0, 0, true, false)
  else if stepOptional k then (0, 1, false, false)
  else if stepAlt k then (1, b2n (!r.alternate), r.alternate, !r.alternate)
  else (0, 1, false, true)
/-- Write a record: the copy with the lower generation is replaced (R397). -/
def writeRecord (cs : List StartCopy) (steps : List StepRec) : List StartCopy :=
  let c : StartCopy := { gen := (cs.map (·.gen)).foldl max 0 + 1, steps := steps, valid := true }
  match cs with
  | [a, b] => if (validCopy cs) = some a then [a, c] else [c, b]
  | _ => [c, {}]
/-- Record the outcome of a step at once; when the start stops, every later step is not reached. -/
def State.recordStep (s : State) (k way outcome : Nat) (stop : Bool) : State :=
  let p := s.stepRec k
  let e : StepRec := { count := p.count + (if way = 2 then 0 else 1), way := way, outcome := outcome }
  let steps := (List.range 10).map (fun i =>
    if i + 1 = k then e else if stop && decide (k < i + 1) then { (s.stepRec (i + 1)) with outcome := 2 } else s.stepRec (i + 1))
  { s with plat := { s.plat with flash := writeRecord s.plat.flash steps } }
/-- Change the platform. -/
def State.modPlat (s : State) (f : Platform → Platform) : State := { s with plat := f s.plat }
/-- Offer a feature (R400). -/
def State.offer (s : State) (bit : Nat) (on : Bool) : State :=
  s.modHost (fun h => { h with featoff := if on then h.featoff ||| (1#128 <<< bit) else h.featoff &&& ~~~(1#128 <<< bit) })
/-- Dies left fenced by step 6: those that do not come up, and those of an untrained stack (R399). -/
def State.deadDies (s : State) (found : List Nat) : List Nat :=
  [1, 2, 3].filter (fun d => found.contains d || s.plat.hbmStacks.any (fun k => k / 3 = d))
/-- What a step does when it passes. -/
def State.stepDone (s : State) (k : Nat) (r : StepRes) : State :=
  match k with
  | 1 => s.modPlat (fun p => { p with measure := (List.range 8).map (fun j =>
      (j, BitVec.ofNat 256 (sha256 (beBytes 32 (smGet 0 p.measure j).toNat ++ beBytes 32 (Config.fwDigest j).toNat)))) })
  | 4 => (((s.modPlat (fun p => { p with started := true, clockMHz := 500 })).offer 0 true).offer 3 true).offer 4 true
  | 5 => s.modPlat (fun p => { p with step5 := true, hbmStacks := (r.found.filter (fun x => decide (3 ≤ x) && decide (x < 12))).dedup })
  | 6 => (s.deadDies r.found).foldl (fun t d => t.fenceDie d 1) s
  | 8 => (s.modHost (fun h => { h with portcap := (List.range 8).foldl (fun m p => smPut 0 m p (min (r.found.getD p 0) (2 ^ 25) * 65536)) h.portcap })).offer 2 true
  | 9 => (s.modHost (fun h => { h with podmap := r.found.foldl (fun m p => m ||| (1#256 <<< (p % 256))) (1#256 <<< s.plat.pkg) })).offer 1 true
  | 10 => (s.modPlat (fun p => { p with full := true, clockMHz := 1050 })).offer 0 false
  | _ => s
/-- `START` (R396): the next start step is taken, and its outcome recorded; the first one counts a start in the almanac,
and finds this package alone present (R305). -/
def execPowerOn (s : State) : Out := .next (
  let k := s.plat.startStep + 1
  if 11 ≤ k then s
  else
    let r := s.stepRes k
    let (way, outcome, pass, stop) := takeStep k (s.stepRec k) r
    let w := if k = 6 ∧ pass ∧ s.deadDies r.found ≠ [] then 1 else way
    let s0 := (s.modAlm (fun a => { a with starts := min (a.starts + 1) (2 ^ 64 - 1) })).modHost (fun h => { h with podmap := 1#256 <<< s.plat.pkg })
    let s1 := (if k = 1 then s0 else s).recordStep k w outcome stop
    let s2 := if pass then s1.stepDone k r else s1
    s2.modPlat (fun p => { p with startStep := if stop || decide (k = 10) then 11 else k }))

/-! ### Power (R402, R404) -/

/-- `POWER_CAP` (R402): above 3.9 kW the core clock falls by 50 MHz, to 0.5 GHz at least; below 3.7 kW it rises again. -/
def execPowerCap (s : State) : Out := .next (
  let c := s.plat.clockMHz
  let top := if s.plat.full then 1050 else 500
  if 39000 < s.plat.powerDW then s.modPlat (fun p => { p with clockMHz := max 500 (c - 50) })
  else if s.plat.powerDW < 37000 then s.modPlat (fun p => { p with clockMHz := max c (min top (c + 50)) })
  else s)
/-- An hour ends (R404): it counts as an hour of twilight, and for each laser module that feeds a live wavelength of a link that is up;
DESIGN CHOICE (log 102): the lasers are on from the time that the links have trained, at which R400 offers the fabric. Module m of far
die d has the number 4 d + m. -/
def State.hour (s : State) : State :=
  let on (k : Nat) : Bool := (List.range 24).any (fun j =>
    let l := s.link (24 * (k / 4) + j)
    !l.down && decide ((l.waves >>> (4 * (k % 4))) &&& 15 ≠ 0))
  s.modAlm (fun a => { a with
    twilight := if s.plat.started && !s.plat.full then min (a.twilight + 1) (2 ^ 64 - 1) else a.twilight
    laser := if s.host.featoff.getLsbD 1 then ((List.range 8).filter on).foldl (fun t k => bump t k 1) a.laser else a.laser })
/-- The almanac goes to flash. -/
def State.saveAlm (s : State) : State := s.modPlat (fun p => { p with almFlash := p.almanac })
/-- `ALMANAC_WRITE` (R404). -/
def execAlmanacWrite (s : State) : Out := .next s.saveAlm
/-- What is left when power goes: flash, and what comes from outside. -/
def State.powerOff (s : State) (flash : List StartCopy) (alm : Almanac) : State :=
  { State.reset with
    plat := { State.reset.plat with pkg := s.plat.pkg, flash := flash, almanac := alm, almFlash := alm, startRes := s.plat.startRes }
    sched := s.sched
    uid := s.uid }
/-- `POWER_DOWN` (R404). -/
def execPowerDown (s : State) : Out := .next (s.powerOff s.plat.flash s.plat.almanac)
/-- A copy of the record may be torn while the other one is valid (R397). -/
def tear (cs : List StartCopy) (k : Nat) : List StartCopy :=
  if ((List.range cs.length).any (fun j => j != k && (cs.getD j {}).valid)) then
    (List.range cs.length).map (fun j => let c := cs.getD j {}; if j = k then { c with valid := false } else c)
  else cs
/-- `POWER_LOSS` (R397, R404): counts since the last write to flash are lost, and a write of the record may be interrupted. -/
def execPowerLoss (tornCopy : Option Nat) (s : State) : Out :=
  .next (s.powerOff (match tornCopy with | some k => tear s.plat.flash k | none => s.plat.flash) s.plat.almFlash)

end Sys2Proof.Machine
end

