-- ==== Sys2Proof/Machine/Pair.lean ====
section
/-!
DEFINITION. Pair.lean: fetch lines and slot pairs as the fetch unit checks them (R87 to R94): which registers a slot names, which ports
it uses, whether two slots may issue together, and whether a line is malformed.
-/
namespace Sys2Proof.Machine

/-! ### The registers a slot names -/

/-- A format A slot, with the part of its shape that says which fields are read and how wide (R136 to R164). -/
def aForm (i : Instr) : Option (AShape × Hdr × FA) :=
  let v1 : AShape := { types := [] }
  let v2 : AShape := { types := [], b := .val }
  let v3 : AShape := { types := [], b := .val, c := .val }
  let w1 : AShape := { types := [], a := .w32 }
  let w2 : AShape := { types := [], a := .w32, b := .w32 }
  let w3 : AShape := { types := [], a := .w32, b := .w32, c := .w32 }
  let p1 : AShape := { types := [], a := .pred }
  let p2 : AShape := { types := [], a := .pred, b := .pred }
  match i with
  | .iadd h f | .isub h f | .imul h f | .imulh h f | .idiv h f | .irem h f | .imin h f | .imax h f | .iand h f | .ior h f | .ixor h f
  | .andn h f | .shl h f | .shr h f | .sar h f | .rol h f | .ror h f | .bfe h f | .icmp h f | .lxch h f | .bcast h f | .unpk h f => some (v2, h, f)
  | .iadd3 h f | .imad h f | .lgc3 h f | .bfi h f | .bytx h f => some (v3, h, f)
  | .imadw h f => some ({ types := [], a := .w32, b := .w32, c := .w64, dwide := true }, h, f)
  | .iadc h f | .sel h f => some ({ types := [], b := .val, c := .pred }, h, f)
  | .ineg h f | .iabs h f | .inot h f | .brev h f | .popc h f | .clz h f | .ctz h f => some (v1, h, f)
  | .lea h f => some ({ types := [], a := .w64, b := .w32, dwide := true }, h, f)
  | .pand h f | .por h f | .pxor h f => some (p2, h, f)
  | .pnot h f | .vote h f | .ballot h f => some (p1, h, f)
  | .mov h f => some ({ types := [], a := .valOrPred }, h, f)
  | .movi h f => some ({ types := [], a := .imm, dwide := f.sub == 1 || decide (256 ≤ f.dst.toNat) }, h, f)
  | .movs h f => some ({ types := [], a := .vec, b := .val }, h, f)
  | .imatch h f => some ({ types := [], dnarrow := true }, h, f)
  | .perm4 h f => some ({ types := [], b := .imm }, h, f)
  | .icvt h f | .i2f h f => some ({ types := [], a := if wideT f.sub.toNat then .w64 else .w32 }, h, f)
  | .fadd h f | .fsub h f | .fmul h f | .fmin h f | .fmax h f | .fminn h f | .fmaxn h f | .fcmp h f | .fdiv h f | .fscl h f => some (w2, h, f)
  | .ffma h f | .dot2 h f => some (w3, h, f)
  | .fabs h f | .fneg h f | .fsqrt h f | .frcp h f | .frsq h f | .fex2 h f | .flg2 h f | .fsin h f | .fcos h f | .ftanh h f | .frnd h f
  | .fcls h f | .fcvt h f | .f2i h f => some (w1, h, f)
  | .pack h f => some ({ types := [], b := .val, c := if f.sub = 1 then .val else .none }, h, f)
  | .red h f | .scan h f => some ({ types := [], a := .vec }, h, f)
  | _ => none
/-- The header of a slot and the register specifiers it names, for the classes that R94 lets pair. -/
def slotUses (i : Instr) : Hdr × List SpecUse :=
  let none : Hdr := { neg := 0, guard := 7, role := 0 }
  match aForm i with
  | some (sh, h, f) => (h, sh.uses f ++ (match i with
      | .iadc _ f => if f.sub.toNat < 7 then [{ spec := 344 + f.sub.setWidth 9, wr := true }] else []
      | _ => []))
  | .none => (match i with
    | .bra h f => (h, [{ spec := 344 + f.cond.setWidth 9 }])
    | .bru h f => (h, [{ spec := 344 + f.cond.setWidth 9 }])
    | .brx h f => (h, [{ spec := f.reg }])
    | .calli h f => (h, [{ spec := f.reg, pair := decide (f.reg.toNat < 256) }])
    | .iloop h f => (h, [{ spec := f.reg, wr := true }, { spec := f.reg }])
    | .wdogRd h f => (h, [{ spec := f.reg, wr := true }])
    | .wdogLim h f => (h, [{ spec := f.reg }])
    | .call h _ | .ret h _ | .iexit h _ | .ijoin h _ | .fuse h _ | .yield h _ | .nop h _ | .fnHeader h _ | .trap h _ | .brk h _ | .wdogKick h _ => (h, [])
    | .hqt h _ | .qfp8 h _ | .qcb4 h _ | .dqcb4 h _ | .rope h _ => (h, [])
    | .ld h f | .lds h f => (h, { spec := f.data, pair := f.wide, wr := true } :: addrUses f)
    | .st h f | .sts h f => (h, { spec := f.data, pair := f.wide } :: addrUses f)
    | .ldx h f => (h, elemUses f true)
    | .stx h f => (h, elemUses f false)
    | .ldk h f => (h, [{ spec := f.data, pair := f.wide, wr := true }, { spec := f.base }])
    | .pref h f | .cflush h f | .cinv h f => (h, addrUses f)
    | .atom h f => (h, [{ spec := f.data, pair := f.wide, wr := true }, { spec := f.base, pair := decide (f.space.toNat ≤ 1) && isV f.base }] ++
        (List.range ((if f.sub == 10 then 2 else 1) * (if f.wide && isV f.index then 2 else 1))).map (fun k => { spec := f.index + BitVec.ofNat 9 k }))
    | .ared h f => (h, { spec := f.data, pair := f.wide } :: addrUses f)
    | .fence h _ | .wcnt h _ | .bar h _ => (h, [])
    | .wtval h f => (h, [{ spec := f.data, wr := true }, { spec := f.base }, { spec := f.index }])
    | .snd h f => (h, [{ spec := f.data }, { spec := f.base }])
    | .rcv h f => (h, [{ spec := f.data, pair := isV f.data, wr := true }, { spec := f.base }])
    | .lyld h f | .lyset h f | .lycolWr h f | .lyh h f => (h, testUse f ++ [{ spec := f.sa }])
    | .lyst h f | .cbld h f => (h, [{ spec := f.sa }])
    | .lyget h f | .lycolRd h f => (h, [{ spec := f.dst, wr := true }])
    | .lychk h f => (h, { spec := f.dst, wr := true } :: (if f.sub.toNat / 4 = 2 then [] else [{ spec := f.sa }]))
    | .lycp h f => (h, testUse f)
    | .lyloc h f | .lyidx h f => (h, [{ spec := f.dst, pair := isV f.dst && f.sub == 1, wr := true }, { spec := f.sa }])
    | .mmag h f => (h, [{ spec := f.rowidx }])
    | .mma h _ | .mmld h _ | .mmst h _ | .mmz h _ | .mmdr h _ | .mmfl h _ | .mmia h _ | .mmscl h _ | .mmcb h _ | .mmsl h _ => (h, [])
    | .cpy h f | .cpyx h f | .cpyr h f | .rly h f | .rlyw h f | .rlyp h f | .gath h f | .pgal h f | .pgfr h f | .pgsw h f | .mig h f | .tres h f
    | .tnode h f | .tedge h f | .tlaunch h f | .tcancel h f | .hnew h f | .hdel h f | .hchk h f => (h, engUses f (f.srca != 0) (f.srcb != 0))
    | .cop _ h _ => (h, [])
    | _ => (none, []))
/-- Layout and codebook registers that a slot reads or writes, by number: 1024 plus a layout register, 2048 plus a codebook register. -/
def slotLayouts (i : Instr) : List Nat × List Nat :=
  let l (k : BitVec 4) : Nat := 1024 + k.toNat
  match i with
  | .hqt _ f | .qfp8 _ f | .qcb4 _ f | .dqcb4 _ f => ([l f.lx, l f.ly], [])
  | .rope _ f => ([l f.lx, l f.ly, 1024 + f.imm.toNat % 16], [])
  | .ldx _ f | .stx _ f => (if f.base.toNat < 16 then [1024 + f.base.toNat] else [], [])
  | .lyld _ f => ([], [l f.ly])
  | .lyset _ f | .lycolWr _ f => ([l f.ly], [l f.ly])
  | .lycp _ f => ([l f.lx], [l f.ly])
  | .lyh _ f => ([], l f.ly :: (if bitN f.imm.toNat 4 then [2048 + f.imm.toNat % 16] else []))
  | .cbld _ f => ([], [2048 + f.ly.toNat])
  | .lyst _ f | .lyget _ f | .lycolRd _ f | .lyloc _ f | .lyidx _ f => ([l f.lx], [])
  | .lychk _ f => (if f.sub.toNat / 4 = 2 then [l f.lx, l f.ly] else [], [])
  | .mma _ f | .mmag _ f | .mmld _ f | .mmst _ f | .mmdr _ f | .mmia _ f | .mmscl _ f => ([l f.la, l f.lb, l f.ld], [])
  | _ => ([], [])
/-- The registers and predicates that a slot reads: 511, pt and unused fields are none. -/
def slotReads (i : Instr) : List Nat :=
  let u := slotUses i
  ((u.2.filter (fun x => !x.wr)).flatMap SpecUse.regs ++ (if u.1.guard.toNat < 7 then [344 + u.1.guard.toNat] else [])).filter
    (fun n => n != 511 && n != 351) ++ (slotLayouts i).1
/-- The registers and predicates that a slot writes. -/
def slotWrites (i : Instr) : List Nat :=
  (((slotUses i).2.filter (·.wr)).flatMap SpecUse.regs).filter (fun n => n != 511 && n != 351) ++ (slotLayouts i).2

/-! ### Pairing (R91 to R94) -/

/-- R91: the first slots of the pairs of a template. -/
def pairFirsts (p : Nat) : List Nat :=
  match p with | 1 => [0] | 2 => [1] | 3 => [2] | 4 => [3] | 5 => [0, 2] | 6 => [0, 3] | 7 => [1, 3] | _ => []
/-- R94: the class of an opcode as a row of the table: 0 INT, 1 FLT, 2 MEM, 3 LAY, 4 MTX, 5 ENG, 6 CTL; none pairs with nothing. -/
def pairClass (op : Nat) : Option Nat :=
  if opcUnassigned op || op == 0 || op == 0xFF then none
  else if op < 0x20 then some 6 else if op < 0x50 then some 0 else if op < 0x78 then some 1 else if op < 0x98 then some 2
  else if op < 0xA8 then some 3 else if op < 0xB8 then some 4 else if decide (0xC8 ≤ op) && decide (op < 0xD0) then some 5 else none
/-- R94: the second classes a first class may pair with. -/
def pairRow (c : Nat) : List Nat :=
  match c with
  | 0 => [0, 1, 2, 3, 4, 5, 6]
  | 1 => [0, 1, 2, 3, 4, 5, 6]
  | 2 => [0, 1, 4, 5, 6]
  | 3 => [0, 1]
  | 4 => [0, 1, 2, 5, 6]
  | 5 => [0, 1, 2, 4, 6]
  | _ => []
/-- R93: the ports an opcode uses: 0 memory, 1 matrix, 2 engine, 3 lane-crossing, 4 special-function. -/
def opPorts (op : Nat) : List Nat :=
  (if 0x78 ≤ op ∧ op ≤ 0x97 then [0] else []) ++ (if 0xA8 ≤ op ∧ op ≤ 0xB7 then [1] else []) ++ (if 0xC8 ≤ op ∧ op ≤ 0xCF then [2] else []) ++
  (if [0x47, 0x48, 0x49, 0x4A, 0x4B, 0x4C, 0x72, 0x73].contains op then [3] else []) ++
  (if [0x28, 0x29, 0x5B, 0x5C, 0x5D, 0x5E, 0x5F, 0x60, 0x61, 0x62, 0x63].contains op then [4] else [])
/-- R93: the scalar write port: a write to 256 to 343 or 384 to 510, or a read of a receive queue. -/
def scalarPort (i : Instr) : Bool :=
  (slotWrites i).any (fun n => (decide (256 ≤ n) && decide (n ≤ 343)) || (decide (384 ≤ n) && decide (n ≤ 510))) ||
  (slotReads i).any (fun n => decide (340 ≤ n) && decide (n ≤ 343))
/-- R93: the distinct vector registers that two slots read place at most two in any bank. -/
def banksOk (a b : List Nat) : Bool :=
  let vs := ((a ++ b).filter (· < 256)).eraseDups
  (List.range 4).all (fun k => decide ((vs.filter (fun v => v % 4 = k)).length ≤ 2))
/-- R93, R94: two slots may form a pair. -/
def pairOk (wa wb : Slot96) : Bool :=
  let oa := (fld wa 0 8).toNat
  let ob := (fld wb 0 8).toNat
  let ia := decode wa
  let ib := decode wb
  (match pairClass oa, pairClass ob with | some a, some b => (pairRow a).contains b | _, _ => false) &&
  fld wa 8 3 == fld wb 8 3 && banksOk (slotReads ia) (slotReads ib) && (opPorts oa).all (fun p => !((opPorts ob).contains p)) &&
  !(scalarPort ia && scalarPort ib) && (slotWrites ia).all (fun n => !((slotReads ib).contains n) && !((slotWrites ib).contains n))

/-- R160: the vector registers of the executing warp that hold the elements of the tensor of a layout register. -/
def State.throughLayout (s : State) (k : Nat) : List Nat :=
  let img := s.lreg k
  if lySpace img ≠ 0 ∨ lyN img = 0 then []
  else match elemStorage s (.reg s.wg.wu k, img) s.m.id 1 (boxCoords (lyExts img)) with
    | .error _ => []
    | .ok es => es.flatMap (fun e => s.ownRegs e.2)
/-- The second register of a vector pair operand that R175 and R206 make a pair when the layout has more than 32 index bits. -/
def pairTail (wide : Bool) (sp : Spec) : List Nat := if wide && isV sp then [sp.toNat + 1] else []
/-- The registers that an instruction reads, and those that it writes, by its layouts as they stand: of a tensor instruction the vector
registers of its elements (R160) and the codebook that its CB4 layout names (R161); of an element access or a layout map the second
registers of its pairs (R175, R206). -/
def State.tensorRegs (s : State) (i : Instr) : List Nat × List Nat :=
  match i with
  | .hqt _ f | .qfp8 _ f => (s.throughLayout f.lx.toNat, s.throughLayout f.ly.toNat)
  | .qcb4 _ f => (s.throughLayout f.lx.toNat ++ [2048 + lyCb (s.lreg f.ly.toNat)], s.throughLayout f.ly.toNat)
  | .dqcb4 _ f => (s.throughLayout f.lx.toNat ++ [2048 + lyCb (s.lreg f.lx.toNat)], s.throughLayout f.ly.toNat)
  | .rope _ f => (s.throughLayout f.lx.toNat ++ s.throughLayout (f.imm.toNat % 16), s.throughLayout f.ly.toNat)
  | .ldx _ f | .stx _ f => (match s.tensorOf f.base (match i with | .ldx _ _ => 16 | _ => 17) with
    | .error _ => ([], [])
    | .ok (t, _) => (pairTail (decide (32 < lyN t.2)) f.index, []))
  | .lyloc _ f => let w := decide (32 < lyN (s.lreg f.lx.toNat)); (pairTail w f.sa, pairTail (w || f.sub == 1) f.dst)
  | .lyidx _ f => let w := decide (32 < lyN (s.lreg f.lx.toNat)); (pairTail w f.sa, pairTail w f.dst)
  | _ => ([], [])
/-- R93, R160: the bank and independence rules with the registers that the slots reach through, or because of, layouts. -/
def State.pairRegsOk (s : State) (ia ib : Instr) : Bool :=
  let ta := s.tensorRegs ia
  let tb := s.tensorRegs ib
  (ta = ([], []) && tb = ([], [])) ||
  (banksOk (slotReads ia ++ ta.1) (slotReads ib ++ tb.1) &&
    (slotWrites ia ++ ta.2).all (fun n => !((slotReads ib ++ tb.1).contains n) && !((slotWrites ib ++ tb.2).contains n)))

/-! ### Malformed lines (R88) -/

/-- The pairing template of a line. -/
def linePair (bs : List Byte) : Nat := bitsN (lineWord bs) 5 3
/-- Whether slot k is the first slot of a pair. -/
def pairFirst (bs : List Byte) (k : Nat) : Bool := (pairFirsts (linePair bs)).contains k
/-- An empty slot (R108). -/
def emptyAt (bs : List Byte) (k : Nat) : Bool := slotBits bs k == BitVec.allOnes 96
/-- The roles that a line's slots carry, as a byte. -/
def slotRoles (bs : List Byte) : Nat :=
  (List.range 8).foldl (fun x r => x + (if (List.range 5).any (fun k => !(emptyAt bs k) && (fld (slotBits bs k) 8 3).toNat == r) then 2 ^ r else 0)) 0
/-- R88: a line is well-formed but for its parity; `roles` are the roles the kernel declares, as a byte. -/
def lineOk (roles : Nat) (bs : List Byte) : Bool :=
  let w := lineWord bs
  bitsN w 22 10 == 0 && bitsN w 8 8 == slotRoles bs && (List.range 8).all (fun r => !(bitN (bitsN w 8 8) r) || bitN roles r) &&
  (List.range 5).all (fun k => !(bitN w k) || (!(emptyAt bs k) && !((pairFirsts (linePair bs)).contains (k - 1) && decide (1 ≤ k))))
/-- The roles of a workgroup's kernel: role 0 alone outside a team (R88). -/
def Workgroup.declared (w : Workgroup) : Nat :=
  match w.team with
  | none => 1
  | some t => 1 + ((List.range 7).map (fun r => if t.roles.any (fun x => x.1 = r + 1) then 2 ^ (r + 1) else 0)).sum

end Sys2Proof.Machine
end

