-- ==== Sys2Proof/Machine/Cycle.lean ====
section
/-!
DEFINITION. Cycle.lean: what happens of itself in a core cycle: due timers, arrivals whose writes are in place, broken phases, and the
counts of R34, R119, R132, R185, R325, R326, R329, R333, R346.
-/
namespace Sys2Proof.Machine

/-- The state a meaning leaves; nothing changes where there is none. -/
def outState (s : State) (o : Out) : State := match o with | .next t => t | _ => s
/-- The members on a core, by name. -/
def State.refsOn (s : State) (core : Nat) : List MRef :=
  (s.residents core).flatMap (fun w => (s.membersOf w.wu).map (fun m => ⟨w.wu, m.id⟩))
/-- The join records of a member whose timeout is due (R119). -/
def Member.dueJoins (m : Member) : List Nat :=
  m.pool.filterMap (fun e => match e.2 with | .record false _ (.run 0) _ _ => some e.1 | _ => none)
/-- The end of a cycle for a member of a running workgroup: a `wtval` and join timers that have run out (R119, R185; what completes in
the same cycle went first), an arrival that waited for older writes (R188), a broken phase, the watchdog (R132). -/
def State.endCycle (s : State) (r : MRef) : State :=
  match s.findMem r with
  | none => s
  | some _ =>
    let s := s.focusOn r
    if s.wg.stop != .running then s
    else
      let s1 := outState s (execWtvalTimeout r s)
      let s2 := s1.m.dueJoins.foldl (fun t e => outState t (execJoinTimeout r e t)) s1
      let s3 := ((outState s2 (onMember s2 r State.tryArrive)).focusOn r).settleTeam
      let s4 := outState s3 (onMember s3 r State.raiseBroken)
      outState s4 (execWatchdog r s4)
/-- A join timer counts down. -/
def Entry.tickTimer (e : Entry) : Entry :=
  match e with | .record ret o (.run n) pm pc => .record ret o (.run (n - 1)) pm pc | e => e
/-- A member's counts after a cycle: the watchdog while it is resident, timers while it runs, and the slots that were ready and not
picked. -/
def Member.tickCycle (m : Member) (running : Bool) (passed : List Bool) : Member :=
  let wait (b : Bool) (n : Nat) : Nat := if passed.contains b then n + 1 else 0
  let m1 : Member := { m with
    waitA := wait false m.waitA, waitB := wait true m.waitB, issued := [], wdCount := if m.gone then m.wdCount else m.wdCount + 1 }
  if !running || m.gone then m1
  else { m1 with
    pool := m.pool.map (fun e => (e.1, e.2.tickTimer))
    wt := m.wt.map (fun w => { w with left := w.left.map (· - 1) }) }
/-- A workgroup's own counts after a cycle. -/
def Workgroup.tickCycle (w : Workgroup) (passed : List (MRef × Bool)) : Workgroup :=
  let ps (m : Member) : List Bool := (passed.filter (fun p => decide (p.1 = ⟨w.wu, m.id⟩))).map (·.2)
  let queue := w.mx.queue.map (fun q => if q.started then { q with cycles := q.cycles + 1 } else q)
  { w with
    members := w.members.map (fun m => m.tickCycle (w.stop == .running) (ps m))
    mx := { w.mx with queue := queue }
    stopCyc := if w.stop = .running ∨ w.stop = .ended then w.stopCyc else w.stopCyc + 1
    stress := if passed.any (fun p => p.1.wu = w.wu) then w.stress + 1 else 0
    prev := none
    stopping := false }
/-- A core's counts after a cycle; `passed` are the slots that were ready and not picked in it. -/
def State.countCycle (s : State) (core : Nat) (passed : List (MRef × Bool)) : State :=
  let c := smGet {} s.cores core
  let c1 : Core := { c with cyc := c.cyc + 1, stressed := if 64 ≤ s.stressOf core then c.stressed + 1 else 0 }
  let fwd := s.plat.forwards.map (fun f => if f.core = core then { f with quiet := f.quiet + 1 } else f)
  let on (w : Workgroup) : Bool := decide (w.core = core) && w.wu != 0
  let ps := (passed.filter (fun p => decide (p.1 = s.ref))).map (·.2)
  let m := if on s.wg then s.m.tickCycle (s.wg.stop == .running) ps else s.m
  let wg := if on s.wg then s.wg.tickCycle passed else s.wg
  { s with
    m := m
    wg := wg
    wgs := s.wgs.map (fun w => if on w then w.tickCycle passed else w)
    cores := smPut {} s.cores core c1
    plat := { s.plat with forwards := fwd } }
/-- Barriers that a workgroup's end, or a member's, has completed (R187), and events that wait for room in its queues (R348). -/
def State.settleWg (s : State) (wu : Nat) : State :=
  match s.findWu wu with
  | none => s
  | some w => ((s.settleBars w).wakeWu wu).modWu wu Workgroup.flushHeldEvents
/-- The limits of a core's matrix engine that are due: its watchdog (R333), and the limit of a workgroup stopped for save (R346). -/
def State.settleMx (s : State) (core : Nat) : State :=
  let s1 := outState s (execMatrixWatchdog core s)
  ((s1.residents core).filter (fun w => w.mx.queue.any (·.started))).foldl (fun t w => outState t (execMatrixSaveLimit w.wu t)) s1
/-- One cycle of a core. A core whose clock is stopped has none (R34). -/
def State.passCycle (s : State) (core : Nat) (passed : List (MRef × Bool)) : State :=
  if (smGet {} s.cores core).gated then s
  else
    let s1 := (s.refsOn core).foldl State.endCycle s
    let s2 := ((s1.residents core).map (·.wu)).foldl State.settleWg s1
    (s2.settleMx core).countCycle core passed

/-! ### Members, slots and fetch (R23, R89, R328) -/

/-- The synchronous accesses of the member in focus are complete, but for a read that the slot itself is performing (R160, R196). -/
def State.syncDone (s : State) (slotB : Bool) : Bool :=
  ((s.m.syncOp.map (s.writesRetired s.ref)).getD true) && (s.m.early == [] || s.m.earlyB == slotB)
/-- A member whose slot may issue: its workgroup runs or stopped in this very cycle (R342), its core's clock runs, no co-resident kernel
holds it back (R323), its synchronous accesses are complete, and the slot is live. -/
def State.mayIssue (s : State) (slotB : Bool) : Bool :=
  s.syncDone slotB &&
  (s.wg.stop == .running || s.wg.stopping) && s.wg.wu != 0 && !s.core.gated && !(s.heldBack s.wg) && (if slotB then s.m.b else s.m.a).isSome
/-- What a pick of a member's slots leaves with it (R129, R329): its run of picks, by how it stood before the pick. -/
def Member.picked (m old : Member) (cyc : Nat) (slots : List Bool) : Member := { m with
  run := if old.lastIssue = cyc ∧ old.yielded = [] then old.run + 1 else 1
  lastIssue := cyc + 1
  issued := old.issued ++ slots }
/-- The core's instruction cache keeps a fetched line (R301). -/
def State.keepLine (s : State) (bs : List Byte) : State :=
  match s.xlate (s.m.path.pc.line.toNat * 64) 4 with
  | .error _ => s
  | .ok pa =>
    let s1 := s.tlbFill s.wg.core s.wg.ctx (s.m.path.pc.line.toNat * 64)
    { s1 with mem := { s1.mem with icache := smIns s1.mem.icache (icKey s.wg.core pa) bs } }
/-- R233: a team member in the stream passes a line that holds neither role 0 nor its own. -/
def State.skipsLine (s : State) (bs : List Byte) : Bool :=
  s.wg.team.isSome && !s.m.priv && !(bitN (bitsN (lineWord bs) 8 8) 0) && !(bitN (bitsN (lineWord bs) 8 8) s.m.role)
/-- R233: a team member passes a slot of another role than 0 and its own; every member executes an empty slot (R108). -/
def State.skipsSlot (s : State) (bs : List Byte) (k : Nat) : Bool :=
  let r := (fld (slotBits bs k) 8 3).toNat
  s.wg.team.isSome && !(emptyAt bs k) && r != 0 && r != s.m.role
/-- R23: no slice of four lanes serves both slots. -/
def Member.slicesApart (m : Member) : Bool :=
  match m.a, m.b with
  | some a, some b => (List.range 8).all (fun k => bitsN a.mask.toNat (4 * k) 4 == 0 || bitsN b.mask.toNat (4 * k) 4 == 0)
  | _, _ => false
/-- R89: some 8-byte chunks of a held fetch line are taken from memory again, the others stay. -/
def State.takeChunks (s : State) (key chunks : Nat) : State :=
  match smFind s.mem.icache key with
  | none => s
  | some old =>
    let new := s.viewLine (quadOf (key / 2 ^ 51)) (key % 2 ^ 51 * 64)
    if chunks % 256 = 255 then { s with mem := { s.mem with icache := smDel s.mem.icache key } }
    else
      let bs := (List.range 8).flatMap (fun k => ((if bitN chunks k then new else old).drop (8 * k)).take 8)
      { s with mem := { s.mem with icache := smIns s.mem.icache key bs } }

end Sys2Proof.Machine
end

