-- ==== Sys2Proof/Machine/Lane.lean ====
section
/-!
DEFINITION. Lane.lean: the lane-crossing instructions, opcodes 0x47 to 0x4C (R145 to R147). A source lane is a lane of the
issuing slot's mask whose guard holds; a lane that would read another lane reads itself instead.
-/
namespace Sys2Proof.Machine

/-- A format A slot whose lanes read one another: as `runA`, with the source lanes given to the lane's function and a further
field check of the entry. -/
def runLane (s : State) (h : Hdr) (f : FA) (sh : AShape) (bad : Bool) (lane : List Nat → Nat → LaneRes) : Out :=
  let uses := sh.uses f
  let ls := s.execLanes h f.dst
  runSlot s (issueFault s h (classOk s .int false h.role.toNat) uses
      (match sh.field f s.m.scalar with | some c => some c | none => if bad then some ILLOP else none))
    (s.hazard uses || (ls != [] && s.iqEmpty uses))
    (fun s => s.effectA uses f.dst (sh.dstWide f) (signedT f.ty.toNat) ls (lane (s.guarded h)))

/-- Operand a of the lane read, or of lane l itself when that lane is no source (R145). -/
def fromLane (s : State) (f : FA) (srcs : List Nat) (l k : Nat) : LaneRes :=
  plain (s.rdA .val f f.sa (if srcs.contains k then k else l))

/-- R146 `lxch`: the lane that lane l reads, by mode, group width and k. -/
def lxchLane (mode w l k : Nat) : Nat :=
  let g := l - l % w
  match mode with
  | 0 => g + k % w
  | 1 => if g + k ≤ l then l - k else l
  | 2 => if l + k < g + w then l + k else l
  | _ => g + (l ^^^ k) % w

/-- `lxch` (R146). -/
def execLxch (h : Hdr) (f : FA) (s : State) : Out :=
  runLane s h f { types := [0, 15], subs := List.range 16, b := .val } false (fun srcs l =>
    fromLane s f srcs l (lxchLane (f.sub.toNat % 4) (32 / 2 ^ (f.sub.toNat / 4)) l (s.rdA .val f f.sb l % 32)))

/-- `bcast` (R146): the lowest source lane stands in for a lane that is no source. -/
def execBcast (h : Hdr) (f : FA) (s : State) : Out :=
  runLane s h f { types := [0, 15], b := .val } false (fun srcs l =>
    let k := s.rdA .val f f.sb l % 32
    plain (s.rdA .val f f.sa (if srcs.contains k then k else srcs.headD l)))

/-- R146 `vote`: all, any, same. -/
def voteVal (op : Nat) (ps : List Bool) : Bool :=
  match op with
  | 0 => ps.all id
  | 1 => ps.any id
  | _ => ps.all id || ps.all not

/-- `vote` (R146): into a predicate, or 0 or 1 into an s register. -/
def execVote (h : Hdr) (f : FA) (s : State) : Out :=
  runLane s h f { types := [0], subs := [0, 1, 2], dk := .anyPred, a := .pred, vecOk := true } (decide (f.dst.toNat < 256))
    (fun srcs _ => plain (b2n (voteVal f.sub.toNat (srcs.map (s.rdPred f.sa)))))

/-- `ballot` (R146). -/
def execBallot (h : Hdr) (f : FA) (s : State) : Out :=
  runLane s h f { types := [0], a := .pred, vecOk := true } false
    (fun srcs _ => plain (maskOf (srcs.filter (s.rdPred f.sa))).toNat)

/-- A floating-point code is a NaN: format code f32, f16, bf16 (R57, R98). -/
def isNanCode (ty x : Nat) : Bool :=
  match ty with
  | 1 => decide (0x7F800000 < x % 2 ^ 31)
  | 2 => decide (0x7C00 < x % 2 ^ 15)
  | _ => decide (0x7F80 < x % 2 ^ 15)

/-- R147: whether two keys match, by kind and type. -/
def keyMatch (num : Bool) (ty x y : Nat) : Bool :=
  if !num || ty == 12 || ty == 13 then decide (x = y)
  else
    let w := if ty = 1 then 32 else 16
    let x := x % 2 ^ w
    let y := y % 2 ^ w
    !(isNanCode ty x) && !(isNanCode ty y) && (decide (x = y) || (decide (x % 2 ^ (w - 1) = 0) && decide (y % 2 ^ (w - 1) = 0)))

/-- `match` (R147): the source lanes whose key matches; a lane's own bit is always set. The destination is 32 bits; an s
destination is refused in a warp. -/
def execImatch (h : Hdr) (f : FA) (s : State) : Out :=
  runLane s h f { types := if f.sub = 1 then [1, 2, 3, 12, 13] else [0, 15], subs := [0, 1], dnarrow := true }
    (!s.m.scalar && decide (256 ≤ f.dst.toNat))
    (fun srcs l => plain (maskOf (srcs.filter (fun j => j == l ||
      keyMatch (f.sub = 1) f.ty.toNat (s.rdA .val f f.sa l) (s.rdA .val f f.sa j)))).toNat)

/-- `perm4` (R146): SB must be 511, and IMM holds the selector in [7:0] and nothing above. -/
def execPerm4 (h : Hdr) (f : FA) (s : State) : Out :=
  runLane s h f { types := [0, 15], b := .imm } (bitsN f.imm.toNat 8 24 != 0) (fun srcs l =>
    fromLane s f srcs l (4 * (l / 4) + bitsN f.imm.toNat (2 * (l % 4)) 2))

end Sys2Proof.Machine
end

