-- ==== Sys2Proof/Machine/FloatOps.lean ====
section
/-!
DEFINITION. FloatOps.lean: the lane-by-lane floating-point, conversion and packing instructions, `red` and `scan`: opcodes
0x50 to 0x6C, 0x72, 0x73 (R150 to R159, R163, R164).
-/
namespace Sys2Proof.Machine

/-- The F types of R153: f32, f16, bf16. -/
def tF : List Nat := [1, 2, 3]
/-- Rounding codes where rounding is accepted (R60, R150). -/
def rndAll : List Nat := [0, 1, 2, 3, 4]

/-- R151: an immediate 16-bit operand has a zero upper half, unless `.x2` reads it; a type of 8 or 16 bits reads the register's
low bits. -/
def immBad (f : FA) (srcTy : Nat) (x2 : Bool) (ks : List Spec) : Bool :=
  ks.any (· == 511) && srcTy != 1 && !x2 && bitsN f.imm.toNat 16 16 != 0

/-- A floating-point slot (R150, R151): the shape, the type its value operands are read in, and the lane's function of its source
codes (32 bits each) and its draw (R63). -/
def runF (s : State) (h : Hdr) (f : FA) (sh : AShape) (bad : Bool) (sgn : Bool) (lane : Nat → LaneRes) : Out :=
  let uses := sh.uses f
  let ls := s.execLanes h f.dst
  runSlot s (issueFault s h (classOk s .flt false h.role.toNat) uses
      (match sh.field f s.m.scalar with | some c => some c | none => if bad then some ILLOP else none))
    (s.hazard uses || (ls != [] && s.iqEmpty uses))
    (fun s => s.effectA uses f.dst (sh.dstWide f) sgn ls lane)

/-- The code and status of a lane's operation on one or two halves (R151 `.x2`): `op` takes the shift of the half. -/
def halves (x2 : Bool) (w : Nat) (op : Nat → Nat × W64) : LaneRes :=
  let lo := op 0
  if x2 then
    let hi := op 16
    { val := BitVec.ofNat 64 (lo.1 % 2 ^ w + (hi.1 % 2 ^ w) * 2 ^ 16), fstat := lo.2 ||| hi.2 }
  else { val := BitVec.ofNat 64 lo.1, fstat := lo.2 }

/-- An entry of R153 on up to three operands: `op` computes code and status from the operands' codes of the type, and the draw. -/
def runFop (s : State) (h : Hdr) (f : FA) (n : Nat) (rnd : Bool) (op : Nat → Nat → Nat → Nat → Nat × W64) : Out :=
  let x2 : Bool := f.sub = 8
  let ty := f.ty.toNat
  let sh : AShape :=
    { types := tF, rnds := if rnd then rndAll else [0], subs := [0, 8], sat := rnd, a := .w32
      b := if 2 ≤ n then .w32 else .none, c := if 3 ≤ n then .w32 else .none }
  let ks := if n = 1 then [f.sa] else if n = 2 then [f.sa, f.sb] else [f.sa, f.sb, f.sc]
  runF s h f sh (immBad f ty x2 ks || (x2 && ty == 1)) false (fun l =>
    let a := s.rdA .w32 f f.sa l
    let b := s.rdA .w32 f f.sb l
    let c := s.rdA .w32 f f.sc l
    halves x2 (fBits ty) (fun sft =>
      op (bitsN a sft (fBits ty)) (bitsN b sft (fBits ty)) (bitsN c sft (fBits ty)) (s.laneDraw l a)))

/-- The mode and saturation of a slot. -/
def FA.enc (f : FA) (u : Nat) (v : Option FVal) : Nat × W64 := encO f.ty.toNat f.rnd.toNat (f.sat = 1) u v
/-- A code of the slot's type as a value. -/
def FA.dec (f : FA) (x : Nat) : FVal := fDec f.ty.toNat x

/-- `fadd` (R153, R154). -/
def execFadd (h : Hdr) (f : FA) (s : State) : Out :=
  runFop s h f 2 true (fun a b _ u => FA.enc f u (sumV f.rnd.toNat [FA.dec f a, FA.dec f b]))
/-- `fsub` (R153, R154). -/
def execFsub (h : Hdr) (f : FA) (s : State) : Out :=
  runFop s h f 2 true (fun a b _ u => FA.enc f u (sumV f.rnd.toNat [FA.dec f a, negV (FA.dec f b)]))
/-- `fmul` (R153, R154). -/
def execFmul (h : Hdr) (f : FA) (s : State) : Out :=
  runFop s h f 2 true (fun a b _ u => FA.enc f u (mulV (FA.dec f a) (FA.dec f b)))
/-- `ffma` (R153, R154): one rounding. -/
def execFfma (h : Hdr) (f : FA) (s : State) : Out :=
  runFop s h f 3 true (fun a b c u => FA.enc f u (fmaV f.rnd.toNat (FA.dec f a) (FA.dec f b) (FA.dec f c)))
/-- `fmin` (R65). -/
def execFmin (h : Hdr) (f : FA) (s : State) : Out :=
  runFop s h f 2 false (fun a b _ _ => (minMaxF f.ty.toNat false false a b, 0))
/-- `fmax` (R65). -/
def execFmax (h : Hdr) (f : FA) (s : State) : Out :=
  runFop s h f 2 false (fun a b _ _ => (minMaxF f.ty.toNat true false a b, 0))
/-- `fminn` (R65). -/
def execFminn (h : Hdr) (f : FA) (s : State) : Out :=
  runFop s h f 2 false (fun a b _ _ => (minMaxF f.ty.toNat false true a b, 0))
/-- `fmaxn` (R65). -/
def execFmaxn (h : Hdr) (f : FA) (s : State) : Out :=
  runFop s h f 2 false (fun a b _ _ => (minMaxF f.ty.toNat true true a b, 0))
/-- `fabs` (R153): bits only. -/
def execFabs (h : Hdr) (f : FA) (s : State) : Out :=
  runFop s h f 1 false (fun a _ _ _ => (a % 2 ^ (fBits f.ty.toNat - 1), 0))
/-- `fneg` (R153): bits only. -/
def execFneg (h : Hdr) (f : FA) (s : State) : Out :=
  runFop s h f 1 false (fun a _ _ _ => (a ^^^ 2 ^ (fBits f.ty.toNat - 1), 0))

/-- A floating-point entry without `.x2` whose operands are read in the slot's type. -/
def runF1 (s : State) (h : Hdr) (f : FA) (sh : AShape) (ks : List Spec) (op : Nat → Nat → Nat → LaneRes) : Out :=
  let w := fBits f.ty.toNat
  runF s h f sh (immBad f f.ty.toNat false ks) false (fun l =>
    op (s.rdA .w32 f f.sa l % 2 ^ w) (s.rdA .w32 f f.sb l) (s.laneDraw l (s.rdA .w32 f f.sa l)))
/-- A result with its status. -/
def resF (r : Nat × W64) : LaneRes := { val := BitVec.ofNat 64 r.1, fstat := r.2 }

/-- `fdiv` (R153, R154). -/
def execFdiv (h : Hdr) (f : FA) (s : State) : Out :=
  runF1 s h f { types := tF, rnds := rndAll, sat := true, a := .w32, b := .w32 } [f.sa, f.sb] (fun a b u =>
    resF (divF f.ty.toNat f.rnd.toNat (f.sat = 1) u (FA.dec f a) (FA.dec f (b % 2 ^ fBits f.ty.toNat))))
/-- `fsqrt` (R153, R154). -/
def execFsqrt (h : Hdr) (f : FA) (s : State) : Out :=
  runF1 s h f { types := tF, rnds := rndAll, sat := true, a := .w32 } [f.sa] (fun a _ u =>
    resF (sqrtF f.ty.toNat f.rnd.toNat (f.sat = 1) u (FA.dec f a)))

/-- R155: the comparison codes of `fcmp`. -/
def fcc (cc : Nat) (a b : FVal) : Bool :=
  let nan := a == .nan || b == .nan
  match cc with
  | 0 => !nan && decide (cmpV a b = 0)
  | 1 => nan || decide (cmpV a b ≠ 0)
  | 2 => !nan && decide (cmpV a b < 0)
  | 3 => !nan && decide (cmpV a b ≤ 0)
  | 4 => !nan && decide (0 < cmpV a b)
  | 5 => !nan && decide (0 ≤ cmpV a b)
  | 6 => !nan
  | _ => nan
/-- `fcmp` (R155): 1 or 0 into a predicate, all bits set or 0 into a v or s register. -/
def execFcmp (h : Hdr) (f : FA) (s : State) : Out :=
  let w := fBits f.ty.toNat
  runF s h f { types := tF, subs := List.range 8, dk := .anyPred, a := .w32, b := .w32 }
    (immBad f f.ty.toNat false [f.sa, f.sb]) true (fun l =>
      plain (if fcc f.sub.toNat (FA.dec f (s.rdA .w32 f f.sa l % 2 ^ w)) (FA.dec f (s.rdA .w32 f f.sb l % 2 ^ w))
        then 2 ^ 32 - 1 else 0))

/-- R155 `frnd`: a value rounded to an integral value in its format; a zero result keeps the sign. -/
def frndF (ty mode : Nat) (x : Nat) : Nat :=
  match fDec ty x with
  | .nan => canonNan ty
  | .inf _ => x
  | .fin n m e =>
    if m = 0 ∨ 0 ≤ e then x
    else (roundF ty 0 false n (roundInt mode 0 n m e).1.natAbs 0 false 0).1
/-- `frnd` (R155). -/
def execFrnd (h : Hdr) (f : FA) (s : State) : Out :=
  runF1 s h f { types := tF, rnds := [0, 1, 2, 3], a := .w32 } [f.sa] (fun a _ _ => plain (frndF f.ty.toNat f.rnd.toNat a))

/-- `fscl` (R155): a times 2 to the b; b is clamped where every result is already an overflow or the smallest remainder. -/
def execFscl (h : Hdr) (f : FA) (s : State) : Out :=
  runF1 s h f { types := tF, rnds := rndAll, sat := true, a := .w32, b := .w32 } [f.sa] (fun a b u =>
    match FA.dec f a with
    | .fin n m e => resF (FA.enc f u (some (.fin n m (e + max (-600) (min 600 (sext 32 b))))))
    | v => resF (FA.enc f u (some v)))

/-- R155: the class bit of a code. -/
def fclsBit (ty x : Nat) : Nat :=
  match fDec ty x with
  | .nan => 8
  | .inf n => if n then 0 else 7
  | .fin n m _ =>
    if m = 0 then (if n then 3 else 4)
    else if m < 2 ^ manBits ty then (if n then 2 else 5)
    else (if n then 1 else 6)
/-- `fcls` (R155). -/
def execFcls (h : Hdr) (f : FA) (s : State) : Out :=
  runF1 s h f { types := [1, 2, 3, 4, 5], a := .w32 } [f.sa] (fun a _ _ => plain (2 ^ fclsBit f.ty.toNat a))

/-! ### Approximate functions (R156, R157) -/

/-- Which of the results R157's bound allows is taken: free. -/
def freeAt (op x : Nat) : Nat := (Config.approx op 1 (BitVec.ofNat 32 x)).toNat

/-- A quotient or root known exactly, taken at one of its f32 neighbours (a bound of one ulp), or, `wide`, at most one further
away (two ulp): free. Where it rounds to an overflow the result is infinite (R61). -/
def nearF (op x : Nat) (wide : Bool) (n : Bool) (m : Nat) (e : Int) (sticky : Bool) : Nat × W64 :=
  let pick := freeAt op x
  let near := roundF 1 0 false n m e sticky 0
  let r := if near.1 % 2 ^ 31 = infCode 1 false then near
    else roundF 1 (if bitN pick 0 then (if n then 2 else 3) else 1) false n m e sticky 0
  let fin := decide (r.1 % 2 ^ 31 ≤ maxCode 1) && decide (0 < r.1 % 2 ^ 31)
  let code := if wide && fin && bitN pick 1 then
      (if bitN pick 0 then (if r.1 % 2 ^ 31 < maxCode 1 then r.1 + 1 else r.1) else r.1 - 1) else r.1
  (code, r.2 ||| NX)

/-- A free f32 result in [-1, 1] with NX (R157, beyond 2^15). -/
def unitF (op x : Nat) : Nat × W64 :=
  let v := freeAt op x
  (v / 2 ^ 31 % 2 * 2 ^ 31 + v % 2 ^ 31 % (0x3F800000 + 1), NX)
/-- ln 2 and 2 pi (mathematics), times 2^160. -/
def ln2K : Nat := 0xb17217f7d1cf79abc9e3b39803f2f6af40f34326
def twoPiK : Nat := 0x6487ed5110b4611a62633145c06e0e68948127044
/-- The fixed point of the approximations: 2^160. -/
def fxOne : Nat := 2 ^ 160
/-- exp of a fixed-point number below 1, by its series. -/
def expFx (t : Nat) : Nat := (List.range 40).foldl (fun r k => fxOne + t * r / ((40 - k) * fxOne)) fxOne
/-- Twice the inverse hyperbolic tangent of a fixed-point number below 1/3, by its series. -/
def twoAtanhFx (z : Nat) : Nat :=
  2 * (z * (List.range 60).foldl (fun r k => fxOne / (2 * (59 - k) + 1) + z * z / fxOne * r / fxOne) 0 / fxOne)
/-- The alternating series of the sine (`j` = 1) and the cosine (`j` = 0) of a fixed-point number below 2 pi. -/
def circFx (j : Nat) (r : Nat) : Int :=
  let w : Nat := r * r / fxOne
  let s : Int := (List.range 45).foldl (fun (acc : Int) k =>
    let n := 2 * (45 - k) + j
    (fxOne : Int) - (w : Int) * acc / ((n * (n - 1) * fxOne : Nat) : Int)) (fxOne : Int)
  if j = 1 then (r : Int) * s / (fxOne : Int) else s
/-- An f32 code's value times 2^320; none for a NaN or an infinity. -/
def f32Scaled (r : Nat) : Option Int :=
  match fDec 1 r with
  | .fin n m e => some (if n then -((m * 2 ^ (e + 320).toNat : Nat) : Int) else ((m * 2 ^ (e + 320).toNat : Nat) : Int))
  | _ => none
/-- A free f32 result within a bound of a value y (both times 2^320; y is known to 2^-100 of the bound): the free value where it keeps the
bound, else y rounded to nearest; with NX, and UF where y rounds to a magnitude below 2^-126 (R62). -/
def boundF (op x : Nat) (y : Int) (tol : Nat) : Nat × W64 :=
  let r := freeAt op x
  let near := (roundF 1 0 false (decide (y < 0)) y.natAbs (-320) false 0).1
  (if (f32Scaled r).any (fun v => decide ((v - y).natAbs ≤ tol + tol / 2 ^ 100)) then r else near,
    if y.natAbs < 2 ^ 194 - 2 ^ 169 then NX ||| UF else NX)
/-- R157 `fex2` of a value that is not integral: 2 to the i times a fixed-point number in [1, 2). -/
def fex2Free (op x : Nat) (i : Int) (frac : Nat) : Nat × W64 :=
  if i < -151 then (freeAt op x % 3, NX)
  else
    let y := expFx (frac * ln2K / fxOne) * 2 ^ (i + 160).toNat
    boundF op x (y : Int) (2 ^ (max i (-126) + 298).toNat)
/-- R157 `flg2` of m times 2 to the e, not a power of two. -/
def flg2Free (op x : Nat) (m : Nat) (e : Int) : Nat × W64 :=
  let l := Nat.log2 m
  let u := m * fxOne / 2 ^ l
  let y : Int := (e + l) * fxOne + ((twoAtanhFx ((u - fxOne) * fxOne / (u + fxOne)) * fxOne / ln2K : Nat) : Int)
  let k := e + l
  boundF op x (y * fxOne) (if k = 0 ∨ k = -1 then 2 ^ 298 else 2 ^ (Nat.log2 y.natAbs + 160 - 22))
/-- R157 `fsin` and `fcos` (`j` = 1, 0) of a magnitude up to 2^15. -/
def circFree (op x : Nat) (j : Nat) (n : Bool) (m : Nat) (e : Int) : Nat × W64 :=
  let y := circFx j (m * 2 ^ (e + 160).toNat % twoPiK)
  boundF op x ((if n && j = 1 then -y else y) * fxOne) (2 ^ 299)
/-- R157 `ftanh`. -/
def tanhFree (op x : Nat) (n : Bool) (m : Nat) (e : Int) : Nat × W64 :=
  let t := m * 2 ^ (e + 161).toNat
  let y : Nat := if 64 * fxOne ≤ t then fxOne
    else let q := expFx (t % ln2K) * 2 ^ (t / ln2K)
      (q - fxOne) * fxOne / (q + fxOne)
  boundF op x ((if n then -(y : Int) else (y : Int)) * fxOne) (if 2 ^ 159 ≤ y then 2 ^ 297 else 2 ^ 296)

/-- R157: the f32 result of an approximate function, by its opcode, on an f32 code. -/
def approxF (op x : Nat) : Nat × W64 :=
  match fDec 1 x with
  | .nan => (canonNan 1, 0)
  | .inf n =>
    match op with
    | 0x5D => (withSign 1 n 0, 0)
    | 0x5E => if n then (canonNan 1, NV) else (0, 0)
    | 0x5F => if n then (0, 0) else (infCode 1 false, 0)
    | 0x60 => if n then (canonNan 1, NV) else (infCode 1 false, 0)
    | 0x63 => (withSign 1 n 0x3F800000, 0)
    | _ => (canonNan 1, NV)
  | .fin n m e =>
    if m = 0 then
      match op with
      | 0x5D => (infCode 1 n, DZ)
      | 0x5E => (infCode 1 n, DZ)
      | 0x5F => (0x3F800000, 0)
      | 0x60 => (infCode 1 true, DZ)
      | 0x62 => (0x3F800000, 0)
      | _ => (withSign 1 n 0, 0)
    else
      let pow2 := m = 2 ^ Nat.log2 m
      let k : Int := e + Nat.log2 m
      match op with
      | 0x5D =>
        if pow2 ∧ -149 ≤ -k ∧ -k ≤ 127 then ((roundF 1 0 false n 1 (-k) false 0).1, 0)
        else let y := 2 ^ 160; nearF op x false n (y / m) (-e - 160) (y % m != 0)
      | 0x5E =>
        if n then (canonNan 1, NV)
        else let y := 2 ^ 320 / m
             let p := sqrtParts y (-e - 320)
             nearF op x true false p.1 p.2.1 (p.2.2 || 2 ^ 320 % m != 0)
      | 0x5F =>
        let v := roundInt 1 0 n m e
        if v.2 = false then
          (if v.1 < -149 then (freeAt op x % 3, NX ||| UF)
           else if 127 < v.1 then (infCode 1 false, OF ||| NX) else ((roundF 1 0 false false 1 v.1 false 0).1, 0))
        else if 128 ≤ v.1 then (infCode 1 false, OF ||| NX)
        else
          let i : Int := if n then v.1 - 1 else v.1
          let frac : Nat := if i < -151 then 0 else ((if n then -(m * 2 ^ (e + 160).toNat : Int) else (m * 2 ^ (e + 160).toNat : Int)) - i * fxOne).toNat
          ((fex2Free op x i frac).1, if i < -126 then NX ||| UF else NX)
      | 0x60 =>
        if n then (canonNan 1, NV)
        else if pow2 then ((roundF 1 0 false (decide (k < 0)) k.natAbs 0 false 0).1, 0)
        else flg2Free op x m e
      | 0x63 => tanhFree op x n m e
      | _ => if k < 15 ∨ (k = 15 ∧ pow2) then circFree op x (if op = 0x61 then 1 else 0) n m e else unitF op x

/-- R156: an approximate function: f32 directly; f16 and bf16 are widened exactly, and the f32 result is rounded with rne. -/
def runApprox (s : State) (h : Hdr) (f : FA) (op : Nat) : Out :=
  runF1 s h f { types := tF, a := .w32 } [f.sa] (fun a _ _ =>
    if f.ty = 1 then resF (approxF op a)
    else
      let wide := (encV 1 0 false 0 (FA.dec f a)).1
      let r := approxF op wide
      let t := encV f.ty.toNat 0 false 0 (fDec 1 r.1)
      { val := BitVec.ofNat 64 t.1, fstat := r.2 ||| t.2 })
/-- `frcp` (R157). -/
def execFrcp (h : Hdr) (f : FA) (s : State) : Out := runApprox s h f 0x5D
/-- `frsq` (R157). -/
def execFrsq (h : Hdr) (f : FA) (s : State) : Out := runApprox s h f 0x5E
/-- `fex2` (R157). -/
def execFex2 (h : Hdr) (f : FA) (s : State) : Out := runApprox s h f 0x5F
/-- `flg2` (R157). -/
def execFlg2 (h : Hdr) (f : FA) (s : State) : Out := runApprox s h f 0x60
/-- `fsin` (R157). -/
def execFsin (h : Hdr) (f : FA) (s : State) : Out := runApprox s h f 0x61
/-- `fcos` (R157). -/
def execFcos (h : Hdr) (f : FA) (s : State) : Out := runApprox s h f 0x62
/-- `ftanh` (R157). -/
def execFtanh (h : Hdr) (f : FA) (s : State) : Out := runApprox s h f 0x63

/-! ### Conversions and packing (R158, R159) -/

/-- R64, R158: one conversion between floating-point formats; between equal ones a NaN is made canonical, and `.sat` replaces an
infinity (R61). -/
def fcvtF (dt st mode : Nat) (sat : Bool) (u x : Nat) : Nat × W64 :=
  let v := fDec st x
  if dt = st then
    match v with
    | .nan => (canonNan dt, 0)
    | .inf n => if sat then (withSign dt n (maxCode dt), SAT) else (x % 2 ^ fBits dt, 0)
    | _ => (x % 2 ^ fBits dt, 0)
  else if dt = 7 then toE8m0 mode sat u v
  else encV dt mode sat u v
/-- `fcvt` (R158): destination type in TYPE, source type in SUB. -/
def execFcvt (h : Hdr) (f : FA) (s : State) : Out :=
  let st := f.sub.toNat
  runF s h f { types := [1, 2, 3, 4, 5, 7], rnds := rndAll, subs := [1, 2, 3, 4, 5, 7], sat := true, a := .w32 }
    (immBad f st false [f.sa]) false (fun l =>
      let a := s.rdA .w32 f f.sa l
      resF (fcvtF f.ty.toNat st f.rnd.toNat (f.sat = 1) (s.laneDraw l a) (a % 2 ^ fBits st)))
/-- `f2i` (R158). -/
def execF2i (h : Hdr) (f : FA) (s : State) : Out :=
  let st := f.sub.toNat
  runF s h f { types := [8, 9, 10, 11, 12, 13, 14, 15], rnds := rndAll, subs := [1, 2, 3, 4, 5], sat := true, a := .w32 }
    (immBad f st false [f.sa]) (signedT f.ty.toNat) (fun l =>
      let a := s.rdA .w32 f f.sa l
      resF (toInt f.ty.toNat f.rnd.toNat (f.sat = 1) (s.laneDraw l a) (fDec st (a % 2 ^ fBits st))))
/-- `i2f` (R158). -/
def execI2f (h : Hdr) (f : FA) (s : State) : Out :=
  let st := f.sub.toNat
  let k : SKind := if wideT st then .w64 else .w32
  runF s h f { types := [1, 2, 3, 4, 5], rnds := rndAll, subs := [8, 9, 10, 11, 12, 13, 14, 15], sat := true, a := k } false false
    (fun l =>
      let a := if wideT st then (s.rd64 f.sa f.imm (signedT st) l).toNat else s.rdA .w32 f f.sa l
      let x := valT (intWidth st) (signedT st) a
      resF (roundF f.ty.toNat f.rnd.toNat (f.sat = 1) (decide (x < 0)) x.natAbs 0 false (s.laneDraw l a)))
/-- `pack` (R159): SUB 0 `.b16`, SUB 1 `.b8`. -/
def execPack (h : Hdr) (f : FA) (s : State) : Out :=
  let b8 : Bool := f.sub = 1
  runF s h f { types := [0], subs := [0, 1], b := .val, c := if b8 then .val else .none } false false (fun l =>
    let a := s.rdA .val f f.sa l
    let b := s.rdA .val f f.sb l
    if b8 then plain (s.rdA .val f f.sc l % 2 ^ 16 * 2 ^ 16 + b % 2 ^ 8 * 2 ^ 8 + a % 2 ^ 8)
    else plain (b % 2 ^ 16 * 2 ^ 16 + a % 2 ^ 16))
/-- `unpk` (R159): field k mod (32 / N) of a. -/
def execUnpk (h : Hdr) (f : FA) (s : State) : Out :=
  runF s h f { types := [0], subs := [0, 1, 2], b := .val } false false (fun l =>
    let n := 16 / 2 ^ f.sub.toNat
    plain (bitsN (s.rdA .val f f.sa l) (n * (s.rdA .val f f.sb l % 8 % (32 / n))) n))
/-- `dot2` (R159): two exact products and c, one rounding to f32. -/
def execDot2 (h : Hdr) (f : FA) (s : State) : Out :=
  let st := f.sub.toNat
  let w := fBits st
  runF s h f { types := [1], rnds := rndAll, subs := [2, 3, 4, 5], sat := true, a := .w32, b := .w32, c := .w32 } false false
    (fun l =>
      let a := s.rdA .w32 f f.sa l
      let b := s.rdA .w32 f f.sb l
      let p0 := mulV (fDec st (bitsN a 0 w)) (fDec st (bitsN b 0 w))
      let p1 := mulV (fDec st (bitsN a w w)) (fDec st (bitsN b w w))
      let v := match p0, p1 with
        | some x, some y => sumV f.rnd.toNat [x, y, fDec 1 (s.rdA .w32 f f.sc l)]
        | _, _ => none
      resF (FA.enc f (s.laneDraw l a) v))

/-! ### Reduction and scan (R73, R74, R163, R164) -/

/-- One node of R73: the combination of two values, by SUB and TYPE. -/
def redOp (sub ty mode : Nat) (x y : Nat) : Nat × W64 :=
  if 1 ≤ ty ∧ ty ≤ 3 then
    match sub with
    | 0 => encO ty mode false 0 (sumV mode [fDec ty x, fDec ty y])
    | 1 => (minMaxF ty false false x y, 0)
    | 2 => (minMaxF ty true false x y, 0)
    | 3 => (minMaxF ty false true x y, 0)
    | _ => (minMaxF ty true true x y, 0)
  else
    match sub with
    | 0 => ((x + y) % 2 ^ 32, 0)
    | 1 => (wrapN 32 (min (valT 32 (signedT ty) x) (valT 32 (signedT ty) y)), 0)
    | 2 => (wrapN 32 (max (valT 32 (signedT ty) x) (valT 32 (signedT ty) y)), 0)
    | 5 => (x &&& y, 0)
    | 6 => (x ||| y, 0)
    | _ => (x ^^^ y, 0)
/-- The identity of an operation (R163). -/
def redIdent (sub ty : Nat) : Nat :=
  if 1 ≤ ty ∧ ty ≤ 3 then
    match sub with
    | 0 => 0
    | 1 => infCode ty false
    | 2 => infCode ty true
    | _ => canonNan ty
  else
    match sub with
    | 1 => wrapN 32 (tMax 32 (signedT ty))
    | 2 => wrapN 32 (tMin 32 (signedT ty))
    | 5 => 2 ^ 32 - 1
    | _ => 0
/-- Combine two nodes; an empty one promotes the other unchanged (R73). -/
def redPair (op : Nat → Nat → Nat × W64) (x y : Option (Nat × W64)) : Option (Nat × W64) :=
  match x, y with
  | some a, some b => let r := op a.1 b.1; some (r.1, r.2 ||| a.2 ||| b.2)
  | some a, none => some a
  | none, b => b
/-- Node (t, m) of R73 over the leaves. -/
def redNode (op : Nat → Nat → Nat × W64) (leaf : Nat → Option (Nat × W64)) : Nat → Nat → Option (Nat × W64)
  | 0, m => leaf m
  | t + 1, m => redPair op (redNode op leaf t (2 * m)) (redNode op leaf t (2 * m + 1))
/-- The aligned nodes that cover lanes 0 to l, largest first (R74): level and index. -/
def scanNodes (l : Nat) : List (Nat × Nat) :=
  ((List.range 6).reverse.foldl (fun (acc : Nat × List (Nat × Nat)) t =>
    if acc.1 + 2 ^ t ≤ l + 1 then (acc.1 + 2 ^ t, acc.2 ++ [(t, acc.1 / 2 ^ t)]) else acc) (0, [])).2
/-- R74: the prefix of lane l. -/
def scanVal (op : Nat → Nat → Nat × W64) (leaf : Nat → Option (Nat × W64)) (l : Nat) : Option (Nat × W64) :=
  (scanNodes l).foldl (fun a n => redPair op a (redNode op leaf n.1 n.2)) none
/-- Types that a SUB code accepts (R163). -/
def redTypes (sub : Nat) : List Nat :=
  match sub with | 0 => [1, 2, 3, 12, 13] | 1 => [1, 2, 3, 12, 13] | 2 => [1, 2, 3, 12, 13] | 3 => tF | 4 => tF | _ => [0]
/-- The shape of `red` and `scan` (R163, R164). -/
def redShape (f : FA) (dk : DKind) : AShape :=
  { types := redTypes f.sub.toNat, rnds := if 1 ≤ f.ty.toNat ∧ f.ty.toNat ≤ 3 then [0, 1, 2, 3] else [0],
    subs := [0, 1, 2, 3, 4, 5, 6, 7], dk, a := .vec, vecOk := true }
/-- The source lanes' values. -/
def redLeaf (s : State) (f : FA) (srcs : List Nat) (l : Nat) : Option (Nat × W64) :=
  if srcs.contains l then some (s.rdA .w32 f f.sa l % 2 ^ (if 1 ≤ f.ty.toNat ∧ f.ty.toNat ≤ 3 then fBits f.ty.toNat else 32), 0)
  else none
/-- `red` (R163): once, whatever the guards hold; a scalar member raises ROLECLASS. -/
def execRed (h : Hdr) (f : FA) (s : State) : Out :=
  let sh := redShape f .scalar
  let uses := sh.uses f
  let srcs := s.guarded h
  runSlot s (issueFault s h (classOk s .flt false h.role.toNat && !s.m.scalar) uses (sh.field f s.m.scalar)) (s.hazard uses)
    (fun s => if s.marked uses srcs then s.raise { code := POISON, lanes := maskOf (s.markedLanes uses srcs) }
      else s.effectA [] f.dst false (signedT f.ty.toNat) [0] (fun _ =>
        resF ((redNode (redOp f.sub.toNat f.ty.toNat f.rnd.toNat) (redLeaf s f srcs) 5 0).getD (redIdent f.sub.toNat f.ty.toNat, 0))))
/-- `scan` (R164). -/
def execScan (h : Hdr) (f : FA) (s : State) : Out :=
  let sh := redShape f .vector
  let uses := sh.uses f
  let srcs := s.guarded h
  runSlot s (issueFault s h (classOk s .flt false h.role.toNat && !s.m.scalar) uses (sh.field f s.m.scalar)) (s.hazard uses)
    (fun s => s.effectA uses f.dst false false srcs (fun l =>
      resF ((scanVal (redOp f.sub.toNat f.ty.toNat f.rnd.toNat) (redLeaf s f srcs) l).getD (redIdent f.sub.toNat f.ty.toNat, 0))))

end Sys2Proof.Machine
end

