-- ==== Sys2Proof/Machine/Dispatch.lean ====
section
/-!
DEFINITION. Dispatch.lean: the dispatch, one arm per constructor of `Instr`, each arm one direct call of that
instruction's meaning.
-/
namespace Sys2Proof.Machine

def exec (i : Instr) (s : State) : Host.Outcome State Fault Refusal :=
  match i with
  | .trapIll h f => Sys2Proof.Machine.execTrapIll h f s
  | .bra h f => Sys2Proof.Machine.execBra h f s
  | .bru h f => Sys2Proof.Machine.execBru h f s
  | .brx h f => Sys2Proof.Machine.execBrx h f s
  | .call h f => Sys2Proof.Machine.execCall h f s
  | .calli h f => Sys2Proof.Machine.execCalli h f s
  | .ret h f => Sys2Proof.Machine.execRet h f s
  | .iexit h f => Sys2Proof.Machine.execIexit h f s
  | .ijoin h f => Sys2Proof.Machine.execIjoin h f s
  | .fuse h f => Sys2Proof.Machine.execFuse h f s
  | .iloop h f => Sys2Proof.Machine.execIloop h f s
  | .yield h f => Sys2Proof.Machine.execYield h f s
  | .nop h f => Sys2Proof.Machine.execNop h f s
  | .fnHeader h f => Sys2Proof.Machine.execFnHeader h f s
  | .emptySlot => Sys2Proof.Machine.execEmptySlot s
  | .trap h f => Sys2Proof.Machine.execTrap h f s
  | .brk h f => Sys2Proof.Machine.execBrk h f s
  | .wdogRd h f => Sys2Proof.Machine.execWdogRd h f s
  | .wdogKick h f => Sys2Proof.Machine.execWdogKick h f s
  | .wdogLim h f => Sys2Proof.Machine.execWdogLim h f s
  | .iadd h f => Sys2Proof.Machine.execIadd h f s
  | .iadd3 h f => Sys2Proof.Machine.execIadd3 h f s
  | .iadc h f => Sys2Proof.Machine.execIadc h f s
  | .isub h f => Sys2Proof.Machine.execIsub h f s
  | .imul h f => Sys2Proof.Machine.execImul h f s
  | .imulh h f => Sys2Proof.Machine.execImulh h f s
  | .imad h f => Sys2Proof.Machine.execImad h f s
  | .imadw h f => Sys2Proof.Machine.execImadw h f s
  | .idiv h f => Sys2Proof.Machine.execIdiv h f s
  | .irem h f => Sys2Proof.Machine.execIrem h f s
  | .ineg h f => Sys2Proof.Machine.execIneg h f s
  | .iabs h f => Sys2Proof.Machine.execIabs h f s
  | .imin h f => Sys2Proof.Machine.execImin h f s
  | .imax h f => Sys2Proof.Machine.execImax h f s
  | .iand h f => Sys2Proof.Machine.execIand h f s
  | .ior h f => Sys2Proof.Machine.execIor h f s
  | .ixor h f => Sys2Proof.Machine.execIxor h f s
  | .andn h f => Sys2Proof.Machine.execAndn h f s
  | .inot h f => Sys2Proof.Machine.execInot h f s
  | .lgc3 h f => Sys2Proof.Machine.execLgc3 h f s
  | .shl h f => Sys2Proof.Machine.execShl h f s
  | .shr h f => Sys2Proof.Machine.execShr h f s
  | .sar h f => Sys2Proof.Machine.execSar h f s
  | .rol h f => Sys2Proof.Machine.execRol h f s
  | .ror h f => Sys2Proof.Machine.execRor h f s
  | .bfe h f => Sys2Proof.Machine.execBfe h f s
  | .bfi h f => Sys2Proof.Machine.execBfi h f s
  | .brev h f => Sys2Proof.Machine.execBrev h f s
  | .popc h f => Sys2Proof.Machine.execPopc h f s
  | .clz h f => Sys2Proof.Machine.execClz h f s
  | .ctz h f => Sys2Proof.Machine.execCtz h f s
  | .bytx h f => Sys2Proof.Machine.execBytx h f s
  | .lea h f => Sys2Proof.Machine.execLea h f s
  | .icmp h f => Sys2Proof.Machine.execIcmp h f s
  | .sel h f => Sys2Proof.Machine.execSel h f s
  | .pand h f => Sys2Proof.Machine.execPand h f s
  | .por h f => Sys2Proof.Machine.execPor h f s
  | .pxor h f => Sys2Proof.Machine.execPxor h f s
  | .pnot h f => Sys2Proof.Machine.execPnot h f s
  | .mov h f => Sys2Proof.Machine.execMov h f s
  | .movi h f => Sys2Proof.Machine.execMovi h f s
  | .movs h f => Sys2Proof.Machine.execMovs h f s
  | .lxch h f => Sys2Proof.Machine.execLxch h f s
  | .bcast h f => Sys2Proof.Machine.execBcast h f s
  | .vote h f => Sys2Proof.Machine.execVote h f s
  | .ballot h f => Sys2Proof.Machine.execBallot h f s
  | .imatch h f => Sys2Proof.Machine.execImatch h f s
  | .perm4 h f => Sys2Proof.Machine.execPerm4 h f s
  | .icvt h f => Sys2Proof.Machine.execIcvt h f s
  | .fadd h f => Sys2Proof.Machine.execFadd h f s
  | .fsub h f => Sys2Proof.Machine.execFsub h f s
  | .fmul h f => Sys2Proof.Machine.execFmul h f s
  | .ffma h f => Sys2Proof.Machine.execFfma h f s
  | .fmin h f => Sys2Proof.Machine.execFmin h f s
  | .fmax h f => Sys2Proof.Machine.execFmax h f s
  | .fminn h f => Sys2Proof.Machine.execFminn h f s
  | .fmaxn h f => Sys2Proof.Machine.execFmaxn h f s
  | .fabs h f => Sys2Proof.Machine.execFabs h f s
  | .fneg h f => Sys2Proof.Machine.execFneg h f s
  | .fcmp h f => Sys2Proof.Machine.execFcmp h f s
  | .fdiv h f => Sys2Proof.Machine.execFdiv h f s
  | .fsqrt h f => Sys2Proof.Machine.execFsqrt h f s
  | .frcp h f => Sys2Proof.Machine.execFrcp h f s
  | .frsq h f => Sys2Proof.Machine.execFrsq h f s
  | .fex2 h f => Sys2Proof.Machine.execFex2 h f s
  | .flg2 h f => Sys2Proof.Machine.execFlg2 h f s
  | .fsin h f => Sys2Proof.Machine.execFsin h f s
  | .fcos h f => Sys2Proof.Machine.execFcos h f s
  | .ftanh h f => Sys2Proof.Machine.execFtanh h f s
  | .frnd h f => Sys2Proof.Machine.execFrnd h f s
  | .fscl h f => Sys2Proof.Machine.execFscl h f s
  | .fcls h f => Sys2Proof.Machine.execFcls h f s
  | .fcvt h f => Sys2Proof.Machine.execFcvt h f s
  | .f2i h f => Sys2Proof.Machine.execF2i h f s
  | .i2f h f => Sys2Proof.Machine.execI2f h f s
  | .pack h f => Sys2Proof.Machine.execPack h f s
  | .unpk h f => Sys2Proof.Machine.execUnpk h f s
  | .dot2 h f => Sys2Proof.Machine.execDot2 h f s
  | .hqt h f => Sys2Proof.Machine.execHqt h f s
  | .qfp8 h f => Sys2Proof.Machine.execQfp8 h f s
  | .qcb4 h f => Sys2Proof.Machine.execQcb4 h f s
  | .dqcb4 h f => Sys2Proof.Machine.execDqcb4 h f s
  | .rope h f => Sys2Proof.Machine.execRope h f s
  | .red h f => Sys2Proof.Machine.execRed h f s
  | .scan h f => Sys2Proof.Machine.execScan h f s
  | .ld h f => Sys2Proof.Machine.execLd h f s
  | .st h f => Sys2Proof.Machine.execSt h f s
  | .ldx h f => Sys2Proof.Machine.execLdx h f s
  | .stx h f => Sys2Proof.Machine.execStx h f s
  | .lds h f => Sys2Proof.Machine.execLds h f s
  | .sts h f => Sys2Proof.Machine.execSts h f s
  | .ldk h f => Sys2Proof.Machine.execLdk h f s
  | .pref h f => Sys2Proof.Machine.execPref h f s
  | .atom h f => Sys2Proof.Machine.execAtom h f s
  | .ared h f => Sys2Proof.Machine.execAred h f s
  | .fence h f => Sys2Proof.Machine.execFence h f s
  | .cflush h f => Sys2Proof.Machine.execCflush h f s
  | .cinv h f => Sys2Proof.Machine.execCinv h f s
  | .wcnt h f => Sys2Proof.Machine.execWcnt h f s
  | .wtval h f => Sys2Proof.Machine.execWtval h f s
  | .bar h f => Sys2Proof.Machine.execBar h f s
  | .snd h f => Sys2Proof.Machine.execSnd h f s
  | .rcv h f => Sys2Proof.Machine.execRcv h f s
  | .lyld h f => Sys2Proof.Machine.execLyld h f s
  | .lyst h f => Sys2Proof.Machine.execLyst h f s
  | .lyset h f => Sys2Proof.Machine.execLyset h f s
  | .lyget h f => Sys2Proof.Machine.execLyget h f s
  | .lycolRd h f => Sys2Proof.Machine.execLycolRd h f s
  | .lycolWr h f => Sys2Proof.Machine.execLycolWr h f s
  | .lychk h f => Sys2Proof.Machine.execLychk h f s
  | .lycp h f => Sys2Proof.Machine.execLycp h f s
  | .lyh h f => Sys2Proof.Machine.execLyh h f s
  | .lyloc h f => Sys2Proof.Machine.execLyloc h f s
  | .lyidx h f => Sys2Proof.Machine.execLyidx h f s
  | .cbld h f => Sys2Proof.Machine.execCbld h f s
  | .mma h f => Sys2Proof.Machine.execMma h f s
  | .mmag h f => Sys2Proof.Machine.execMmag h f s
  | .mmld h f => Sys2Proof.Machine.execMmld h f s
  | .mmst h f => Sys2Proof.Machine.execMmst h f s
  | .mmz h f => Sys2Proof.Machine.execMmz h f s
  | .mmdr h f => Sys2Proof.Machine.execMmdr h f s
  | .mmfl h f => Sys2Proof.Machine.execMmfl h f s
  | .mmia h f => Sys2Proof.Machine.execMmia h f s
  | .mmscl h f => Sys2Proof.Machine.execMmscl h f s
  | .mmcb h f => Sys2Proof.Machine.execMmcb h f s
  | .mmsl h f => Sys2Proof.Machine.execMmsl h f s
  | .hand h f => Sys2Proof.Machine.execHand h f s
  | .tbra h f => Sys2Proof.Machine.execTbra h f s
  | .tloop h f => Sys2Proof.Machine.execTloop h f s
  | .tsync h f => Sys2Proof.Machine.execTsync h f s
  | .qset h f => Sys2Proof.Machine.execQset h f s
  | .qget h f => Sys2Proof.Machine.execQget h f s
  | .drift h f => Sys2Proof.Machine.execDrift h f s
  | .rdone h f => Sys2Proof.Machine.execRdone h f s
  | .cpy h f => Sys2Proof.Machine.execCpy h f s
  | .cpyx h f => Sys2Proof.Machine.execCpyx h f s
  | .cpyr h f => Sys2Proof.Machine.execCpyr h f s
  | .rly h f => Sys2Proof.Machine.execRly h f s
  | .rlyw h f => Sys2Proof.Machine.execRlyw h f s
  | .rlyp h f => Sys2Proof.Machine.execRlyp h f s
  | .gath h f => Sys2Proof.Machine.execGath h f s
  | .pgal h f => Sys2Proof.Machine.execPgal h f s
  | .pgfr h f => Sys2Proof.Machine.execPgfr h f s
  | .pgsw h f => Sys2Proof.Machine.execPgsw h f s
  | .mig h f => Sys2Proof.Machine.execMig h f s
  | .tres h f => Sys2Proof.Machine.execTres h f s
  | .tnode h f => Sys2Proof.Machine.execTnode h f s
  | .tedge h f => Sys2Proof.Machine.execTedge h f s
  | .tlaunch h f => Sys2Proof.Machine.execTlaunch h f s
  | .tcancel h f => Sys2Proof.Machine.execTcancel h f s
  | .hnew h f => Sys2Proof.Machine.execHnew h f s
  | .hdel h f => Sys2Proof.Machine.execHdel h f s
  | .hchk h f => Sys2Proof.Machine.execHchk h f s
  | .csrr h f => Sys2Proof.Machine.execCsrr h f s
  | .csrw h f => Sys2Proof.Machine.execCsrw h f s
  | .svc h f => Sys2Proof.Machine.execSvc h f s
  | .eret h f => Sys2Proof.Machine.execEret h f s
  | .tlbiAll h f => Sys2Proof.Machine.execTlbiAll h f s
  | .tlbiPage h f => Sys2Proof.Machine.execTlbiPage h f s
  | .ctxsv h f => Sys2Proof.Machine.execCtxsv h f s
  | .ctxld h f => Sys2Proof.Machine.execCtxld h f s
  | .halt h f => Sys2Proof.Machine.execHalt h f s
  | .hint h f => Sys2Proof.Machine.execHint h f s
  | .lineRefetch r slotB => Sys2Proof.Machine.execLineRefetch r slotB s
  | .slotPromotion r slotB => Sys2Proof.Machine.execSlotPromotion r slotB s
  | .joinTimeout r e => Sys2Proof.Machine.execJoinTimeout r e s
  | .watchdog r => Sys2Proof.Machine.execWatchdog r s
  | .wtvalTimeout r => Sys2Proof.Machine.execWtvalTimeout r s
  | .loadReturn r => Sys2Proof.Machine.execLoadReturn r s
  | .storeRetire r => Sys2Proof.Machine.execStoreRetire r s
  | .readPerform r op piece => Sys2Proof.Machine.execReadPerform r op piece s
  | .atomicPerform r op lane => Sys2Proof.Machine.execAtomicPerform r op lane s
  | .writeDrain w => Sys2Proof.Machine.execWriteDrain w s
  | .writePush w => Sys2Proof.Machine.execWritePush w s
  | .writeSend w => Sys2Proof.Machine.execWriteSend w s
  | .writeGrant w => Sys2Proof.Machine.execWriteGrant w s
  | .writeFill toQuad line => Sys2Proof.Machine.execWriteFill toQuad line s
  | .messageAppend msg => Sys2Proof.Machine.execMessageAppend msg s
  | .ringStageWrite wu ring => Sys2Proof.Machine.execRingStageWrite wu ring s
  | .matrixStart core op => Sys2Proof.Machine.execMatrixStart core op s
  | .matrixComplete core op elems => Sys2Proof.Machine.execMatrixComplete core op elems s
  | .matrixWatchdog core => Sys2Proof.Machine.execMatrixWatchdog core s
  | .engineWriteLand op move => Sys2Proof.Machine.execEngineWriteLand op move s
  | .engineCompletion op => Sys2Proof.Machine.execEngineCompletion op s
  | .relayoutGroupCommit op group => Sys2Proof.Machine.execRelayoutGroupCommit op group s
  | .pageWalk ctx va => Sys2Proof.Machine.execPageWalk ctx va s
  | .pageMove move => Sys2Proof.Machine.execPageMove move s
  | .storageError place addr hard => Sys2Proof.Machine.execStorageError place addr hard s
  | .launchEntryTake ctx q => Sys2Proof.Machine.execLaunchEntryTake ctx q s
  | .nodeLaunch n => Sys2Proof.Machine.execNodeLaunch n s
  | .nodeFinish n => Sys2Proof.Machine.execNodeFinish n s
  | .chunkDeal n => Sys2Proof.Machine.execChunkDeal n s
  | .workgroupPlace die => Sys2Proof.Machine.execWorkgroupPlace die s
  | .resourceRelease wu => Sys2Proof.Machine.execResourceRelease wu s
  | .workgroupMigration wu core => Sys2Proof.Machine.execWorkgroupMigration wu core s
  | .senderAck fwd sender => Sys2Proof.Machine.execSenderAck fwd sender s
  | .forwardRetire fwd => Sys2Proof.Machine.execForwardRetire fwd s
  | .saveComplete wu => Sys2Proof.Machine.execSaveComplete wu s
  | .matrixSaveLimit wu => Sys2Proof.Machine.execMatrixSaveLimit wu s
  | .diefence die cause => Sys2Proof.Machine.execDiefence die cause s
  | .dieLinkRateStep link use => Sys2Proof.Machine.execDieLinkRateStep link use s
  | .dieLinkRetrain link ok => Sys2Proof.Machine.execDieLinkRetrain link ok s
  | .readShared => Sys2Proof.Machine.execReadShared s
  | .readExclusive => Sys2Proof.Machine.execReadExclusive s
  | .upgrade => Sys2Proof.Machine.execUpgrade s
  | .writeBack => Sys2Proof.Machine.execWriteBack s
  | .cleanEviction => Sys2Proof.Machine.execCleanEviction s
  | .atomic => Sys2Proof.Machine.execAtomic s
  | .forward => Sys2Proof.Machine.execForward s
  | .invalidate => Sys2Proof.Machine.execInvalidate s
  | .recallReq => Sys2Proof.Machine.execRecall s
  | .data => Sys2Proof.Machine.execData s
  | .acknowledgement => Sys2Proof.Machine.execAcknowledgement s
  | .grant => Sys2Proof.Machine.execGrant s
  | .uncachedGrant => Sys2Proof.Machine.execUncachedGrant s
  | .barrierIncrement => Sys2Proof.Machine.execBarrierIncrement s
  | .barrierCompletion => Sys2Proof.Machine.execBarrierCompletion s
  | .linkControl way seq => Sys2Proof.Machine.execLinkControl way seq s
  | .ackTimeout way => Sys2Proof.Machine.execAckTimeout way s
  | .linkRetrain plane ok => Sys2Proof.Machine.execLinkRetrain plane ok s
  | .linkRateStep plane use => Sys2Proof.Machine.execLinkRateStep plane use s
  | .lineRecall line cause => Sys2Proof.Machine.execLineRecall line cause s
  | .recallWindowExpiry line => Sys2Proof.Machine.execRecallWindowExpiry line s
  | .wavelengthLoss die waves links atMonitor => Sys2Proof.Machine.execWavelengthLoss die waves links atMonitor s
  | .wavelengthRestore die waves links => Sys2Proof.Machine.execWavelengthRestore die waves links s
  | .laserloss die => Sys2Proof.Machine.execLaserloss die s
  | .planedown plane cause pkg => Sys2Proof.Machine.execPlanedown plane cause pkg s
  | .hostMemAccess part off wr len => Sys2Proof.Machine.execHostMemAccess part off wr len s
  | .lqtail ctx q v => Sys2Proof.Machine.execLqtail ctx q v s
  | .featacc hi v => Sys2Proof.Machine.execFeatacc hi v s
  | .hostRegisterWrite ctx off v => Sys2Proof.Machine.execHostRegisterWrite ctx off v s
  | .create => Sys2Proof.Machine.execCreate s
  | .destroy => Sys2Proof.Machine.execDestroy s
  | .preempt => Sys2Proof.Machine.execPreempt s
  | .resume => Sys2Proof.Machine.execResume s
  | .setpool => Sys2Proof.Machine.execSetpool s
  | .setreserve => Sys2Proof.Machine.execSetreserve s
  | .setremap => Sys2Proof.Machine.execSetremap s
  | .partnew => Sys2Proof.Machine.execPartnew s
  | .partfree => Sys2Proof.Machine.execPartfree s
  | .readstart => Sys2Proof.Machine.execReadstart s
  | .readalm => Sys2Proof.Machine.execReadalm s
  | .resetctx => Sys2Proof.Machine.execResetctx s
  | .getVersion => Sys2Proof.Machine.execGetVersion s
  | .getCapabilities => Sys2Proof.Machine.execGetCapabilities s
  | .negotiateAlgorithms => Sys2Proof.Machine.execNegotiateAlgorithms s
  | .getDigests => Sys2Proof.Machine.execGetDigests s
  | .getCertificate => Sys2Proof.Machine.execGetCertificate s
  | .challenge => Sys2Proof.Machine.execChallenge s
  | .getMeasurements => Sys2Proof.Machine.execGetMeasurements s
  | .i3cStartRecordRead => Sys2Proof.Machine.execI3cStartRecordRead s
  | .powerOn => Sys2Proof.Machine.execPowerOn s
  | .powerCap => Sys2Proof.Machine.execPowerCap s
  | .thermalTrip core => Sys2Proof.Machine.execThermalTrip core s
  | .almanacWrite => Sys2Proof.Machine.execAlmanacWrite s
  | .powerDown => Sys2Proof.Machine.execPowerDown s
  | .unassignedOpcode opc rest => Sys2Proof.Machine.execUnassignedOpcode opc rest s
  | .cop grp h f => Sys2Proof.Machine.execCop grp h f s
  | .malformedCommand => Sys2Proof.Machine.execMalformedCommand s
  | .declareUnhandled wu => Sys2Proof.Machine.execDeclareUnhandled wu s
  | .flitCrcFailure way => Sys2Proof.Machine.execFlitCrcFailure way s
  | .powerLoss tornCopy => Sys2Proof.Machine.execPowerLoss tornCopy s
  | .planeReadmission pkg plane => Sys2Proof.Machine.execPlaneReadmission pkg plane s
  | .voltageDroop core bin => Sys2Proof.Machine.execVoltageDroop core bin s
  | .powerGating core stop => Sys2Proof.Machine.execPowerGating core stop s

end Sys2Proof.Machine
end

