-- ==== Sys2Proof/Machine/Issue.lean ====
section
/-!
DEFINITION. Issue.lean: one fetch word of a member's slot: fetch, the checks of a line and of a pair, the slots of other roles, and
the two slots of a pick (R24, R87 to R94, R233, R328, R329, R332, R352).
-/
namespace Sys2Proof.Machine

/-- Bring a member's slot into focus. -/
def State.slotOf (s : State) (r : MRef) (slotB : Bool) : State := (s.focusOn r).toSlot slotB
/-- R92: a pair: slot k, then slot k + 1 on the registers as they stood before the pair. When slot k does not complete, slot k + 1 has
no effect; while slot k + 1 stalls, neither has. -/
def issuePair (i j : Instr) (r : MRef) (slotB : Bool) (s : State) : Out :=
  match exec i s with
  | .next s1 =>
    let t := s1.slotOf r slotB
    if t.wg.stop != .running || (if slotB then t.m.b else t.m.a).isNone || decide (t.m.path.pc ≠ s.m.path.pc.next) then .next s1
    else match exec j { t with pre := some s.rf } with
      | .next s2 => if { s2 with pre := s.pre } = t then .next s else .next { s2 with pre := s.pre }
      | o => o
  | o => o
/-- The fetch word at the executing path's program counter, on a line that passed its checks. -/
def issueWord (bs : List Byte) (r : MRef) (slotB : Bool) (s : State) : Out :=
  let k := s.m.path.pc.slot.toNat
  if s.skipsLine bs then .next (s.setPc { line := s.m.path.pc.line + 1, slot := 0 })
  else if pairFirst bs k then
    if !(pairOk (slotBits bs k) (slotBits bs (k + 1)) && s.pairRegsOk (decode (slotBits bs k)) (decode (slotBits bs (k + 1)))) then
      .next (s.fault ILLPAIR)
    else if s.skipsSlot bs k then .next s.advance
    else issuePair (decode (slotBits bs k)) (decode (slotBits bs (k + 1))) r slotB s
  else if s.skipsSlot bs k then .next s.advance
  else exec (decode (slotBits bs k)) s
/-- What a slot does when it is picked: MXRESET first (R352); then the team's bound; the touch of the
line's page (R311), its fetch, parity and form, in that order. -/
def issueSlot (r : MRef) (slotB : Bool) (s : State) : Out :=
  match s.findMem r with
  | none => .next s
  | some _ =>
    let s := s.slotOf r slotB
    if !(s.mayIssue slotB) then .next s
    else if s.m.mxreset then .next ((s.modM (fun m => { m with mxreset := false })).fault MXRESET)
    else
      let t := s.teamStep
      if !t.2 then .next t.1
      else match t.1.touchFetch (t.1.m.path.pc.line.toNat * 64) with
        | (u, true) => .next u
        | (u, false) => (match u.fetch u.m.path.pc.line with
          | .error f => .next (u.fetchFault u.m.path.pc.line f)
          | .ok bs =>
            if !(lineParityOk bs) then execLineRefetch r slotB u
            else if !(lineOk u.wg.declared bs) then .next (u.fault MALLINE)
            else issueWord bs r slotB (u.keepLine bs))

/-! ### Both slots in one cycle (R24) -/

/-- The fetch word that a slot would issue now: its instructions. -/
def State.wordOf (s : State) : List Instr :=
  match s.fetch s.m.path.pc.line with
  | .error _ => []
  | .ok bs =>
    let k := s.m.path.pc.slot.toNat
    decode (slotBits bs k) :: (if pairFirst bs k then [decode (slotBits bs (k + 1))] else [])
/-- The registers that an instruction of the team or system class, which no pair holds, writes at once. -/
def aloneWrites (i : Instr) : Option (Hdr × List Nat) :=
  match i with
  | .csrr h f => some (h, [f.dst.toNat])
  | .csrw h f => some (h, if f.csr = 1 then [393] else if f.csr = 2 then [394] else [])
  | .qget h f => some (h, [f.rdst.toNat])
  | .qset h f => some (h, [320 + f.qreg.toNat])
  | .hand h f => some (h, if f.ren = 1 then [f.rdst.toNat] else [])
  | .tloop h f => some (h, [f.reg.toNat])
  | _ => none
/-- The registers not written by lanes that the word of the executing slot writes, if it executes: s, q, sq, the status registers, and
layout and codebook registers. -/
def State.scalarsOf (s : State) : List Nat :=
  s.wordOf.flatMap (fun i =>
    let (h, ws) := (aloneWrites i).getD ((slotUses i).1, slotWrites i)
    let runs := match i with | .red _ _ => true | _ => s.guardLow h
    if runs then ws.filter (fun n => (decide (256 ≤ n) && decide (n < 340)) || n == 393 || n == 394 || decide (1024 ≤ n)) else [])
/-- R24: registers after both slots: slot A's scalars stand where it wrote any; the sticky bits are those of both. `a` is the file
after slot A, whose sticky bits began at zero; `b` the file after slot B. -/
def RegFile.both (a b : RegFile) (wrote : List Nat) : RegFile :=
  let keep := (wrote.filter (fun n => decide (256 ≤ n) && decide (n < 320))).map (· - 256)
  { b with
    s := keep.foldl (fun m k => smPut 0 m k (smGet 0 a.s k)) b.s
    smark := b.smark.filter (fun k => !(keep.contains k)) ++ a.smark.filter (fun k => keep.contains k)
    istat := if wrote.contains 393 then a.istat else b.istat ||| a.istat
    fstat := if wrote.contains 394 then a.fstat else b.fstat ||| a.fstat }
/-- R24, R209, R239: shared registers after both slots: what slot A wrote stands. `a` is the workgroup after slot A. -/
def Workgroup.both (a b : Workgroup) (wrote : List Nat) : Workgroup :=
  let keep {V : Type} [DecidableEq V] (d : V) (lo hi : Nat) (x y : SMap V) : SMap V :=
    ((wrote.filter (fun n => decide (lo ≤ n) && decide (n < hi))).map (· - lo)).foldl (fun m k => smPut d m k (smGet d x k)) y
  { b with
    lregs := keep 0 1024 1040 a.lregs b.lregs
    cbs := keep 0 2048 2064 a.cbs b.cbs
    sq := keep 0 336 340 a.sq b.sq
    team := b.team.map (fun t => { t with q := keep 0 320 336 ((a.team.map (·.q)).getD []) t.q }) }
/-- R24: slots A and B of the member in focus in one cycle: both read the registers as they stood; slot A goes first in its queues and
counters, and its scalar results stand. Slot B issues also when slot A stops the workgroup (R342). -/
def issueBoth (r : MRef) (s0 : State) : Out :=
  let r0 := s0.m.r
  let sA : State := { s0 with pre := some r0, m := { s0.m with r := { r0 with istat := 0, fstat := 0 } } }
  match issueSlot r false sA with
  | .next t0 =>
    let t := t0.slotOf r true
    let rA := t.m.r
    let done := decide (t.m.r ≠ sA.m.r) || decide (t.m.a ≠ s0.m.a)
    let wrote := if done then sA.scalarsOf else []
    let t1 : State := { t with m := { t.m with r := { rA with istat := r0.istat, fstat := r0.fstat } } }
    let one (u : State) : State := { u with pre := none, m := { u.m with r := RegFile.both rA u.m.r wrote } }
    if t1.m.b ≠ s0.m.b then .next (one t1)
    else (match issueSlot r true t1 with
      | .next u0 => .next ((one (u0.slotOf r true)).modW (fun w => Workgroup.both t1.wg w wrote))
      | o => o)
  | o => o

/-! ### A pick (R328, R329, R332) -/

/-- The members that issue from the port of a member: the warps of its pipe, or a scalar member alone. -/
def State.portOfMember (s : State) (r : MRef) : List MRef :=
  match s.findMem r with
  | none => []
  | some m => match m.home with
    | none => [r]
    | some h => (s.refsOn s.wg.core).filter (fun x => ((s.findMem x).bind (·.home)).map (· / 8) = some (h / 8))
/-- A cycle opens for the workgroup in focus: what its members read of the shared registers in it is what stands now. -/
def State.openCycle (s : State) : State := s.modW (fun w => { w with prev := some (w.prev.getD w.shared) })
/-- A state without what a stalled slot may leave: held fetch lines and translations. -/
def State.bare (s : State) : State := { s with mem := { s.mem with icache := [], tlb := [] } }
/-- A branch of the executing slot's word to the word itself: it changes nothing and is no stall. -/
def State.selfBranch (s : State) : Bool :=
  let takes (i : Instr) : Bool := match i with
    | .bra _ _ | .bru _ _ => true
    | .brx _ f => !(s.hazard [{ spec := f.reg }])
    | _ => false
  match s.wordOf with
  | [i] => takes i
  | [i, j] => takes j && decide (outState s (exec i s) ≠ s)
  | _ => false
/-- R328: nothing came of the slot: it was not ready. -/
def State.stalled (s t : State) : Bool :=
  decide (t.m.a = s.m.a) && decide (t.m.b = s.m.b) && decide (t.bare = s.bare) && !s.selfBranch
/-- The executing slot's word is an access through the memory port (R93). -/
def State.memWord (s : State) : Bool :=
  match s.fetch s.m.path.pc.line with
  | .error _ => false
  | .ok bs => (opPorts (fld (slotBits bs s.m.path.pc.slot.toNat) 0 8).toNat).contains 0
/-- The access processors of a core that stand before a member (log 119: by residence and `%warp`) and have not issued in this cycle. -/
def State.processorsBefore (s : State) (r : MRef) : List MRef :=
  ((s.refsOn s.wg.core).takeWhile (fun x => decide (x ≠ r))).filter (fun x => match s.findMem x with
    | some m => m.kind == 1 && m.lastIssue != s.core.cyc.toNat + 1
    | none => false)
/-- R332: the member in focus is an access processor whose memory access waits: another has the port in this cycle, or a lower-numbered
one presents an access in it. -/
def State.portWaits (s : State) (r : MRef) : Bool :=
  s.m.kind == 1 && s.memWord && (s.core.memPort == s.core.cyc.toNat + 1 || (s.processorsBefore r).any (fun x =>
    let u := (s.slotOf x false).openCycle
    u.memWord && !(u.stalled (outState u (issueSlot x false u)))))
/-- What a pick leaves (R129, R329): `sf` is the state before it, `s0` the one in which the slots issued, `t` the one they leave. Where
nothing came of them the pick is none; else the slots and their port are noted. -/
def State.afterPick (sf s0 t : State) (r : MRef) (slots : List Bool) : State :=
  if s0.stalled t then (t.modMem r (fun m => { m with yielded := sf.m.yielded })).modWu r.wu (fun w => { w with prev := sf.wg.prev })
  else
    let cyc := sf.core.cyc.toNat
    let t1 := (sf.portOfMember r).foldl (fun u x => if x = r then u else u.modMem x (fun m => { m with yielded := [] })) t
    let t2 := t1.modMem r (fun m => m.picked sf.m cyc slots)
    if sf.m.kind = 1 ∧ sf.memWord = true then
      { t2 with cores := smPut {} t2.cores sf.wg.core { (smGet {} t2.cores sf.wg.core) with memPort := cyc + 1 } }
    else t2
/-- A pick is for another cycle: the port has issued in this one, or the memory port is another's (R332). -/
def State.portBusy (sf : State) (r : MRef) : Bool :=
  (sf.portOfMember r).any (fun x => decide ((sf.findMem x).map (·.lastIssue) = some (sf.core.cyc.toNat + 1))) || sf.portWaits r
/-- The member in focus as its slots issue: the cycle is open, and no `yield` of it stands. -/
def State.picking (sf : State) : State := sf.openCycle.modM (fun m => { m with yielded := [] })
/-- One pick of a port (R329): at most one in a cycle (R332); both slots of a warp whose slices are apart. A slot that is not ready is not
picked. A pick of the pipe ends what a `yield` of another warp asked for (R129). -/
def issuePick (r : MRef) (slotB : Bool) (s : State) : Out :=
  match s.findMem r with
  | none => .next s
  | some _ =>
    let sf := s.slotOf r slotB
    if sf.portBusy r then .next s
    else if sf.m.slicesApart then
      let s0 := (sf.slotOf r false).picking
      match issueBoth r s0 with
      | .next t => .next (sf.afterPick s0 t r [false, true])
      | o => o
    else match issueSlot r slotB sf.picking with
      | .next t => .next (sf.afterPick sf.picking t r [slotB])
      | o => o

end Sys2Proof.Machine
end

