-- ==== Sys2Proof/Machine/Auto.lean ====
section
/-!
DEFINITION. Auto.lean: what a step does: what `State.sched` names next, or, when it names nothing, the next start step, the group
scheduler's picks of the cycle (R328, R329), the first event that has something to do, and then a cycle of every core.
-/
namespace Sys2Proof.Machine

/-! ### The group scheduler (R328, R329) -/

/-- A slot that is ready (R328): what its issue does is no stall. -/
def State.ready (s : State) (r : MRef) (slotB : Bool) : Bool :=
  match s.findMem r with
  | none => false
  | some _ =>
    let u := (s.slotOf r slotB).openCycle
    !(u.stalled (outState u (issueSlot r slotB u)))
/-- The slots of a member that are ready, slot A first. -/
def State.readySlots (s : State) (r : MRef) : List (MRef × Bool) := [(r, false), (r, true)].filter (fun x => s.ready x.1 x.2)
/-- The fetch ports of a core: the warps of each pipe by home, and each scalar member alone. -/
def State.ports (s : State) (core : Nat) : List (List MRef) :=
  let ms := (s.refsOn core).filterMap (fun r => (s.findMem r).map (fun m => (r, m)))
  let pipe (p : Nat) : List MRef :=
    (List.range 8).flatMap (fun k => (ms.filter (fun x => x.2.home = some (8 * p + k))).map (·.1))
  (List.range 4).map pipe ++ (ms.filter (fun x => x.2.home.isNone)).map (fun x => [x.1])
/-- The first element that a measure makes greatest. -/
def greatest {α : Type} (f : α → Nat) (xs : List α) : Option α :=
  xs.foldl (fun b x => match b with | none => some x | some y => if f y < f x then some x else b) none
/-- R129, R329: the slot that a pipe picks, from its ready slots in order of home and slot; one that yielded at its pick before, if there
is another. -/
def State.pickOf (s : State) (cyc : Nat) (slots : List (MRef × Bool)) : Option (MRef × Bool) :=
  let m (r : MRef) : Member := (s.findMem r).getD {}
  let wait (x : MRef × Bool) : Nat := if x.2 then (m x.1).waitB else (m x.1).waitA
  let others := slots.filter (fun x => !((m x.1).yielded.contains x.2))
  let ready := if others = [] then slots else others
  match greatest wait (ready.filter (fun x => decide (64 ≤ wait x))) with
  | some x => some x
  | none => (match ready.find? (fun x => decide ((m x.1).lastIssue = cyc) && decide ((m x.1).run < 8) && decide ((m x.1).yielded = []) && cyc != 0) with
    | some x => some x
    | none => greatest (fun x => 2 ^ 64 - (m x.1).lastIssue) ready)
/-- Issue what a port picks, unless it has issued in this cycle. -/
def State.issuePort (s : State) (cyc : Nat) (port : List MRef) : Option State :=
  if port.any (fun r => decide (((s.findMem r).map (·.lastIssue)) = some (cyc + 1))) then none
  else
    let free := (port.flatMap s.readySlots).filter (fun x => !((s.slotOf x.1 x.2).portWaits x.1))
    (s.pickOf cyc free).map (fun x => outState s (issuePick x.1 x.2 s))
/-- The cores that hold a workgroup. -/
def State.busyCores (s : State) : List Nat := ((s.allWgs.filter (fun w => w.wu != 0)).map (·.core)).eraseDups
/-- The next pick of the cycle, on some core. -/
def State.nextIssue (s : State) : Option State :=
  s.busyCores.findSome? (fun c => (s.ports c).findSome? (fun p => s.issuePort (smGet {} s.cores c).cyc.toNat p))
/-- The slots of a core that are ready and were not picked in the cycle. -/
def State.passedOver (s : State) (core : Nat) : List (MRef × Bool) :=
  (s.refsOn core).flatMap (fun r => (s.readySlots r).filter (fun x => !((((s.findMem r).map (·.issued)).getD []).contains x.2)))

/-! ### Events -/

/-- The event of a fabric message on its way, by its TYPE (R357). -/
def msgEvent (kind : Nat) : Option Instr :=
  match kind with
  | 1 => some .readShared | 2 => some .readExclusive | 3 => some .upgrade | 4 => some .writeBack | 5 => some .cleanEviction | 6 => some .atomic
  | 7 => some .forward | 8 => some .invalidate | 9 => some .recallReq | 10 => some .data | 11 => some .acknowledgement | 12 => some .grant
  | 13 => some .uncachedGrant | _ => none
/-- Events of a member's outstanding operations. -/
def opEvents (r : MRef) (o : OutOp) : List Instr :=
  match o.kind with
  | .load ps _ _ => (List.range ps.length).map (fun k => .readPerform r o.id k)
  | .atom _ _ ls _ => ls.map (fun l => .atomicPerform r o.id l.lane)
  | .message q => [.messageAppend q]
  | _ => []
/-- Events of an engine command. -/
def engEvents (e : EngOp) : List Instr :=
  (match e.rly with | some y => y.left.map (fun g => .relayoutGroupCommit e.id g) | none => []) ++
  (List.range (max 1 e.moves.length)).map (.engineWriteLand e.id) ++ [.engineCompletion e.id]
/-- Events of an optical link: a window ends, a replay is asked for or is due, a period ends at a use that asks for no step, lost wavelengths
shine again, a link that is down loses its plane. -/
def linkEvents (plane : Nat) (l : LinkSt) : List Instr :=
  if l.down then [.planedown plane 1 0]
  else if l.window then [.linkRetrain plane true]
  else [true, false].flatMap (fun up =>
      (if (l.dir up).nak then [.linkControl (wayOf plane up) (l.dir up).got] else []) ++ (if (l.dir up).pending = 0 then [] else [.ackTimeout (wayOf plane up)])) ++
    (if l.light = 0 then [] else [.wavelengthRestore (plane / 24) l.light (maskPairs [plane % 24])]) ++ [.linkRateStep plane 50]
/-- The events that carry on what is under way. -/
def State.underWay (s : State) : List Instr :=
  let refs := s.busyCores.flatMap s.refsOn
  let ws := s.allWgs.filter (fun w => w.wu != 0)
  refs.flatMap (fun r => ((s.findMem r).map (fun m => m.outs.flatMap (opEvents r))).getD [] ++ [.loadReturn r, .storeRetire r]) ++
  s.mem.writes.map (fun w => match w.stage with | .held => .writeDrain w.id | .ob => .writeDrain w.id | .qv => .writePush w.id | .pm => .writeSend w.id | .gi => .writeGrant w.id) ++
  ws.flatMap (fun w => (List.range ((w.team.map (·.rings.length)).getD 0)).map (fun k => .ringStageWrite w.wu k)) ++
  ws.flatMap (fun w => w.mx.queue.flatMap (fun q => [.matrixStart w.core q.id, .matrixComplete w.core q.id []]) ++
    [.matrixWatchdog w.core, .matrixSaveLimit w.wu, .saveComplete w.wu, .resourceRelease w.wu]) ++
  s.eng.ops.flatMap engEvents ++ s.mem.moves.map (fun v => .pageMove v.id) ++
  s.ctxs.flatMap (fun c => c.2.lq.map (fun q => .launchEntryTake c.1 q.1)) ++
  s.eng.nodes.flatMap (fun n => [.nodeLaunch n.ref, .chunkDeal n.ref, .nodeFinish n.ref]) ++ (List.range 4).map (fun d => .workgroupPlace d) ++
  s.plat.forwards.flatMap (fun f => f.senders.map (fun k => .senderAck f.id k) ++ [.forwardRetire f.id]) ++
  ((s.fab.net ++ s.fab.waiting).filterMap (fun m => msgEvent m.kind)).eraseDups ++ s.fab.links.flatMap (fun l => linkEvents l.1 l.2) ++
  s.plat.dieLinks.flatMap (fun l => (if l.2.window then [.dieLinkRetrain l.1 true] else [.dieLinkRateStep l.1 50])) ++
  s.fab.trans.map (fun t => .recallWindowExpiry t.line) ++ (if s.fab.laser = [] then [] else [.laserloss 0, .laserloss 1]) ++ (if s.fab.barNet = [] then [] else [.barrierIncrement, .barrierCompletion]) ++
  [.create, .destroy, .preempt, .resume, .setpool, .setreserve, .setremap, .partnew, .partfree, .readstart, .readalm, .resetctx, .malformedCommand]
/-- The member an event names. -/
def eventRef (s : State) (i : Instr) : Option MRef :=
  match i with
  | .readPerform r _ _ | .atomicPerform r _ _ | .loadReturn r | .storeRetire r => some r
  | .ringStageWrite wu _ => s.anyMember wu
  | _ => none
/-- The first event that has something to do. -/
def State.nextEvent (s : State) : Option State :=
  s.underWay.findSome? (fun i =>
    let t := outState s (exec i s)
    if t = s ∨ some t = (eventRef s i).map s.focusOn then none else some t)

/-! ### A step -/

/-- Let cycles pass on a core. -/
def passCycles (core : Nat) : Nat → State → State
  | 0, s => s
  | n + 1, s => passCycles core n (s.passCycle core (s.passedOver core))
/-- A cycle of every link and switch that has something on it; receivers acknowledge (R7, R361). -/
def State.fabricCycle (s : State) : State :=
  let s1 := s.fab.links.foldl (fun t l => ((t.linkCycles l.1 1).ackNow l.1 true).ackNow l.1 false) s
  let s2 := s1.plat.dieLinks.foldl (fun t l => t.linkCycles (64 + l.1) 1) s1
  ((s2.fab.trans.map (fun x => s2.planeOf x.line)).eraseDups).foldl (fun t p => t.switchCycles p 1) s2
/-- What a step does when nothing is named. -/
def State.autoStep (s : State) : Out :=
  if s.plat.startStep < 11 then exec .powerOn s
  else match s.nextIssue with
    | some t => .next t
    | none => (match s.nextEvent with
      | some t => .next t
      | none => .next ((s.busyCores.foldl (fun t c => passCycles c 1 t) s).fabricCycle))
/-- An event, as against an instruction that a slot holds. -/
def isEvent (i : Instr) : Bool := (encode i).isNone && wellFormed i
/-- R324, R403, R404: a core's temperature margin, in whole °C from 0 to 127. At 0 its die trips. -/
def State.setMargin (s : State) (core margin : Nat) : Out :=
  let c := smGet {} s.cores core
  let s1 := ({ s with cores := smPut {} s.cores core { c with margin := min margin 127 } } : State).modAlm (fun a =>
    { a with temp := bump a.temp (dieOf core * 16 + min margin 127 / 8) 1 })
  if margin = 0 then exec (.thermalTrip core) s1 else .next s1
/-- Do what a choice names. -/
def State.act (s : State) (c : Choice) : Out :=
  match c with
  | .issue r slotB => issuePick r slotB s
  | .issueBoth r => issuePick r false s
  | .event i => if isEvent i then exec i s else .next s
  | .cycles core n => .next (passCycles core n s)
  | .netFirst k => .next (s.netFirst k)
  | .dropLine key chunks => .next (s.takeChunks key chunks)
  | .dropTlb k => .next { s with mem := { s.mem with tlb := s.mem.tlb.take k ++ s.mem.tlb.drop (k + 1) } }
  | .fillBytes toQuad line mask => .next (s.fillMove toQuad line mask)
  | .relaxedRead r op piece => onMember s r (·.performPiece op piece true)
  | .readSource id move src => .next (s.readSource id move src)
  | .readChunk r slotB k =>
    .next ((outState s (issuePick r slotB (s.modMem r (fun m => { m with probe := some k })))).modMem r (fun m => { m with probe := none }))
  | .evictPeer line => .next (s.evictLine line)
  | .temperature core margin => s.setMargin core margin
  | .hostReq doe => .next { s with host := { s.host with doeReq := doe } }
  | .sense deciWatts steps => .next { s with plat := { s.plat with powerDW := deciWatts, startRes := steps } }
  | .hour => .next s.hour
  | .peerMsg m => .next (s.peerMsg m)
  | .peerBar m => .next (s.peerBar m)
  | .linkCycles k n => .next (s.linkCycles k n)
  | .switchCycles plane n => .next (s.switchCycles plane n)
  | .ack k up => .next (s.ackNow k up)
  | .againBar k => .next (s.againBar k)
  | .flitIn plane flits => .next (s.flitsIn plane flits)
  | .light die waves => .next (s.setLight die waves)
  | .peerWidth plane w => .next (if plane < 48 then s.modLink plane (fun l => { l with minW := w / 4 * 4 }) else s)
  | .otherTable e plane => .next (s.setOther e plane)
/-- One step. -/
def State.advanceOnce (s : State) : Out :=
  match s.sched with
  | [] => s.autoStep
  | c :: rest => { s with sched := rest }.act c

/-! ### A slot ready to be issued -/

/-- A line whose slot 0 holds some bits, the rest empty, with the line word they call for (R87, R88). -/
def lineOf (w : Slot96) : List Byte :=
  let ones := List.replicate 48 (0xFF : Byte)
  let body := leBytes 12 w.toNat ++ ones
  let roles := if w = BitVec.allOnes 96 then 0 else 2 ^ (fld w 8 3).toNat
  let low := roles * 2 ^ 8
  let word := low + 2 ^ 16 * b2n (parity 96 w.toNat) + 2 ^ 21 * b2n (parity 16 low)
  body ++ leBytes 4 word
/-- Place a line so that the very next step issues its slot 0: a running workgroup of one warp on core 0, under context 1, with the
launch attributes that the slot's class needs; the line held by its quad's instruction caches, the translation by its TLB. -/
def State.placeLine (s : State) (w : Slot96) : State :=
  let role := if w = BitVec.allOnes 96 then 0 else (fld w 8 3).toNat
  let op := (fld w 0 8).toNat
  let inTeam := decide (role ≠ 0) || decide (0xB8 ≤ op ∧ op ≤ 0xBF)
  let path : Path := { pc := {}, mask := BitVec.allOnes 32 }
  let m : Member := { id := 0, role := role, a := some path, wdBudget := 1, home := some 0 }
  let team : Option Team := if inTeam then some
    { entries := [{ idx := 0, line := 0 }], roles := if role = 0 then [] else [(role, 0)], rings := List.replicate 16 {} } else none
  let wg : Workgroup :=
    { wu := 1, wgid := 1, ctx := 1, node := ⟨1, 4, 0⟩, launch := { mtx := true, budget := 32, stack := 8, scr := 1 }, group := [1], team := team }
  let tlb : TlbEntry := { quad := 0, ctx := 1, page := 0, leaf := 0x39, large := false }
  let ctx : Ctx := { pmask := BitVec.allOnes 64 }
  { s with
    m := m
    wg := wg
    ctxs := smPut {} s.ctxs 1 ctx
    mem := { s.mem with tlb := [tlb], icache := smIns s.mem.icache 0 (lineOf w) }
    plat := { s.plat with startStep := 11, started := true }
    sched := [.issue ⟨1, 0⟩ false] }

end Sys2Proof.Machine
end

