-- ==== Sys2Proof/Machine/Step.lean ====
section
/-!
DEFINITION. Step.lean: one step, and a machine about to issue a given slot.
-/
namespace Sys2Proof.Machine

/-- One step of the machine. -/
def step (s : State) : Host.Outcome State Fault Refusal := s.advanceOnce

/-- The machine with a slot of the given bits placed where the next step issues (log 60). -/
def State.withFetchWord (s : State) (_nbits w : Nat) : State := s.placeLine (BitVec.ofNat 96 w)

end Sys2Proof.Machine
end

