-- ==== Sys2Proof/Safety.lean ====
section
/-!
DEFINITION. Safety.lean: the terms in which claims about the machine are stated: an instruction that completes, when a slot issues,
what an instruction leaves of the registers, the memory and the rest of the state, and the canonical form of the state's data.
-/
namespace Sys2Proof.Machine

/-! ### Completing -/

/-- An answer is a next state of which something holds. -/
def Goes (o : Out) (p : State → Prop) : Prop := ∃ t, o = .next t ∧ p t
/-- An instruction completes in a state: it answers a next state, of which something holds. -/
def Completes (i : Instr) (s : State) (p : State → Prop) : Prop := Goes (exec i s) p

/-- A slot issues (R96, R171): its decode checks find no fault and nothing holds it back. `field` is the entry's own field check. -/
def Issues (s : State) (h : Hdr) (clsOk : Bool) (uses : List SpecUse) (field : Option Nat) : Bool :=
  issueFault s h clsOk uses field == none && !(s.hazard uses)
/-- A slot that executes in some lanes issues and can read its sources: no receive queue it names is empty (R14) and no word it
reads is marked as poison (R171). -/
def Readable (s : State) (uses : List SpecUse) (ls : List Nat) : Bool :=
  (ls == [] || !(s.iqEmpty uses)) && !(s.marked uses ls)

/-! ### Frames -/

/-- Nothing but the member and the workgroup in focus differs: memory, the orrery, engines, contexts, cores, host, package, fabric. -/
structure SameOutside (s t : State) : Prop where
  mem : t.mem = s.mem
  eng : t.eng = s.eng
  wgs : t.wgs = s.wgs
  ctxs : t.ctxs = s.ctxs
  cores : t.cores = s.cores
  host : t.host = s.host
  plat : t.plat = s.plat
  fab : t.fab = s.fab
  pre : t.pre = s.pre
  sched : t.sched = s.sched
  uid : t.uid = s.uid
/-- Nothing but the member in focus differs. -/
structure SameBeside (s t : State) : Prop where
  out : SameOutside s t
  wg : t.wg = s.wg
/-- Every byte of memory at every place reads as before: PM, GM, the quads' views and the scratchpads (R286). -/
structure SameMemory (s t : State) : Prop where
  pm : ∀ a, memGet t.mem.pm a = memGet s.mem.pm a
  gm : ∀ a, memGet t.mem.gm a = memGet s.mem.gm a
  qv : ∀ q a, memGet (smGet [] t.mem.qv q) a = memGet (smGet [] s.mem.qv q) a
  sp : ∀ c a, memGet (smGet [] t.mem.sp c) a = memGet (smGet [] s.mem.sp c) a
/-- The member in focus with its path at a code pointer (R86) and its registers as given, all else as it was. -/
def Member.movedTo (m : Member) (p : Pc) (r : RegFile) : Member := { (m.setPath (some { m.path with pc := p })) with r := r }
/-- The member in focus only moves to its next slot. -/
structure Advanced (s t : State) : Prop where
  beside : SameBeside s t
  m : t.m = s.m.movedTo s.m.path.pc.next s.m.r

/-! ### Registers that a slot writes -/

/-- What a scalar destination holds of a lane's result (R138): 64 bits, or 32 extended by the type's sign. -/
def scalarImage (wide sgn : Bool) (x : W64) : W64 :=
  if wide then x else if sgn then (x.setWidth 32).signExtend 64 else (x.setWidth 32).setWidth 64
/-- The registers, queues and status bits after a slot whose destination is `dst` has executed in the lanes `ls` with results `res`
(R11, R14, R17 to R19, R136 to R138, R171); every register that is no destination is unchanged, and so is all else but the path's
program counter. -/
structure Wrote (s t : State) (uses : List SpecUse) (dst : Spec) (wide sgn : Bool) (ls : List Nat) (res : Nat → LaneRes) : Prop where
  out : SameOutside s t
  m : t.m = s.m.movedTo s.m.path.pc.next t.m.r
  wg : t.wg = { s.wg with iq := t.wg.iq, sq := t.wg.sq }
  vec : ∀ n l, l < 32 → t.m.r.rv n l =
    if dst.toNat < 256 ∧ l ∈ ls ∧ n = dst.toNat then (res l).val.setWidth 32
    else if dst.toNat < 256 ∧ wide = true ∧ l ∈ ls ∧ n = dst.toNat + 1 then ((res l).val >>> 32).setWidth 32
    else s.m.r.rv n l
  scal : ∀ n, t.m.r.rs n =
    if 256 ≤ dst.toNat ∧ dst.toNat < 320 ∧ n = dst.toNat - 256 then
      ((ls.getLast?).map (fun l => scalarImage wide sgn (res l).val)).getD (s.m.r.rs n)
    else s.m.r.rs n
  pred : ∀ n l, n < 7 → l < 32 → (t.m.r.rp n).getLsbD l =
    if dst.toNat = 344 + n ∧ l ∈ ls then (res l).val != 0 else (s.m.r.rp n).getLsbD l
  send : ∀ k, smGet 0 t.wg.sq k =
    if 336 ≤ dst.toNat ∧ dst.toNat < 340 ∧ k = dst.toNat - 336 then
      ((ls.getLast?).map (fun l => scalarImage wide sgn (res l).val)).getD (smGet 0 s.wg.sq k)
    else smGet 0 s.wg.sq k
  queue : ∀ k, k < 4 → smGet [] t.wg.iq k =
    if ls ≠ [] ∧ uses.any (fun u => !u.wr && u.spec.toNat == 340 + k) = true then (smGet [] s.wg.iq k).drop 1 else smGet [] s.wg.iq k
  istat : t.m.r.istat = ls.foldl (fun a l =>
    (if dst.toNat = 393 then scalarImage wide sgn (res l).val &&& 0x3 else a) ||| (res l).istat) s.m.r.istat
  fstat : t.m.r.fstat = ls.foldl (fun a l =>
    (if dst.toNat = 394 then scalarImage wide sgn (res l).val &&& 0x3F else a) ||| (res l).fstat) s.m.r.fstat

end Sys2Proof.Machine
end

