-- ==== Sys2Proof/Certificates/Slice0/Obligations.lean ====
section
/-!
DEFINITION. Obligations.lean: the statements for the provers, and the tables of results that some of them quantify over.
-/
namespace Sys2Proof.Machine

/-! ### Arithmetic by table (R136 to R159) -/

/-- One format A instruction as the spec's tables give it: its slot, its class, what its fields may hold, a further check of its
fields, whether a 32-bit result is extended by sign into 64 bits, and the result of a lane. -/
structure ARow where
  ctor : Hdr → FA → Instr
  cls : Cls := .int
  shape : FA → AShape
  bad : State → FA → Bool := fun _ _ => false
  sgn : FA → Bool := FA.sg
  value : State → Hdr → FA → Nat → LaneRes
/-- The field checks of a row. -/
def ARow.field (r : ARow) (s : State) (f : FA) : Option Nat :=
  match (r.shape f).field f s.m.scalar with | some c => some c | none => if r.bad s f then some ILLOP else none
/-- What a row says of its instruction: wherever the slot issues and its sources can be read, the machine goes on, every executing lane's
result stands in the destination, and nothing else has changed but the program counter, the status bits and the receive queues read. -/
def ARow.Holds (r : ARow) : Prop := ∀ (h : Hdr) (f : FA) (s : State),
  Issues s h (classOk s r.cls false h.role.toNat) ((r.shape f).uses f) (r.field s f) = true →
  Readable s ((r.shape f).uses f) (s.execLanes h f.dst) = true →
  Completes (r.ctor h f) s (fun t =>
    Wrote s t ((r.shape f).uses f) f.dst ((r.shape f).dstWide f) (r.sgn f) (s.execLanes h f.dst) (r.value s h f))

/-- A result of one value operand. -/
def of1 (k : SKind) (op : FA → Nat → Nat) (s : State) (_ : Hdr) (f : FA) (l : Nat) : LaneRes := plain (op f (s.rdA k f f.sa l))
/-- A result of two operands. -/
def of2 (ka kb : SKind) (op : FA → Nat → Nat → Nat) (s : State) (_ : Hdr) (f : FA) (l : Nat) : LaneRes :=
  plain (op f (s.rdA ka f f.sa l) (s.rdA kb f f.sb l))
/-- A result of three operands. -/
def of3 (ka kb kc : SKind) (op : FA → Nat → Nat → Nat → Nat) (s : State) (_ : Hdr) (f : FA) (l : Nat) : LaneRes :=
  plain (op f (s.rdA ka f f.sa l) (s.rdA kb f f.sb l) (s.rdA kc f f.sc l))

/-- Integer arithmetic (R139): exact results of the operands' values, narrowed to the type; `.sat` clamps. -/
def arithRows : List ARow :=
  [{ ctor := .iadd, shape := fun _ => { types := tInt, sat := true, b := .val }
     value := of2 .val .val (fun f a b => narrow f.w f.sg (f.sat = 1) (valT f.w f.sg a + valT f.w f.sg b)) },
   { ctor := .isub, shape := fun _ => { types := tInt, sat := true, b := .val }
     value := of2 .val .val (fun f a b => narrow f.w f.sg (f.sat = 1) (valT f.w f.sg a - valT f.w f.sg b)) },
   { ctor := .imul, shape := fun _ => { types := tInt, b := .val }
     value := of2 .val .val (fun f a b => narrow f.w f.sg (f.sat = 1) (valT f.w f.sg a * valT f.w f.sg b)) },
   { ctor := .imulh, shape := fun _ => { types := tInt, b := .val }
     value := of2 .val .val (fun f a b => wrapN (2 * f.w) (valT f.w f.sg a * valT f.w f.sg b) / 2 ^ f.w) },
   { ctor := .imin, shape := fun _ => { types := tInt, b := .val }
     value := of2 .val .val (fun f a b => narrow f.w f.sg (f.sat = 1) (min (valT f.w f.sg a) (valT f.w f.sg b))) },
   { ctor := .imax, shape := fun _ => { types := tInt, b := .val }
     value := of2 .val .val (fun f a b => narrow f.w f.sg (f.sat = 1) (max (valT f.w f.sg a) (valT f.w f.sg b))) },
   { ctor := .iadd3, shape := fun _ => { types := tInt, b := .val, c := .val }
     value := of3 .val .val .val (fun f a b c => (a + b + c) % 2 ^ f.w) },
   { ctor := .imad, shape := fun _ => { types := tInt, b := .val, c := .val }
     value := of3 .val .val .val (fun f a b c => (a * b + c) % 2 ^ f.w) },
   { ctor := .imadw, shape := fun _ => { types := [12, 13], a := .w32, b := .w32, c := .w64, dwide := true }
     value := of3 .w32 .w32 .w64 (fun f a b c => wrapN 64 (valT 32 f.sg a * valT 32 f.sg b + c)) },
   { ctor := .ineg, shape := fun _ => { types := [12, 14], sat := true }
     value := of1 .val (fun f a => narrow f.w true (f.sat = 1) (-(valT f.w true a))) },
   { ctor := .iabs, shape := fun _ => { types := [12, 14], sat := true }
     value := of1 .val (fun f a => narrow f.w true (f.sat = 1) |valT f.w true a|) }]

/-- Logic, shifts and bit fields (R142). -/
def logicRows : List ARow :=
  let two (ctor : Hdr → FA → Instr) (op : FA → Nat → Nat → Nat) : ARow :=
    { ctor, shape := fun _ => { types := tLog, b := .val }, value := of2 .val .val (fun f a b => op f a b % 2 ^ f.w) }
  let one (ctor : Hdr → FA → Instr) (op : FA → Nat → Nat) : ARow :=
    { ctor, shape := fun _ => { types := tLog }, value := of1 .val op }
  [two .iand (fun _ a b => a &&& b), two .ior (fun _ a b => a ||| b), two .ixor (fun _ a b => a ^^^ b),
   two .andn (fun f a b => a &&& (2 ^ f.w - 1 - b % 2 ^ f.w)), one .inot (fun f a => 2 ^ f.w - 1 - a % 2 ^ f.w),
   two .shl (fun f a b => if f.w ≤ b % 256 then 0 else a * 2 ^ (b % 256)), two .shr (fun _ a b => a / 2 ^ (b % 256)),
   { ctor := .sar, shape := fun _ => { types := [0, 15, 12, 14], b := .val }, sgn := fun _ => false
     value := fun s _ f l => let g := rawType f
       plain (wrapN f.w (sext f.w (s.rdA .val g g.sa l) / 2 ^ (s.rdA .val g g.sb l % 256))) },
   two .rol (fun f a b => rotl f.w a (b % 256)), two .ror (fun f a b => rotl f.w a (f.w - b % 256 % f.w)),
   { ctor := .bfe, shape := fun _ => { types := tLog, subs := [0, 1], b := .val }
     value := of2 .val .val (fun f a b => bfe f.w (f.sub = 1) a b) },
   { ctor := .bfi, shape := fun _ => { types := tLog, b := .val, c := .val }, value := of3 .val .val .val (fun f a b c => bfi f.w a b c) },
   one .brev (fun f a => ofBits f.w (fun i => bitN a (f.w - 1 - i))), one .popc (fun f a => popcount f.w a),
   one .clz (fun f a => clz f.w a), one .ctz (fun f a => ctz f.w a),
   { ctor := .bytx, shape := fun _ => { types := [0], b := .val, c := .val }
     value := of3 .val .val .val (fun _ a b c =>
       bytxByte a b c 0 + bytxByte a b c 1 * 2 ^ 8 + bytxByte a b c 2 * 2 ^ 16 + bytxByte a b c 3 * 2 ^ 24) }]

/-- Addresses, comparisons, selection, predicates, moves and integer conversion (R143, R148). -/
def moveRows : List ARow :=
  [{ ctor := .lea, shape := fun _ => { types := [12, 13], subs := List.range 16, a := .w64, b := .w32, dwide := true }
     value := of2 .w64 .w32 (fun f a b => wrapN 64 (a + valT 32 f.sg b * 2 ^ f.sub.toNat)) },
   { ctor := .icmp, shape := fun _ => { types := tInt, subs := [0, 1, 2, 3, 4, 5], dk := .anyPred, b := .val }
     value := of2 .val .val (fun f a b => if icc f.sub.toNat (valT f.w f.sg a) (valT f.w f.sg b) then 2 ^ f.w - 1 else 0) },
   { ctor := .sel, shape := fun _ => { types := tLog, b := .val, c := .pred }
     value := of3 .val .val .pred (fun _ a b c => if c = 1 then a else b) },
   { ctor := .pand, shape := fun _ => predShape 0 true, value := of2 .pred .pred (fun _ a b => a * b) },
   { ctor := .por, shape := fun _ => predShape 1 true, value := of2 .pred .pred (fun _ a b => max a b) },
   { ctor := .pxor, shape := fun _ => predShape 2 true, value := of2 .pred .pred (fun _ a b => (a + b) % 2) },
   { ctor := .pnot, shape := fun _ => predShape 3 false, value := of1 .pred (fun _ a => 1 - a) },
   { ctor := .mov, shape := fun _ => { types := tLog, dk := .mov, a := .valOrPred }, value := of1 .valOrPred (fun _ a => a) },
   { ctor := .icvt
     shape := fun f => { types := [8, 9, 10, 11, 12, 13, 14, 15], subs := [8, 9, 10, 11, 12, 13, 14, 15], sat := true
                         a := if wideT f.sub.toNat then .w64 else .w32 }
     value := fun s _ f l => icvtVal f.ty.toNat f.sub.toNat (f.sat = 1)
       (if wideT f.sub.toNat then (s.rd64 f.sa f.imm (signedT f.sub.toNat) l).toNat else (s.rd32 f.sa f.imm l).toNat) }]

/-- Lane crossing (R145 to R147): a lane reads the lane its rule names when that is a source, else itself. -/
def crossRows : List ARow :=
  let from_ (k : State → FA → Nat → Nat) (s : State) (h : Hdr) (f : FA) (l : Nat) : LaneRes := fromLane s f (s.guarded h) l (k s f l)
  [{ ctor := .lxch, shape := fun _ => { types := [0, 15], subs := List.range 16, b := .val }
     value := from_ (fun s f l => lxchLane (f.sub.toNat % 4) (32 / 2 ^ (f.sub.toNat / 4)) l (s.rdA .val f f.sb l % 32)) },
   { ctor := .bcast, shape := fun _ => { types := [0, 15], b := .val }
     value := fun s h f l => let k := s.rdA .val f f.sb l % 32
       plain (s.rdA .val f f.sa (if (s.guarded h).contains k then k else (s.guarded h).headD l)) },
   { ctor := .vote, shape := fun _ => { types := [0], subs := [0, 1, 2], dk := .anyPred, a := .pred, vecOk := true }
     bad := fun _ f => decide (f.dst.toNat < 256)
     value := fun s h f _ => plain (b2n (voteVal f.sub.toNat ((s.guarded h).map (s.rdPred f.sa)))) },
   { ctor := .ballot, shape := fun _ => { types := [0], a := .pred, vecOk := true }
     value := fun s h f _ => plain (maskOf ((s.guarded h).filter (s.rdPred f.sa))).toNat },
   { ctor := .imatch
     shape := fun f => { types := if f.sub = 1 then [1, 2, 3, 12, 13] else [0, 15], subs := [0, 1], dnarrow := true }
     bad := fun s f => !s.m.scalar && decide (256 ≤ f.dst.toNat)
     value := fun s h f l => plain (maskOf ((s.guarded h).filter (fun j => j == l ||
       keyMatch (f.sub = 1) f.ty.toNat (s.rdA .val f f.sa l) (s.rdA .val f f.sa j)))).toNat },
   { ctor := .perm4, shape := fun _ => { types := [0, 15], b := .imm }, bad := fun _ f => bitsN f.imm.toNat 8 24 != 0
     value := from_ (fun _ f l => 4 * (l / 4) + bitsN f.imm.toNat (2 * (l % 4)) 2) }]

/-- A floating-point entry on up to three operands of the type, or on the two halves of each with `.x2` (R151, R153): `op` gives the
code and the status bits, from the operands' codes and the lane's draw. -/
def fopRow (ctor : Hdr → FA → Instr) (n : Nat) (rnd : Bool) (op : FA → Nat → Nat → Nat → Nat → Nat × W64) : ARow :=
  { ctor, cls := .flt
    shape := fun _ => { types := tF, rnds := if rnd then rndAll else [0], subs := [0, 8], sat := rnd, a := .w32
                        b := if 2 ≤ n then .w32 else .none, c := if 3 ≤ n then .w32 else .none }
    bad := fun _ f => immBad f f.ty.toNat (f.sub = 8) (if n = 1 then [f.sa] else if n = 2 then [f.sa, f.sb] else [f.sa, f.sb, f.sc]) ||
      (decide (f.sub = 8) && f.ty.toNat == 1)
    sgn := fun _ => false
    value := fun s _ f l =>
      let a := s.rdA .w32 f f.sa l
      let b := s.rdA .w32 f f.sb l
      let c := s.rdA .w32 f f.sc l
      halves (f.sub = 8) (fBits f.ty.toNat) (fun sft => op f (bitsN a sft (fBits f.ty.toNat)) (bitsN b sft (fBits f.ty.toNat))
        (bitsN c sft (fBits f.ty.toNat)) (s.laneDraw l a)) }
/-- A floating-point entry without `.x2`. -/
def f1Row (ctor : Hdr → FA → Instr) (shape : FA → AShape) (two : Bool) (op : FA → Nat → Nat → Nat → LaneRes) : ARow :=
  { ctor, cls := .flt, shape
    bad := fun _ f => immBad f f.ty.toNat false (if two then [f.sa, f.sb] else [f.sa])
    sgn := fun _ => false
    value := fun s _ f l => op f (s.rdA .w32 f f.sa l % 2 ^ fBits f.ty.toNat) (s.rdA .w32 f f.sb l) (s.laneDraw l (s.rdA .w32 f f.sa l)) }

/-- Floating-point arithmetic, comparison and classes (R153 to R155, R65): exact values, one rounding. -/
def floatRows : List ARow :=
  [fopRow .fadd 2 true (fun f a b _ u => FA.enc f u (sumV f.rnd.toNat [FA.dec f a, FA.dec f b])),
   fopRow .fsub 2 true (fun f a b _ u => FA.enc f u (sumV f.rnd.toNat [FA.dec f a, negV (FA.dec f b)])),
   fopRow .fmul 2 true (fun f a b _ u => FA.enc f u (mulV (FA.dec f a) (FA.dec f b))),
   fopRow .ffma 3 true (fun f a b c u => FA.enc f u (fmaV f.rnd.toNat (FA.dec f a) (FA.dec f b) (FA.dec f c))),
   fopRow .fmin 2 false (fun f a b _ _ => (minMaxF f.ty.toNat false false a b, 0)),
   fopRow .fmax 2 false (fun f a b _ _ => (minMaxF f.ty.toNat true false a b, 0)),
   fopRow .fminn 2 false (fun f a b _ _ => (minMaxF f.ty.toNat false true a b, 0)),
   fopRow .fmaxn 2 false (fun f a b _ _ => (minMaxF f.ty.toNat true true a b, 0)),
   fopRow .fabs 1 false (fun f a _ _ _ => (a % 2 ^ (fBits f.ty.toNat - 1), 0)),
   fopRow .fneg 1 false (fun f a _ _ _ => (a ^^^ 2 ^ (fBits f.ty.toNat - 1), 0)),
   f1Row .fdiv (fun _ => { types := tF, rnds := rndAll, sat := true, a := .w32, b := .w32 }) true (fun f a b u =>
     resF (divF f.ty.toNat f.rnd.toNat (f.sat = 1) u (FA.dec f a) (FA.dec f (b % 2 ^ fBits f.ty.toNat)))),
   f1Row .fsqrt (fun _ => { types := tF, rnds := rndAll, sat := true, a := .w32 }) false (fun f a _ u =>
     resF (sqrtF f.ty.toNat f.rnd.toNat (f.sat = 1) u (FA.dec f a))),
   f1Row .frnd (fun _ => { types := tF, rnds := [0, 1, 2, 3], a := .w32 }) false (fun f a _ _ => plain (frndF f.ty.toNat f.rnd.toNat a)),
   f1Row .fscl (fun _ => { types := tF, rnds := rndAll, sat := true, a := .w32, b := .w32 }) false (fun f a b u =>
     match FA.dec f a with
     | .fin n m e => resF (FA.enc f u (some (.fin n m (e + max (-600) (min 600 (sext 32 b))))))
     | v => resF (FA.enc f u (some v))),
   f1Row .fcls (fun _ => { types := [1, 2, 3, 4, 5], a := .w32 }) false (fun f a _ _ => plain (2 ^ fclsBit f.ty.toNat a)),
   { ctor := .fcmp, cls := .flt, shape := fun _ => { types := tF, subs := List.range 8, dk := .anyPred, a := .w32, b := .w32 }
     bad := fun _ f => immBad f f.ty.toNat false [f.sa, f.sb], sgn := fun _ => true
     value := fun s _ f l => plain (if fcc f.sub.toNat (FA.dec f (s.rdA .w32 f f.sa l % 2 ^ fBits f.ty.toNat))
       (FA.dec f (s.rdA .w32 f f.sb l % 2 ^ fBits f.ty.toNat)) then 2 ^ 32 - 1 else 0) }]

/-- The approximate functions (R156, R157): exact cases as listed, else free within the bound (log 14). -/
def approxRows : List ARow :=
  let row (ctor : Hdr → FA → Instr) (op : Nat) : ARow :=
    f1Row ctor (fun _ => { types := tF, a := .w32 }) false (fun f a _ _ =>
      if f.ty = 1 then resF (approxF op a)
      else
        let r := approxF op (encV 1 0 false 0 (FA.dec f a)).1
        let t := encV f.ty.toNat 0 false 0 (fDec 1 r.1)
        { val := BitVec.ofNat 64 t.1, fstat := r.2 ||| t.2 })
  [row .frcp 0x5D, row .frsq 0x5E, row .fex2 0x5F, row .flg2 0x60, row .fsin 0x61, row .fcos 0x62, row .ftanh 0x63]

/-- Conversions and packing (R158, R159). -/
def convertRows : List ARow :=
  [{ ctor := .fcvt, cls := .flt
     shape := fun _ => { types := [1, 2, 3, 4, 5, 7], rnds := rndAll, subs := [1, 2, 3, 4, 5, 7], sat := true, a := .w32 }
     bad := fun _ f => immBad f f.sub.toNat false [f.sa], sgn := fun _ => false
     value := fun s _ f l => let a := s.rdA .w32 f f.sa l
       resF (fcvtF f.ty.toNat f.sub.toNat f.rnd.toNat (f.sat = 1) (s.laneDraw l a) (a % 2 ^ fBits f.sub.toNat)) },
   { ctor := .f2i, cls := .flt
     shape := fun _ => { types := [8, 9, 10, 11, 12, 13, 14, 15], rnds := rndAll, subs := [1, 2, 3, 4, 5], sat := true, a := .w32 }
     bad := fun _ f => immBad f f.sub.toNat false [f.sa]
     value := fun s _ f l => let a := s.rdA .w32 f f.sa l
       resF (toInt f.ty.toNat f.rnd.toNat (f.sat = 1) (s.laneDraw l a) (fDec f.sub.toNat (a % 2 ^ fBits f.sub.toNat))) },
   { ctor := .i2f, cls := .flt
     shape := fun f => { types := [1, 2, 3, 4, 5], rnds := rndAll, subs := [8, 9, 10, 11, 12, 13, 14, 15], sat := true
                         a := if wideT f.sub.toNat then .w64 else .w32 }
     sgn := fun _ => false
     value := fun s _ f l =>
       let a := if wideT f.sub.toNat then (s.rd64 f.sa f.imm (signedT f.sub.toNat) l).toNat else s.rdA .w32 f f.sa l
       let x := valT (intWidth f.sub.toNat) (signedT f.sub.toNat) a
       resF (roundF f.ty.toNat f.rnd.toNat (f.sat = 1) (decide (x < 0)) x.natAbs 0 false (s.laneDraw l a)) },
   { ctor := .pack, cls := .flt
     shape := fun f => { types := [0], subs := [0, 1], b := .val, c := if decide (f.sub = 1) then .val else .none }
     sgn := fun _ => false
     value := fun s _ f l =>
       let a := s.rdA .val f f.sa l
       let b := s.rdA .val f f.sb l
       if f.sub = 1 then plain (s.rdA .val f f.sc l % 2 ^ 16 * 2 ^ 16 + b % 2 ^ 8 * 2 ^ 8 + a % 2 ^ 8)
       else plain (b % 2 ^ 16 * 2 ^ 16 + a % 2 ^ 16) },
   { ctor := .unpk, cls := .flt, shape := fun _ => { types := [0], subs := [0, 1, 2], b := .val }, sgn := fun _ => false
     value := fun s _ f l => let n := 16 / 2 ^ f.sub.toNat
       plain (bitsN (s.rdA .val f f.sa l) (n * (s.rdA .val f f.sb l % 8 % (32 / n))) n) },
   { ctor := .dot2, cls := .flt
     shape := fun _ => { types := [1], rnds := rndAll, subs := [2, 3, 4, 5], sat := true, a := .w32, b := .w32, c := .w32 }
     sgn := fun _ => false
     value := fun s _ f l =>
       let w := fBits f.sub.toNat
       let a := s.rdA .w32 f f.sa l
       let b := s.rdA .w32 f f.sb l
       let v := match mulV (fDec f.sub.toNat (bitsN a 0 w)) (fDec f.sub.toNat (bitsN b 0 w)),
           mulV (fDec f.sub.toNat (bitsN a w w)) (fDec f.sub.toNat (bitsN b w w)) with
         | some x, some y => sumV f.rnd.toNat [x, y, fDec 1 (s.rdA .w32 f f.sc l)]
         | _, _ => none
       resF (FA.enc f (s.laneDraw l a) v) }]

/-- The shape of `idiv` and `irem`. -/
def divShape : AShape := { types := tInt, b := .val }

end Sys2Proof.Machine

open Sys2Proof Sys2Proof.Machine

/-- R139, R142: integer arithmetic, logic, shifts, rotations, bit fields, counts and byte permutation give, in every lane that executes and for
every destination and operand form, the result of their rows: exact results narrowed to the type, or clamped with `.sat`; no other
register, no status bit and no memory changes.
It says when each of these forms completes: `iadd`, `iadd3`, `isub`, `imul`, `imulh`, `imad`, `imadw`, `ineg`, `iabs`, `imin`, `imax`,
`iand`, `ior`, `ixor`, `andn`, `inot`, `shl`, `shr`, `sar`, `rol`, `ror`, `bfe`, `bfi`, `brev`, `popc`, `clz`, `ctz`, `bytx`. -/
def Obligations.IntegerResults : Prop := ∀ r ∈ arithRows ++ logicRows, r.Holds

/-- R143, R145 to R148: address arithmetic, comparison, selection, predicate logic, `mov`, integer conversion, and the lane-crossing
instructions, whose lanes read only source lanes or themselves.
It says when each of these forms completes: `lea`, `icmp`, `sel`, `pand`, `por`, `pxor`, `pnot`, `mov`, `icvt`, `lxch`, `bcast`, `vote`,
`ballot`, `imatch`, `perm4`. -/
def Obligations.MoveResults : Prop := ∀ r ∈ moveRows ++ crossRows, r.Holds

/-- R153 to R159, R65: floating-point arithmetic, minima and maxima, sign operations, division, root, rounding, scaling, classes, comparison,
conversions, packing, in each type and in both halves with `.x2`, with the status bits they raise; the approximate functions give their
listed cases exactly and elsewhere a free value within the rule's bound, which is the model's reading (log 14).
It says when each of these forms completes: `fadd`, `fsub`, `fmul`, `ffma`, `fmin`, `fmax`, `fminn`, `fmaxn`, `fabs`, `fneg`, `fcmp`,
`fdiv`, `fsqrt`, `frnd`, `fscl`, `fcls`, `frcp`, `frsq`, `fex2`, `flg2`, `fsin`, `fcos`, `ftanh`, `fcvt`, `f2i`, `i2f`, `pack`, `unpk`,
`dot2`. -/
def Obligations.FloatResults : Prop := ∀ r ∈ floatRows ++ approxRows ++ convertRows, r.Holds

/-! ### Arithmetic with effects of its own -/

/-- R140, R141: `idiv` and `irem`: their results and sticky bits where no condition traps, the trap where one does.
R140, R141: `idiv` and `irem`, where no executing lane meets a condition that the launch traps on: quotient toward zero, remainder
with the dividend's sign, the fixed results for a zero divisor and for the most negative number over -1, and DIVZ and IMIN sticky.
R141: `idiv` and `irem`, where an executing lane meets a condition that the launch traps on: PROGTRAP with ITRAP set, naming those
lanes, its detail the covered conditions met, and no result is written.
It says when each of these forms completes: `idiv`, `irem`. -/
def Obligations.DivisionResults : Prop :=
  (  ∀ (h : Hdr) (f : FA) (s : State) (rem : Bool),
    Issues s h (classOk s .int false h.role.toNat) (divShape.uses f) (divShape.field f s.m.scalar) = true →
    Readable s (divShape.uses f) (s.execLanes h f.dst) = true →
    (∀ l ∈ s.execLanes h f.dst, (divLane s f rem l).istat &&& trapCover s.wg.launch.itrap = 0) →
    Completes (if rem then .irem h f else .idiv h f) s (fun t =>
      Wrote s t (divShape.uses f) f.dst (divShape.dstWide f) f.sg (s.execLanes h f.dst) (divLane s f rem))) ∧
  (  ∀ (h : Hdr) (f : FA) (s : State) (rem : Bool),
    Issues s h (classOk s .int false h.role.toNat) (divShape.uses f) (divShape.field f s.m.scalar) = true →
    Readable s (divShape.uses f) (s.execLanes h f.dst) = true →
    let hit := (s.execLanes h f.dst).filter (fun l => (divLane s f rem l).istat &&& trapCover s.wg.launch.itrap != 0)
    hit ≠ [] →
    exec (if rem then .irem h f else .idiv h f) s =
      .next (s.raise { code := PROGTRAP, flags := 1, lanes := maskOf hit
                       detail := (hit.foldl (fun a l => a ||| ((divLane s f rem l).istat &&& trapCover s.wg.launch.itrap)) (0 : W64)).toNat }))

/-- R139, R142 to R144: `iadc` with its carries; `lgc3`, `movi` and `movs`.
R139: `iadc` adds with a carry in, writes the sum to every executing lane of its destination and the carry out to the predicate SUB
names, or to none for SUB 7; receive queues read are popped; all else is unchanged.
R142, R143, R144: `lgc3` looks the three operands' bits up in its map; `movi` writes its immediate, or, with `.hi`, the upper word of a pair or the upper half of an s register;
`movs` copies the lane that b names to an s register when it is a source lane, else the lowest source lane, where the guard holds in
the lowest lane of the mask, and only advances where it does not.
It says when each of these forms completes: `iadc`, `lgc3`, `movi`, `movs`. -/
def Obligations.CarryAndSelectResults : Prop :=
  (∀ (h : Hdr) (f : FA) (s : State),
  let ls := s.execLanes h f.dst
  Issues s h (classOk s .int false h.role.toNat) (iadcShape.uses f) (iadcShape.field f s.m.scalar) = true →
  Readable s (iadcShape.uses f) ls = true →
  Completes (.iadc h f) s (fun t =>
    SameOutside s t ∧ t.m = s.m.movedTo s.m.path.pc.next t.m.r ∧ t.wg = { s.wg with iq := t.wg.iq } ∧
    (∀ k, k < 4 → smGet [] t.wg.iq k =
      if ls ≠ [] ∧ (iadcShape.uses f).any (fun u => !u.wr && u.spec.toNat == 340 + k) = true then (smGet [] s.wg.iq k).drop 1
      else smGet [] s.wg.iq k) ∧
    (∀ n l, l < 32 → t.m.r.rv n l =
      if f.dst.toNat < 256 ∧ l ∈ ls ∧ n = f.dst.toNat then (iadcLane s f l).val.setWidth 32
      else if f.dst.toNat < 256 ∧ wideT f.ty.toNat = true ∧ l ∈ ls ∧ n = f.dst.toNat + 1 then ((iadcLane s f l).val >>> 32).setWidth 32
      else s.m.r.rv n l) ∧
    (∀ n, t.m.r.rs n = if 256 ≤ f.dst.toNat ∧ f.dst.toNat < 320 ∧ n = f.dst.toNat - 256 then
      ((ls.getLast?).map (fun l => scalarImage (wideT f.ty.toNat) false (iadcLane s f l).val)).getD (s.m.r.rs n) else s.m.r.rs n) ∧
    (∀ n l, n < 7 → l < 32 → (t.m.r.rp n).getLsbD l = if f.sub.toNat = n ∧ l ∈ ls then (iadcLane s f l).carry else (s.m.r.rp n).getLsbD l) ∧
    t.m.r.istat = s.m.r.istat ∧ t.m.r.fstat = s.m.r.fstat)) ∧
  (∀ (h : Hdr) (f : FA) (s : State),
  (let sh : AShape := { types := tLog, b := .val, c := .val, immOwn := true }
   let uses := (sh.uses f).map (fun u => { u with ok511 := false })
   let ls := s.execLanes h f.dst
   Issues s h (classOk s .int false h.role.toNat) uses (sh.field f s.m.scalar) = true → f.imm.toNat < 256 →
   Readable s uses ls = true →
   Completes (.lgc3 h f) s (fun t => Wrote s t uses f.dst (sh.dstWide f) false ls (fun l =>
     plain (ofBits f.w (fun i => bitN f.imm.toNat
       (b2n (bitN (s.rdA .val f f.sa l) i) + 2 * b2n (bitN (s.rdA .val f f.sb l) i) + 4 * b2n (bitN (s.rdA .val f f.sc l) i))))))) ∧
  (let hi : Bool := f.sub = 1
   let sh : AShape := { types := [0, 12, 15], subs := [0, 1], dk := .movi, a := .imm, dwide := hi || decide (256 ≤ f.dst.toNat) }
   let ls := s.execLanes h f.dst
   let pair := hi && decide (f.dst.toNat < 256)
   Issues s h (classOk s .int false h.role.toNat) (sh.uses f) (sh.field f s.m.scalar) = true →
   s.marked (sh.uses f) ls = false → (hi = true → f.dst.toNat < 320 ∨ 511 ≤ f.dst.toNat) →
   Completes (.movi h f) s (fun t => Wrote s t (sh.uses f) (if pair then f.dst + 1 else f.dst) (!pair && sh.dstWide f) (!pair && f.ty == 12) ls (fun l =>
     if pair then { val := f.imm.setWidth 64 }
     else if hi then { val := f.imm ++ (s.rdScalar f.dst.toNat l).setWidth 32 }
     else { val := if f.ty = 12 then f.imm.signExtend 64 else f.imm.setWidth 64 }))) ∧
  (let sh : AShape := { types := tLog, dk := .scalar, a := .vec, b := .val, vecOk := true }
   let srcs := s.guarded h
   Issues s h (classOk s .int false h.role.toNat) (sh.uses f) (sh.field f s.m.scalar) = true → 256 ≤ f.sb.toNat →
   (s.guardLow h = false ∨ s.iqEmpty (sh.uses f) = false) →
   (s.guardLow h = false → Completes (.movs h f) s (Advanced s)) ∧
   (∀ l, s.guardLow h = true → movsLane srcs (s.rdA .val f f.sb (lowLane s.active)) = some l → s.marked (sh.uses f) [l] = false →
     Completes (.movs h f) s (fun t => Wrote s t (sh.uses f) f.dst (sh.dstWide f) false [l] (fun l => plain (s.rdA .val f f.sa l))))))
/-- R73, R74, R163, R164: `red` writes the tree reduction over the source lanes to an s register, the identity where there is none;
`scan` gives every source lane the combination of the source lanes up to it, in the nodes of R74.
It says when each of these forms completes: `red`, `scan`. -/
def Obligations.ReductionResults : Prop := ∀ (h : Hdr) (f : FA) (s : State),
  let srcs := s.guarded h
  let op := redOp f.sub.toNat f.ty.toNat f.rnd.toNat
  let unit := (redIdent f.sub.toNat f.ty.toNat, (0 : W64))
  (let sh := redShape f .scalar
   Issues s h (classOk s .flt false h.role.toNat && !s.m.scalar) (sh.uses f) (sh.field f s.m.scalar) = true →
   s.marked (sh.uses f) srcs = false →
   Completes (.red h f) s (fun t => Wrote s t [] f.dst false (signedT f.ty.toNat) [0] (fun _ =>
     resF ((redNode op (redLeaf s f srcs) 5 0).getD unit)))) ∧
  (let sh := redShape f .vector
   Issues s h (classOk s .flt false h.role.toNat && !s.m.scalar) (sh.uses f) (sh.field f s.m.scalar) = true →
   s.marked (sh.uses f) srcs = false →
   Completes (.scan h f) s (fun t => Wrote s t (sh.uses f) f.dst false false srcs (fun l =>
     resF ((scanVal op (redLeaf s f srcs) l).getD unit))))

/-! ### Control (R108 to R135) -/

namespace Sys2Proof.Machine

/-- A control slot issues and its named registers are not marked as poison. -/
def IssuesB (s : State) (h : Hdr) (light : Bool) (uses : List SpecUse) (ok : Bool) : Bool :=
  Issues s h (classOk s .ctl light h.role.toNat) uses (needs ok) && !(s.marked uses [lowLane s.active])
/-- The other slot of the member in focus than the one that executes. -/
def Member.other (m : Member) : Option Path := if m.curB then m.a else m.b
/-- The whole path goes to a target, and all else stays; in a team kernel the member runs private afterwards (R235). -/
structure Moved (s t : State) (p : Pc) : Prop where
  beside : SameBeside s t
  m : t.m = { s.m.movedTo p s.m.r with priv := s.m.priv || s.wg.team.isSome }
/-- The lanes of the executing path that `bra` sends to its target. -/
def State.taken (s : State) (h : Hdr) (f : FB) : Mask := maskOf ((lanesOf s.active).filter (fun l => s.guardIn h l && s.condIn f l))
/-- A uniform transfer moves the whole path where its condition holds, falls through where not, and raises ILLTARGET where its target
lies outside the addressable lines or may not be reached. -/
def UniformTo (i : Instr) (s : State) (go : Bool) (ofs : BitVec 22) (slot : BitVec 3) : Prop :=
  (go = false → Completes i s (Advanced s)) ∧
  (go = true → s.leaves ofs = true → exec i s = .next (s.fault ILLTARGET)) ∧
  (go = true → s.leaves ofs = false → s.mayReach (s.target ofs slot) = true → Completes i s (fun t => Moved s t (s.target ofs slot))) ∧
  (go = true → s.leaves ofs = false → s.mayReach (s.target ofs slot) = false → exec i s = .next (s.noReach (s.target ofs slot)))

end Sys2Proof.Machine

/-- R108, R123, R129, R133: `nop`, a function header and the empty slot only move to the next slot; `yield` also ends the greedy run;
`wdog.rd` writes the remaining count to its s register, `wdog.kick` and `wdog.lim` restart the count, the latter with the budget
lowered.
It says when each of these forms completes: `yield`, `nop`, `fnHeader`, `emptySlot`, `wdogRd`, `wdogKick`, `wdogLim`. -/
def Obligations.PlainControlResults : Prop := ∀ (h : Hdr) (f : FB) (s : State),
  (IssuesB s h true [] (codesB f && zerosB f false false false false false) = true → Completes (.nop h f) s (Advanced s)) ∧
  (IssuesB s h true [] (codesB f && zerosB f false false false true true && decide (1 ≤ f.timeout.toNat) && decide (f.timeout.toNat ≤ 32)) = true →
    Completes (.fnHeader h f) s (Advanced s)) ∧
  Completes .emptySlot s (Advanced s) ∧
  (IssuesB s h false [] (codesB f && zerosB f false false false false false) = true →
    Completes (.yield h f) s (fun t => SameBeside s t ∧
      t.m = { s.m.movedTo s.m.path.pc.next s.m.r with yielded := s.m.yielded ++ (if s.guardLow h then [s.m.curB] else []) })) ∧
  (IssuesB s h false [{ spec := f.reg, wr := true }]
      (codesB f && zerosB f false false false true true && f.timeout == 0 && isS f.reg) = true →
    Completes (.wdogRd h f) s (fun t => SameBeside s t ∧ t.m = s.m.movedTo s.m.path.pc.next t.m.r ∧
      (∀ n, t.m.r.rs n = if s.guardLow h = true ∧ n = f.reg.toNat - 256 then s.m.wdRemaining else s.m.r.rs n) ∧
      t.m.r.v = s.m.r.v ∧ t.m.r.p = s.m.r.p ∧ t.m.r.istat = s.m.r.istat ∧ t.m.r.fstat = s.m.r.fstat)) ∧
  (IssuesB s h false [] (codesB f && zerosB f false false false false true && f.timeout == 1) = true →
    Completes (.wdogKick h f) s (fun t => SameBeside s t ∧
      t.m = { s.m.movedTo s.m.path.pc.next s.m.r with wdCount := if s.guardLow h then 0 else s.m.wdCount })) ∧
  (IssuesB s h false [{ spec := f.reg }] (codesB f && zerosB f false false false true true && f.timeout == 2 && isS f.reg) = true →
    Completes (.wdogLim h f) s (fun t => SameBeside s t ∧
      t.m = { s.m.movedTo s.m.path.pc.next s.m.r with
        wdCount := if s.guardLow h then 0 else s.m.wdCount
        wdBudget := if s.guardLow h then limBudget s.m.wdBudget (s.rf.rs (f.reg.toNat - 256)).toNat else s.m.wdBudget }))
/-- R117, R127, R128: `bru`, `brx` and `loop` move the whole path or none of it; `loop` counts its s register down and falls through when
it reaches zero.
It says when each of these forms completes: `bru`, `brx`, `iloop`. -/
def Obligations.UniformBranchResults : Prop := ∀ (h : Hdr) (f : FB) (s : State),
  (IssuesB s h false [] (codesB f && zerosB f true true false false false) = true →
    UniformTo (.bru h f) s (s.guardIn h (lowLane s.active) && s.condIn f (lowLane s.active)) f.tofs f.tslot) ∧
  (IssuesB s h false [{ spec := f.reg }] (codesB f && zerosB f false false false true false && isS f.reg) = true →
    (s.guardLow h = false → Completes (.brx h f) s (Advanced s)) ∧
    (s.guardLow h = true → pcOf (s.rf.rs (f.reg.toNat - 256)) = none → exec (.brx h f) s = .next (s.fault ILLTARGET)) ∧
    (∀ p, s.guardLow h = true → pcOf (s.rf.rs (f.reg.toNat - 256)) = some p → s.mayReach p = true →
      Completes (.brx h f) s (fun t => Moved s t p)) ∧
    (∀ p, s.guardLow h = true → pcOf (s.rf.rs (f.reg.toNat - 256)) = some p → s.mayReach p = false →
      exec (.brx h f) s = .next (s.noReach p))) ∧
  (IssuesB s h false [{ spec := f.reg, wr := true }, { spec := f.reg }] (codesB f && zerosB f false true false true false && isS f.reg) = true →
    (s.guardLow h = false → Completes (.iloop h f) s (Advanced s)) ∧
    (s.guardLow h = true → (s.rf.rs (f.reg.toNat - 256) = 1 ∨ s.leaves f.tofs = false ∧ s.mayReach (s.target f.tofs f.tslot) = true) →
      Completes (.iloop h f) s (fun t => SameBeside s t ∧
        t.m.path = { s.m.path with pc := if s.rf.rs (f.reg.toNat - 256) = 1 then s.m.path.pc.next else s.target f.tofs f.tslot } ∧
        t.m.other = s.m.other ∧
        (∀ n, t.m.r.rs n = if n = f.reg.toNat - 256 then s.rf.rs n - 1 else s.m.r.rs n) ∧
        t.m.r.v = s.m.r.v ∧ t.m.r.p = s.m.r.p ∧ t.m.r.istat = s.m.r.istat ∧ t.m.r.fstat = s.m.r.fstat ∧
        t.m.pool = s.m.pool ∧ t.m.exited = s.m.exited ∧ t.m.outs = s.m.outs)))
/-- R112, R113, R116: `bra` with no lane to send falls through; with every lane, moves the path; with some, makes a join record in the
lowest free entry, the taken lanes going on in the executing slot and the others in the other slot, or, while that is live, in a path
entry; with too few entries free it raises DIVSTACK, and a target beyond the addressable lines raises ILLTARGET.
It says when this form completes: `bra`. -/
def Obligations.DivergentBranchResults : Prop := ∀ (h : Hdr) (f : FB) (s : State),
  IssuesB s h false [] (codesB f && zerosB f true true true false false) = true →
  (s.taken h f = 0 → Completes (.bra h f) s (Advanced s)) ∧
  (s.taken h f ≠ 0 → s.leaves f.tofs = true → exec (.bra h f) s = .next (s.fault ILLTARGET)) ∧
  (s.taken h f ≠ 0 → s.leaves f.tofs = false → s.mayReach (s.target f.tofs f.tslot) = true →
    (s.active &&& ~~~s.taken h f = 0 →
      (s.blockOk (s.target f.jofs f.jslot) = true → Completes (.bra h f) s (fun t => Moved s t (s.target f.tofs f.tslot))) ∧
      (s.blockOk (s.target f.jofs f.jslot) = false → exec (.bra h f) s = .next (s.noReach (s.target f.jofs f.jslot)))) ∧
    (s.active &&& ~~~s.taken h f ≠ 0 → s.leaves f.jofs = true → exec (.bra h f) s = .next (s.fault ILLTARGET)) ∧
    (s.active &&& ~~~s.taken h f ≠ 0 → s.leaves f.jofs = false → s.mayReach (s.target f.jofs f.jslot) = true →
      (freeCount s.m.pool s.depth < 1 + b2n s.m.other.isSome → exec (.bra h f) s = .next (s.fault DIVSTACK)) ∧
      (∀ r, 1 + b2n s.m.other.isSome ≤ freeCount s.m.pool s.depth → freeEntry s.m.pool s.depth = some r →
        Completes (.bra h f) s (fun t => SameBeside s t ∧
          let rest : Path := { pc := s.m.path.pc.next, mask := s.active &&& ~~~s.taken h f, jrec := some r }
          let pool := smIns s.m.pool r (.record false s.m.path.jrec .idle 0 (s.target f.jofs f.jslot))
          t.m.path = { pc := s.target f.tofs f.tslot, mask := s.taken h f, jrec := some r } ∧
          (if s.m.other.isNone then t.m.other = some rest ∧ t.m.pool = pool
           else t.m.other = s.m.other ∧ t.m.pool = pushEntry pool s.depth (.path (nextSeq pool) rest)) ∧
          t.m.r = s.m.r ∧ t.m.exited = s.m.exited ∧ t.m.outs = s.m.outs))))

namespace Sys2Proof.Machine

/-- The paths of a call's groups, lowest lane first, under one return record (R125). -/
def callPaths (gs : List (Pc × Mask)) (r : Nat) : List Path := gs.map (fun g => { pc := g.1, mask := g.2, jrec := some r })
/-- A call to some groups of lanes has room (R125). -/
def State.callFits (s : State) (n : Nat) : Bool := decide (1 + (n - (if s.m.other.isNone then 2 else 1)) ≤ freeCount s.m.pool s.depth)
/-- What a call leaves (R124, R125): a return record in the lowest free entry, which returns to the next slot; the first group in the
executing slot; the second in the other slot when that was free; the remaining ones in path entries; registers and memory as they were. -/
def Called (s : State) (gs : List (Pc × Mask)) (r : Nat) (t : State) : Prop :=
  SameBeside s t ∧ some t.m.path = (callPaths gs r).head? ∧
  t.m.other = (if s.m.other.isNone then (callPaths gs r)[1]? else s.m.other) ∧
  smFind t.m.pool r = some (.record true s.m.path.jrec .idle 0 s.m.path.pc.next) ∧
  (∀ p ∈ (callPaths gs r).drop (if s.m.other.isNone then 2 else 1), ∃ e q, smFind t.m.pool e = some (.path q p)) ∧
  t.m.r = s.m.r ∧ t.m.exited = s.m.exited ∧ t.m.outs = s.m.outs
/-- The lanes of the executing path with the targets that `calli` reads for them (R125); none where a word is no code pointer. -/
def State.callTargets (s : State) (f : FB) : List (Nat × Option Pc) := (lanesOf s.active).map (fun l => (l, pcOf (s.rd64 f.reg 0 false l)))
/-- The executing path parked in a record (R114, R118, R126). -/
def Member.parkedIn (m : Member) (r : Nat) (ret : Bool) (o : Option Nat) (t : Timer) (pm : Mask) (pc : Pc) : Member :=
  { (m.freeSlot) with pool := smIns m.pool r (.record ret o t (pm ||| m.path.mask) pc) }

end Sys2Proof.Machine

/-- R123 to R125: `call` and `calli` to function headers of the slot's role, with room for their records, place the groups of lanes under
one return record; a word that is no code pointer raises ILLTARGET, too few free entries DIVSTACK.
It says when each of these forms completes: `call`, `calli`. -/
def Obligations.CallResults : Prop := ∀ (h : Hdr) (f : FB) (s : State) (r : Nat),
  (IssuesB s h false [] (codesB f && zerosB f false true false false false) = true →
    (s.guardLow h = false → Completes (.call h f) s (Advanced s)) ∧
    (s.guardLow h = true → s.leaves f.tofs = true → exec (.call h f) s = .next (s.fault ILLTARGET)) ∧
    (s.guardLow h = true → s.leaves f.tofs = false → (callFault s h (s.target f.tofs f.tslot)).isNone = true →
      s.blockOk s.m.path.pc.next = false → exec (.call h f) s = .next (s.noReach s.m.path.pc.next)) ∧
    (s.guardLow h = true → s.leaves f.tofs = false → (callFault s h (s.target f.tofs f.tslot)).isNone = true → s.blockOk s.m.path.pc.next = true →
      (s.callFits 1 = false → exec (.call h f) s = .next (s.fault DIVSTACK)) ∧
      (s.callFits 1 = true → freeEntry s.m.pool s.depth = some r →
        Completes (.call h f) s (Called s [(s.target f.tofs f.tslot, s.active)] r)))) ∧
  (let uses : List SpecUse := [{ spec := f.reg, pair := isV f.reg }]
   Issues s h (classOk s .ctl false h.role.toNat) uses (needs (codesB f && zerosB f false false false true false && (isS f.reg || isV f.reg))) = true →
   s.marked uses (lanesOf s.active) = false →
    (s.guardLow h = false → Completes (.calli h f) s (Advanced s)) ∧
    (s.guardLow h = true → (s.callTargets f).any (fun w => w.2.isNone) = true → exec (.calli h f) s = .next (s.fault ILLTARGET)) ∧
    (∀ gs, s.guardLow h = true → (s.callTargets f).any (fun w => w.2.isNone) = false →
      groupLanes ((s.callTargets f).filterMap (fun w => w.2.map (fun p => (w.1, p)))) = gs → gs ≠ [] →
      gs.all (fun g => (callFault s h g.1).isNone) = true → s.blockOk s.m.path.pc.next = true →
      (s.callFits gs.length = false → exec (.calli h f) s = .next (s.fault DIVSTACK)) ∧
      (s.callFits gs.length = true → freeEntry s.m.pool s.depth = some r →
        Completes (.calli h f) s (Called s gs r))))

/-- R114, R118, R119, R126: where paths meet again: `ret` at its return record, `join` at its join record.
R114, R126: `ret` parks its lanes in its return record; while another path belongs to the record they wait there, and the last to come
resumes all of them at the return point. Outside a return record it raises ILLTARGET.
R118, R119: a `join` at its path's own join record parks the lanes, starting the join timer with the first; the last to come goes on
after the `join` with all of them. Away from its record, or with a false guard, it only moves on.
It says when each of these forms completes: `ret`, `ijoin`. -/
def Obligations.ReturnAndJoinResults : Prop :=
  (∀ (h : Hdr) (f : FB) (s : State),
  IssuesB s h false [] (codesB f && zerosB f false false false false false) = true →
  (s.guardLow h = false → Completes (.ret h f) s (Advanced s)) ∧
  (s.guardLow h = true → s.m.path.jrec = none → exec (.ret h f) s = .next (s.fault ILLTARGET)) ∧
  (∀ r o t pm pc, s.guardLow h = true → s.m.path.jrec = some r → smFind s.m.pool r = some (.record true o t pm pc) →
    keysRise none s.m.pool = true → (s.m.parkedIn r true o t pm pc).anyBelongs r = true →
    Completes (.ret h f) s (fun u => SameBeside s u ∧ smFind u.m.pool r = some (.record true o t (pm ||| s.m.path.mask) pc) ∧
      u.m.r = s.m.r ∧ u.m.exited = s.m.exited)) ∧
  (∀ r o t pm pc, s.guardLow h = true → s.m.path.jrec = some r → smFind s.m.pool r = some (.record true o t pm pc) →
    (s.m.parkedIn r true o t pm pc).anyBelongs r = false → pm ||| s.m.path.mask ≠ 0 → s.mayReach pc = true →
    Completes (.ret h f) s (fun u => SameBeside s u ∧ u.m.wdCount = 0 ∧ u.m.r = s.m.r ∧ u.m.exited = s.m.exited ∧
      (u.m.a = some { pc := pc, mask := pm ||| s.m.path.mask, jrec := o } ∨ u.m.b = some { pc := pc, mask := pm ||| s.m.path.mask, jrec := o })))) ∧
  (∀ (h : Hdr) (f : FB) (s : State),
  IssuesB s h false [] (codesB f && zerosB f false (f.timeout != 0) false false true) = true →
  ((s.guardLow h = false ∨ s.m.scalar = true ∨ s.m.path.jrec = none) → Completes (.ijoin h f) s (Advanced s)) ∧
  (∀ r o t pm pc, s.m.path.jrec = some r → smFind s.m.pool r = some (.record false o t pm pc) → pc ≠ s.m.path.pc →
    Completes (.ijoin h f) s (Advanced s)) ∧
  (∀ r o t pm pc, s.m.path.jrec = some r → smFind s.m.pool r = some (.record true o t pm pc) → Completes (.ijoin h f) s (Advanced s)) ∧
  (∀ r o t pm, s.guardLow h = true → s.m.scalar = false → s.m.path.jrec = some r →
    smFind s.m.pool r = some (.record false o t pm s.m.path.pc) →
    (f.timeout = 0 ∨ pm ≠ 0 ∨ t ≠ .idle ∨ s.leaves f.tofs = false ∧ s.mayReach (s.target f.tofs f.tslot) = true) →
    let timer : Timer := if f.timeout = 0 ∨ pm ≠ 0 ∨ t ≠ .idle then t else .run f.timeout.toNat
    ((s.m.parkedIn r false o timer pm s.m.path.pc).anyBelongs r = true → timer ≠ .run 0 → keysRise none s.m.pool = true →
      Completes (.ijoin h f) s (fun u => SameBeside s u ∧
        smFind u.m.pool r = some (.record false o timer (pm ||| s.m.path.mask) s.m.path.pc) ∧ u.m.r = s.m.r ∧ u.m.exited = s.m.exited)) ∧
    ((s.m.parkedIn r false o timer pm s.m.path.pc).anyBelongs r = false → pm ||| s.m.path.mask ≠ 0 →
      s.blockOk s.m.path.pc.next = true →
      Completes (.ijoin h f) s (fun u => SameBeside s u ∧ u.m.r = s.m.r ∧ u.m.exited = s.m.exited ∧
        (u.m.a = some { pc := s.m.path.pc.next, mask := pm ||| s.m.path.mask, jrec := o } ∨
         u.m.b = some { pc := s.m.path.pc.next, mask := pm ||| s.m.path.mask, jrec := o })))))
/-- R120, R122: `fuse` parks its path, and once every lane that the member has left stands at it, one path goes on with all of them;
`exit` takes the guarded lanes out for good, and when no lane of the workgroup is left, the workgroup has ended.
It says when each of these forms completes: `iexit`, `fuse`. -/
def Obligations.FuseExitResults : Prop := ∀ (h : Hdr) (f : FB) (s : State),
  (IssuesB s h false [] (codesB f && zerosB f false false false false false) = true →
    (s.guardLow h = false → Completes (.fuse h f) s (Advanced s)) ∧
    (s.guardLow h = true → (∀ q ∈ s.m.parked, q.kind = .fuse ∧ q.path.pc = s.m.path.pc) →
      (s.m.parked.foldl (fun x q => x ||| q.path.mask) 0) ||| s.m.path.mask = s.m.allLanes &&& ~~~s.m.exited →
      Completes (.fuse h f) s (fun t => SameBeside s t ∧ t.m.a.map (fun p => (p.pc, p.mask)) = some (s.m.path.pc.next, s.m.allLanes &&& ~~~s.m.exited) ∧
        t.m.b = none ∧ t.m.parked = [] ∧ t.m.wdCount = 0 ∧ t.m.r = s.m.r ∧ t.m.exited = s.m.exited)) ∧
    (s.guardLow h = true → (s.m.parked.foldl (fun x q => x ||| q.path.mask) 0) ||| s.m.path.mask ≠ s.m.allLanes &&& ~~~s.m.exited →
      (∀ q ∈ s.m.parked, q.kind = .fuse ∧ q.path.pc = s.m.path.pc) →
      Completes (.fuse h f) s (fun t => SameBeside s t ∧ t.m.parked = s.m.parked ++ [⟨.fuse, s.m.path⟩] ∧ t.m.r = s.m.r ∧ t.m.exited = s.m.exited))) ∧
  (IssuesB s h true [] (codesB f && zerosB f false false false false false) = true →
    (maskOf (s.guarded h) = 0 → Completes (.iexit h f) s (Advanced s)) ∧
    (maskOf (s.guarded h) ≠ 0 → Completes (.iexit h f) s (fun t => t.m.exited = s.m.exited ||| maskOf (s.guarded h) ∧ t.m.r = s.m.r)) ∧
    (maskOf (s.guarded h) = s.active → s.active ≠ 0 → s.m.exited ||| s.active = s.m.allLanes → s.m.parked = [] →
      s.wg.members.all Member.gone = true → s.wg.stop = .running →
      Completes (.iexit h f) s (fun t => t.wg.stop = .ended)))
/-- R108, R130, R131, R143: opcode 0x00, an unassigned opcode and `trap` take their fault, with the lanes the guard holds in; a `trap` that
no lane executes only moves on. `brk` moves on, and where debugging is enabled it also stops the workgroup with its record posted.
It says when each of these forms completes: `trapIll`, `trap`, `brk`, `unassignedOpcode`. -/
def Obligations.TrapResults : Prop := ∀ (h : Hdr) (f : FB) (s : State),
  exec (.trapIll h f) s = .next (s.fault ILLOP) ∧
  (∀ opc rest, exec (.unassignedOpcode opc rest) s = .next (s.fault ILLOP)) ∧
  (IssuesB s h false [] (codesB f && zerosB f false false false false true) = true →
    (maskOf (s.guarded h) = 0 → Completes (.trap h f) s (Advanced s) ∧ Completes (.brk h f) s (Advanced s)) ∧
    (maskOf (s.guarded h) ≠ 0 →
      exec (.trap h f) s = .next (s.raise { code := PROGTRAP, detail := f.timeout.toNat, lanes := maskOf (s.guarded h) }) ∧
      (s.ctx.dbg = false → Completes (.brk h f) s (Advanced s)) ∧
      (s.ctx.dbg = true → s.holdFull (dieOf s.wg.core) = false → Completes (.brk h f) s (fun t => t.wg.stop = .brk ∧ t.m = s.m.movedTo s.m.path.pc.next s.m.r ∧
        smGet 0 t.plat.dieSeq (dieOf s.wg.core) = smGet 0 s.plat.dieSeq (dieOf s.wg.core) + 1))))

/-! ### Encoding, the step, faults and the state's canonical form -/

namespace Sys2Proof.Machine

/-- The canonical form of the state's data: every memory in its form (log 2), every parenthesis-stack area with each
entry once, every member of a workgroup with a number of its own. -/
structure Canonical (s : State) : Prop where
  pm : s.mem.pm.wf = true
  gm : s.mem.gm.wf = true
  qv : ∀ q ∈ s.mem.qv, Memory.wf q.2 = true
  sp : ∀ c ∈ s.mem.sp, Memory.wf c.2 = true
  pool : keysRise none s.m.pool = true
  members : ∀ w ∈ s.wg :: s.wgs ++ s.eng.saves, ∀ m ∈ w.members, keysRise none m.pool = true
  ids : (s.team.map (·.id)).Nodup
  otherIds : ∀ w ∈ s.wgs ++ s.eng.saves, (w.members.map (·.id)).Nodup

end Sys2Proof.Machine

/-- R86, R95, R97, R101, R104, R108: slots written out bit by bit from the encoding tables decode to the instructions they stand for: `exit`;
`ffma.f32 v4, v5, v6, v7` and `iadd.i32 v8, v9, 1` (chapter 5); `bra` two lines on, its join at slot 1 of that line (chapter 6); a `hand`
of role 2 that receives from ring 0 into s6 (chapter 12); the empty slot and the all-zero slot. -/
def Obligations.DecodeWords : Prop :=
  let h0 : Hdr := { neg := 0, guard := 7, role := 0 }
  let b0 : FB := { timeout := 0, reg := 0, cneg := 0, cond := 0, jofs := 0, jslot := 0, tofs := 0, tslot := 0 }
  decode 0x000000000000000000003807#96 = .iexit h0 b0 ∧
  decode 0x00000000001038180A043853#96 =
    .ffma h0 { imm := 0, rnd := 0, sat := 0, sub := 0, ty := 1, sc := 7, sb := 6, sa := 5, dst := 4 } ∧
  decode 0x0000000100C007FC12083820#96 =
    .iadd h0 { imm := 1, rnd := 0, sat := 0, sub := 0, ty := 12, sc := 0, sb := 511, sa := 9, dst := 8 } ∧
  decode 0x000000000000220000103801#96 = .bra h0 { b0 with tofs := 2, jslot := 1, jofs := 2 } ∧
  decode 0x000000000120020C00803AB8#96 = .hand { h0 with role := 2 }
    { himm := 0, zero := 0, sub := 9, drift := 0, qreg := 0, rdst := 262, sdata := 0, ren := 1, sen := 0, rring := 0, sring := 0 } ∧
  decode (BitVec.allOnes 96) = .emptySlot ∧ decode 0 = .trapIll { neg := 0, guard := 0, role := 0 } b0

/-- R95 to R110: decoding and encoding agree in both directions: every instruction's slot decodes to it, and every slot is the slot of what it decodes to.
R95 to R110: an instruction's slot, made from the encoding tables with any value in any field, decodes to that instruction.
R106 to R110: every slot is the slot of the instruction it decodes to, which is well-formed: no bit of a slot is dropped. -/
def Obligations.EncodingsAgree : Prop :=
  (∀ i w, wellFormed i = true → encode i = some w → decode w = i) ∧
  (∀ w, wellFormed (decode w) = true ∧ encode (decode w) = some w)

/-- R89 to R96, R233, R311, R328, R329: a step that picks one slot of a member fetches the line at the path's program counter, once its page
is touched, checks the line, and executes the instruction that the slot's bits decode to (for a team member, after the move along the team's
stream); a slot of another role is passed. Around that the pick only notes itself: registers, path, memory and everything outside the cores
and the members stand as the instruction leaves them. -/
def Obligations.StepIssuesDecoded : Prop := ∀ (s : State) (r : MRef) (slotB : Bool) (rest : List Choice) (bs : List Byte),
  s.sched = .issue r slotB :: rest →
  let sf := ({ s with sched := rest } : State).slotOf r slotB
  let p := sf.picking
  let v := p.teamStep.1.touchFetch (p.teamStep.1.m.path.pc.line.toNat * 64)
  (({ s with sched := rest } : State).findMem r).isSome = true → sf.portBusy r = false → sf.m.slicesApart = false →
  p.mayIssue slotB = true → p.m.mxreset = false → p.teamStep.2 = true → v.2 = false →
  v.1.fetch v.1.m.path.pc.line = .ok bs → lineParityOk bs = true → lineOk v.1.wg.declared bs = true →
  let u := v.1.keepLine bs
  let k := u.m.path.pc.slot.toNat
  u.skipsLine bs = false → pairFirst bs k = false →
  (u.skipsSlot bs k = false → ∀ t, exec (decode (slotBits bs k)) u = .next t → step s = .next (sf.afterPick p t r [slotB])) ∧
  (u.skipsSlot bs k = true → step s = .next (sf.afterPick p u.advance r [slotB])) ∧
  (p.wg.team = none → p.teamStep = (p, true)) ∧
  (∀ t, let w := sf.afterPick p t r [slotB]
    w.m.r = t.m.r ∧ w.m.a = t.m.a ∧ w.m.b = t.m.b ∧ w.m.pool = t.m.pool ∧ w.m.outs = t.m.outs ∧ w.mem = t.mem ∧ w.eng = t.eng ∧
    w.ctxs = t.ctxs ∧ w.host = t.host ∧ w.plat = t.plat ∧ w.fab = t.fab)

/-- R340, R341, R343, R344: taking a fault: what it leaves of the workgroup, and the record it posts.
R340, R342 to R344: taking a fault keeps the member as it stands, its program counter at the faulting slot; a replayable one leaves the
workgroup stopped for the host, with one record more from its die; any other ends the workgroup by its policy. In a workgroup that has
stopped in an earlier cycle nothing is recorded; in one that stopped in this cycle the record is given and the stop stands. A die that
holds all the records it can delays the fault.
R340, R341: a fault's record, where its context's event queue has room and stands in memory of this package: its eight words, and the
queue's tail one further. -/
def Obligations.FaultsTaken : Prop :=
  (∀ (s : State) (f : Flt),
  (s.wg.stop ≠ .running → s.wg.stopping = false → s.raise f = s) ∧
  (s.holdFull (dieOf s.wg.core) = true → s.raise f = s) ∧
  (s.raise f).m = s.m ∧
  (s.holdFull (dieOf s.wg.core) = false → s.wg.stop = .running → f.replayable = true →
    (s.raise f).wg = { s.wg with stop := .fault true, stopping := true } ∧
    smGet 0 (s.raise f).plat.dieSeq (dieOf s.wg.core) = smGet 0 s.plat.dieSeq (dieOf s.wg.core) + 1) ∧
  (s.holdFull (dieOf s.wg.core) = false → s.wg.stop ≠ .running → s.wg.stopping = true → f.replayable = true →
    (s.raise f).wg = s.wg ∧
    smGet 0 (s.raise f).plat.dieSeq (dieOf s.wg.core) = smGet 0 s.plat.dieSeq (dieOf s.wg.core) + 1) ∧
  (s.holdFull (dieOf s.wg.core) = false → s.wg.stop = .running → f.replayable = false → (s.raise f).wg.stop = .ended)) ∧
  (∀ (s : State) (pc : Pc) (f : Flt) (policy : Bool) (x : Ctx),
  smFind s.ctxs s.wg.ctx = some x → s.host.held = [] → x.eq.baseSet = true → x.eq.size ≠ 0 → (x.eq.tail - x.eq.head).toNat < x.eq.size.toNat →
  let a := x.eq.base.toNat + 64 * (x.eq.tail.toNat % x.eq.size.toNat)
  (∀ i < 64, s.homed (a + i) = true ∧ s.remoteHeld (a + i) = false) →
  let t := s.postFault pc f policy
  let die := dieOf s.wg.core
  memNat t.mem.pm a 8 = (smGet 0 s.plat.dieSeq die).toNat ∧
  memNat t.mem.pm (a + 8) 8 = (2 ^ 56 + s.plat.pkg * 2 ^ 48 + die * 2 ^ 45 + s.wg.ctx / 65536 * 2 ^ 32 + s.wg.ctx % 65536) % 2 ^ 64 ∧
  memNat t.mem.pm (a + 16) 8 = (f.detail * 2 ^ 48 + f.code * 2 ^ 40 + b2n policy * 2 ^ 37 + f.flags * 2 ^ 32 + f.lanes.toNat) % 2 ^ 64 ∧
  memNat t.mem.pm (a + 24) 8 = pc.word.toNat ∧ memNat t.mem.pm (a + 32) 8 = f.addr.toNat ∧
  memNat t.mem.pm (a + 40) 8 = (s.wg.wgid * 2 ^ 32 + s.m.id * 2 ^ 16 + s.m.role * 2 ^ 8 + b2n s.m.curB) % 2 ^ 64 ∧
  memNat t.mem.pm (a + 48) 8 = s.wg.nodeId % 2 ^ 64 ∧ memNat t.mem.pm (a + 56) 8 = 0 ∧
  (smFind t.ctxs s.wg.ctx).map (fun y => y.eq.tail) = some (x.eq.tail + 1) ∧
  (∀ b, ¬ (a ≤ b ∧ b < a + 64) → memGet t.mem.pm b = memGet s.mem.pm b))
/-- R286, R287, R113 and log 2: a step always answers a next state, and it keeps each memory, each parenthesis-stack area and the numbers of
the members in canonical form. -/
def Obligations.StepKeepsCanonical : Prop := ∀ s, ∃ t, step s = .next t ∧ (Canonical s → Canonical t)
/-- R396, R34, R35: the package right after reset: no context, no workgroup running, no memory written, every count at zero, the START
to come; its state is canonical. -/
def Obligations.ResetState : Prop :=
  Canonical State.reset ∧ State.reset.ctxs = [] ∧ State.reset.wgs = [] ∧ State.reset.wg.stop = .ended ∧ State.reset.plat.startStep = 0 ∧
  (∀ a, memGet State.reset.mem.pm a = 0) ∧ (∀ d, smGet 0 State.reset.plat.dieSeq d = 0) ∧ (∀ c, (smGet {} State.reset.cores c).cyc = 0) ∧
  (∀ e, State.reset.remapAt e = e % 48)

/-! ### Memory, atomics and synchronisation (R166 to R192) -/

namespace Sys2Proof.Machine

/-- A memory slot issues: its checks pass, its counter has room, its sources are not marked as poison (R96, R166, R171). -/
def IssuesM (s : State) (h : Hdr) (light : Bool) (uses : List SpecUse) (ok : Bool) (cls : Option Nat) (ls : List Nat) : Bool :=
  Issues s h (classOk s .mem light h.role.toNat) uses (needs ok) && (ls == [] || !((cls.map s.full).getD false)) && !(s.marked uses ls)
/-- The pages of some addresses are in place: none is moving (R311). -/
def State.pagesReady (s : State) (vas : List Nat) : Bool := !(s.touchAll (pagesOf vas)).2
/-- The state once some addresses have been touched and their translations kept (R310, R311). -/
def State.reached (s : State) (vas : List Nat) : State := (s.touchAll (pagesOf vas)).1.fillTlbs (pagesOf vas)
/-- What the checks of every lane give (R170). -/
def State.checked (s : State) (sp size need : Nat) (aligned : Bool) (las : List (Nat × Nat)) : List (Except LaneFault (Nat × List Part)) :=
  las.map (s.laneParts sp size need aligned none)
/-- Every lane of an access passes its checks, and its pages are in place. -/
def State.accessOk (s : State) (sp size need : Nat) (aligned : Bool) (las : List (Nat × Nat)) : Bool :=
  failures (s.checked sp size need aligned las) == [] && s.pagesReady (partVas (passes (s.checked sp size need aligned las)))
/-- The parts of every lane of an access. -/
def State.acc (s : State) (sp size need : Nat) (aligned : Bool) (las : List (Nat × Nat)) : List (Nat × List Part) :=
  passes (s.checked sp size need aligned las)
/-- The state in which an access that passes its checks has its effect. -/
def State.accState (s : State) (sp size need : Nat) (aligned : Bool) (las : List (Nat × Nat)) : State :=
  s.reached (partVas (s.acc sp size need aligned las))
/-- What touching pages and keeping translations leaves: the member and the workgroup in focus; and, where no page moves when touched,
all of memory (R310, R311). -/
structure Reached (s : State) (vas : List Nat) : Prop where
  m : (s.reached vas).m = s.m
  wg : (s.reached vas).wg = s.wg
  mem : (s.touchAll (pagesOf vas)).1 = s → (s.reached vas).mem = { s.mem with tlb := (s.reached vas).mem.tlb }
/-- From a state, the member in focus has one operation more outstanding, numbered by the next number, and its path has moved to its
next slot: registers, memory and all else are as they were. -/
structure Issued (u t : State) (o : OutOp) : Prop where
  m : t.m = { u.m.movedTo u.m.path.pc.next u.m.r with outs := u.m.outs ++ [o] }
  uid : t.uid = u.uid + 1
  wg : t.wg = u.wg
  mem : t.mem = u.mem
  eng : t.eng = u.eng
  wgs : t.wgs = u.wgs
  ctxs : t.ctxs = u.ctxs
  cores : t.cores = u.cores
  host : t.host = u.host
  plat : t.plat = u.plat
  fab : t.fab = u.fab
  pre : t.pre = u.pre
  sched : t.sched = u.sched
/-- The virtual addresses that a `pref` touches (R174, R311): those of lanes whose registers bear no mark, where they are good. -/
def State.prefVas (s : State) (f : FM) (ls : List Nat) : List Nat :=
  (s.laneAddrs f true (ls.filter (fun l => !(s.marked (addrUses f) [l])))).flatMap (fun la => match s.parts f.space.toNat la.2 1 1 with
    | .ok ps => ps.filterMap (·.2.2)
    | .error _ => [])
/-- The operation that a load leaves outstanding (R169, R182): the pieces to read, the destination, the lanes that are filled. -/
def State.loadOp (s : State) (f : FM) (ps : List Piece) (d : Dest) (fill : List (Nat × W64)) : OutOp :=
  { id := s.uid, cls := f.cls.toNat, kind := .load ps d fill, scope := s.scope f.scope.toNat, acq := f.order == 1 }
/-- The fields that `ld` and `lds` accept beside their registers (R166, R172). -/
def loadFields (s : State) (f : FM) : Bool :=
  zerosM f true true true true true true true true true true true && extOk f && decide (f.size.toNat ≤ 3) && spaceOk f &&
  ordOk s f [0, 1] && cacheOk f && clsLdSt f
/-- The fields that `st` and `sts` accept beside their registers (R166, R172). -/
def storeFields (s : State) (f : FM) : Bool :=
  zerosM f false true true true true true true true true true true && decide (f.size.toNat ≤ 3) && spaceOk f &&
  ordOk s f [0, 2] && cacheOk f && clsLdSt f
/-- The registers of a vector access and of a scalar one (R172). -/
def accessRegs (f : FM) (once : Bool) : Bool :=
  if once then isS f.data && isS f.base && f.index.toNat == 511 else isV f.data && baseOk f && vOrNone f.index
/-- The register uses of a load or store. -/
def ldUses (f : FM) (wr : Bool) : List SpecUse := { spec := f.data, pair := f.wide, wr } :: addrUses f
/-- From a state, the writes of a store are on their way (R169, R286, R292): each new write belongs to the operation, waits in the outbox or
is held there, and the bytes of every lane's parts are those of its data, in place; no copy of memory has changed yet. -/
structure Stored (u t : State) (o : OutOp) (acc : List (Nat × List Part)) (val : Nat → Nat) : Prop where
  m : t.m = { u.m.movedTo u.m.path.pc.next u.m.r with outs := u.m.outs ++ [o] }
  wg : t.wg = u.wg
  copies : t.mem.pm = u.mem.pm ∧ t.mem.gm = u.mem.gm ∧ t.mem.qv = u.mem.qv ∧ t.mem.sp = u.mem.sp
  rest : t.eng = u.eng ∧ t.wgs = u.wgs ∧ t.ctxs = u.ctxs ∧ t.cores = u.cores ∧ t.host = u.host ∧ t.plat = u.plat ∧ t.fab = u.fab
  new : ∃ ws, t.mem.writes = u.mem.writes ++ ws ∧
    (∀ w ∈ ws, w.owner = u.ref ∧ w.op = o.id ∧ w.scope = o.scope ∧ w.rel = o.rel ∧ w.quad = quadOf u.wg.core ∧
      (w.stage = .ob ∨ w.stage = .held) ∧ (o.rel = true → w.stage = .held)) ∧
    (∀ l ps, (l, ps) ∈ acc → ∀ p ∈ ps, ∀ j, j < p.2.1.bits / 8 → ∃ w ∈ ws, w.covers p.2.1.place (p.2.1.bit / 8 + j) = true ∧
      w.bytes[p.2.1.bit / 8 + j - w.addr]? = some (BitVec.ofNat 8 (val l / 2 ^ (8 * p.1) / 2 ^ (8 * j))))
/-- The operation that a store leaves outstanding. -/
def State.storeOp (s : State) (f : FM) : OutOp :=
  { id := s.uid, cls := f.cls.toNat, kind := .store, scope := s.scope f.scope.toNat, rel := f.order == 2 }

end Sys2Proof.Machine

/-- R46, R166 to R175, R182: the loads: `ld`, `lds`, `ldk`, `ldx` and `pref`.
R167 to R170, R172, R182: `ld` in every lane whose guard holds, and `lds` once, with their checks passed leave a load outstanding
that reads the bytes at each lane's address; without such a lane they only move on; a failing check raises its fault with no effect.
R46, R167, R173 to R175: `ldk` reads the launch's constant segment, whose bytes wait with the operation; `ldx` reads the elements its
lanes' index vectors name, a hole giving the fill value, and raises POISON for a register word that is marked; `pref` raises no fault and
counts nothing: it moves on, and only touches the pages of the addresses that are good.
It says when each of these forms completes: `ld`, `ldx`, `lds`, `ldk`, `pref`. -/
def Obligations.LoadIssue : Prop :=
  (∀ (h : Hdr) (f : FM) (s : State) (once : Bool),
  let ls := s.memLanes h once
  let i : Instr := if once then .lds h f else .ld h f
  let las := s.laneAddrs f true ls
  IssuesM s h false (ldUses f true) (accessRegs f once && loadFields s f) (some f.cls.toNat) ls = true →
  (ls = [] → Completes i s (Advanced s)) ∧
  (ls ≠ [] → failures (s.checked f.space.toNat f.bytes 1 false las) ≠ [] →
    exec i s = .next (s.raise (laneFault (failures (s.checked f.space.toNat f.bytes 1 false las))))) ∧
  (ls ≠ [] → s.accessOk f.space.toNat f.bytes 1 false las = true →
    let u := s.accState f.space.toNat f.bytes 1 false las
    Reached s (partVas (s.acc f.space.toNat f.bytes 1 false las)) ∧
    Completes i s (fun t => Issued u t (u.loadOp f (piecesOf none (s.acc f.space.toNat f.bytes 1 false las))
      { spec := f.data, size := f.bytes, signed := f.sub == 1, mask := maskOf ls } [])))) ∧
  (∀ (h : Hdr) (f : FM) (s : State),
  (let ls := s.memLanes h (isS f.data)
   let rd (l : Nat) : Nat := wrapN 64 ((if isS f.base then (s.rf.rs (f.base.toNat - 256)).toNat
     else if isV f.base then (s.rf.rv f.base.toNat l).toNat else 0) + f.ofs.toInt)
   IssuesM s h false [{ spec := f.data, pair := f.wide, wr := true }, { spec := f.base, ok511 := true }]
     (zerosM f true true true false true true false false false true true && extOk f && decide (f.size.toNat ≤ 3) && cacheOk f && clsLdSt f &&
      (isV f.data || (isS f.data && !(isV f.base && !s.m.scalar))) && (isS f.base || isV f.base || f.base.toNat == 511)) (some f.cls.toNat) ls = true →
   (ls = [] → Completes (.ldk h f) s (Advanced s)) ∧
   (ls ≠ [] → (∀ l ∈ ls, rd l + f.bytes ≤ s.wg.launch.args.length) →
     Completes (.ldk h f) s (fun t => Issued s t (s.loadOp f [] { spec := f.data, size := f.bytes, signed := f.sub == 1, mask := maskOf ls }
       (ls.map (fun l => (l, BitVec.ofNat 64 (leNat ((s.wg.launch.args.drop (rd l)).take f.bytes)))))))) ∧
   (ls ≠ [] → (∃ l ∈ ls, s.wg.launch.args.length < rd l + f.bytes) → ∃ d, exec (.ldk h f) s = .next (s.raise d) ∧ d.code = PERM)) ∧
  (let vas := s.prefVas f (s.memLanes h (!(isV f.base || isV f.index)))
   Issues s h (classOk s .mem false h.role.toNat) (addrUses f) (needs (zerosM f false false true true true false true false false true false &&
     baseOk f && vOrNone f.index && spaceOk f && cacheOk f)) = true →
   Completes (.pref h f) s (fun t => t = (s.touchAll (pagesOf vas)).1.advance ∧ t.m = s.m.movedTo s.m.path.pc.next s.m.r ∧ t.wg = s.wg ∧
     ((s.touchAll (pagesOf vas)).1 = s → Advanced s t))) ∧
  (let ls := s.memLanes h (isS f.data)
   IssuesM s h false (elemUses f true) (elemOk s f [0, 1]) (some f.cls.toNat) ls = true →
   (ls = [] → Completes (.ldx h f) s (Advanced s)) ∧
   (∀ x hv, ls ≠ [] → s.tensorOf f.base 16 = .ok (x, hv) →
     let pair : SpecUse := { spec := f.index, pair := decide (32 < lyN x.2) }
     let rs := ls.map (fun l => s.laneElem x (f.sub == 1) 1 l (s.idxOf f.index x.2 l))
     specFault s pair = none → s.hazard [pair] = false → s.marked [pair] ls = false → failures rs = [] →
     ((passes rs).flatMap (fun r => (r.2.getD []).filterMap (fun p =>
       if p.2.1.place = .reg s.wg.wu s.m.id then some (p.2.1.bit / 1024) else none))).any (fun r => s.busyWrites.contains r) = false →
     let bad := (passes rs).filter (fun r => (r.2.getD []).any (fun p => (match p.2.1.place with | .reg _ _ => true | _ => false) && s.locPoison p.2.1))
     (bad ≠ [] → exec (.ldx h f) s = .next (s.raise { code := POISON, lanes := maskOf (bad.map (·.1)) })) ∧
     (let vas := hv ++ (passes rs).flatMap (fun r => (r.2.getD []).filterMap (·.2.2))
      bad = [] → s.pagesReady vas = true →
      Reached s vas ∧ Completes (.ldx h f) s (fun t => Issued (s.reached vas) t ((s.reached vas).loadOp f
        (piecesOf (some x.1) ((passes rs).filterMap (fun r => r.2.map (fun ps => (r.1, ps))))) { spec := f.data, size := 4, mask := maskOf ls }
        ((passes rs).filterMap (fun r => if r.2.isNone then some (r.1, BitVec.ofNat 64 (fillOf x.2)) else none))))))))

/-- R39, R46, R52, R166 to R175, R286, R292: the stores: `st`, `sts` and `stx`.
R169, R170, R172, R286, R292: `st` in every lane whose guard holds, and `sts` once, with their checks passed leave writes of their data
on their way to each lane's address; a release's are held back; no memory has changed yet, and no register.
R46, R52, R175, R39: `stx` leaves a store outstanding for the elements that its lanes' index vectors name, holes left out: registers of
the workgroup take theirs at once, memory by writes on their way.
It says when each of these forms completes: `st`, `stx`, `sts`. -/
def Obligations.StoreIssue : Prop :=
  (∀ (h : Hdr) (f : FM) (s : State) (once : Bool),
  let ls := s.memLanes h once
  let i : Instr := if once then .sts h f else .st h f
  let las := s.laneAddrs f true ls
  IssuesM s h false (ldUses f false) (accessRegs f once && storeFields s f) (some f.cls.toNat) ls = true →
  (ls = [] → Completes i s (Advanced s)) ∧
  (ls ≠ [] → failures (s.checked f.space.toNat f.bytes 2 false las) ≠ [] →
    exec i s = .next (s.raise (laneFault (failures (s.checked f.space.toNat f.bytes 2 false las))))) ∧
  (ls ≠ [] → s.accessOk f.space.toNat f.bytes 2 false las = true →
    let u := s.accState f.space.toNat f.bytes 2 false las
    Reached s (partVas (s.acc f.space.toNat f.bytes 2 false las)) ∧
    Completes i s (fun t => Stored u t (u.storeOp f) (s.acc f.space.toNat f.bytes 2 false las) (u.dataOf f.data f.wide)))) ∧
  (∀ (h : Hdr) (f : FM) (s : State) (x : Tensor) (hv : List Nat),
  let ls := s.memLanes h (isS f.data)
  IssuesM s h false (elemUses f false) (elemOk s f [0, 2]) (some f.cls.toNat) ls = true →
  (ls = [] → Completes (.stx h f) s (Advanced s)) ∧
  (ls ≠ [] → s.tensorOf f.base 17 = .ok (x, hv) →
    let pair : SpecUse := { spec := f.index, pair := decide (32 < lyN x.2) }
    let rs := ls.map (fun l => s.laneElem x (f.sub == 1) 2 l (s.idxOf f.index x.2 l))
    let acc := (passes rs).filterMap (fun r => r.2.map (fun ps => (r.1, ps)))
    let vas := hv ++ (passes rs).flatMap (fun r => (r.2.getD []).filterMap (·.2.2))
    specFault s pair = none → s.hazard [pair] = false → s.marked [pair] ls = false → failures rs = [] →
    acc.all (fun r => r.2.all (fun p => decide (p.2.1.place = .glob) || (match p.2.1.place with | .sp _ => true | _ => false))) = true →
    acc.all (fun r => r.2.all (fun p => p.2.1.bits % 8 == 0)) = true →
    s.pagesReady vas = true → (s.reached vas).rlyOn x.1 = none →
    Reached s vas ∧ Completes (.stx h f) s (fun t => Stored (s.reached vas) t ((s.reached vas).storeOp f) acc ((s.reached vas).dataOf f.data false))) ∧
  (∀ l p mem, ls ≠ [] → s.tensorOf f.base 17 = .ok (x, hv) →
    let pair : SpecUse := { spec := f.index, pair := decide (32 < lyN x.2) }
    let rs := ls.map (fun l => s.laneElem x (f.sub == 1) 2 l (s.idxOf f.index x.2 l))
    let vas := hv ++ (passes rs).flatMap (fun r => (r.2.getD []).filterMap (·.2.2))
    specFault s pair = none → s.hazard [pair] = false → s.marked [pair] ls = false → failures rs = [] →
    passes rs = [(l, some [p])] → p.2.1.place = .reg s.wg.wu mem → p.2.1.bit % 32 + p.2.1.bits ≤ 32 → p.1 = 0 →
    s.busyWrites.contains (p.2.1.bit / 1024) = false → s.busyReads.contains (p.2.1.bit / 1024) = false → (s.findMem ⟨s.wg.wu, mem⟩).isSome = true →
    s.pagesReady vas = true → (s.reached vas).rlyOn x.1 = none →
    Completes (.stx h f) s (fun t => t.mem = { (s.reached vas).mem with rels := t.mem.rels } ∧
      bitsN (t.regWord ⟨s.wg.wu, mem⟩ (p.2.1.bit / 32)).toNat (p.2.1.bit % 32) p.2.1.bits = s.dataOf f.data false l % 2 ^ p.2.1.bits ∧
      (∀ k, k ≠ p.2.1.bit / 32 → t.regWord ⟨s.wg.wu, mem⟩ k = s.regWord ⟨s.wg.wu, mem⟩ k))))

namespace Sys2Proof.Machine

/-- An operation of the member in focus, by number. -/
def State.outOf (s : State) (id : Nat) : Option OutOp := s.m.outs.find? (fun o => o.id = id)
/-- An operation of a class is the oldest one of the member in focus. -/
def State.oldest (s : State) (cls : Nat) (o : OutOp) : Prop := s.m.outs.find? (fun x => x.cls = cls) = some o
/-- The operations of the member in focus once its oldest of a class is gone, and its report kept (R182, R184). -/
structure Retired (u t : State) (o : OutOp) : Prop where
  outs : t.m.outs = dropFirst (fun x => x.id = o.id) u.m.outs
  reports : t.m.reports = u.m.reports ++ o.report.toList
  path : t.m.path = u.m.path ∧ t.m.other = u.m.other
  wg : t.wg = u.wg

end Sys2Proof.Machine

/-- R182, R289, R291, R293, R304: a piece of a load that may be read takes the bits that stand at its location: for a byte that no write of its
member has on the way, the byte of the scratchpad or of the quad's view, or in the host window, which no cache holds, of PM. A piece already read, or held by an older acquire or an
older read of the same byte, is left as it is.
It says when this form completes: `readPerform`. -/
def Obligations.ReadPerform : Prop := ∀ (s : State) (r : MRef) (op k : Nat) (o : OutOp) (ps : List Piece) (d : Dest) (fill : List (Nat × W64)) (p : Piece),
  (s.findMem r).isSome = true →
  let u := s.focusOn r
  u.outOf op = some o → o.kind = .load ps d fill → ps[k]? = some p →
  ((p.val.isSome = true ∨ u.mayRead op p.loc = false) → exec (.readPerform r op k) s = .next u) ∧
  (p.val = none → u.mayRead op p.loc = true → o.acq = false →
    Completes (.readPerform r op k) s (fun t => SameBeside u t ∧ t.m.r = u.m.r ∧
      (t.outOf op).map (·.kind) = some (.load (setAt ps k { p with val := some (u.readLoc u.ref op (quadOf u.wg.core) none p.loc), psn := u.locPoison p.loc, rlx := false }) d fill))) ∧
  (∀ a n, p.loc = ⟨.glob, 8 * a, 8 * n⟩ → (∀ w ∈ u.mem.writes, w.owner ≠ u.ref) →
    ((∀ i < n, inHostWindow (offOf (a + i)) = false) →
      u.readLoc u.ref op (quadOf u.wg.core) none p.loc = leNat (memGets (smGet [] u.mem.qv (quadOf u.wg.core)) a n)) ∧
    ((∀ i < n, inHostWindow (offOf (a + i)) = true) →
      u.readLoc u.ref op (quadOf u.wg.core) none p.loc = leNat (memGets u.mem.pm a n))) ∧
  (∀ c a n, p.loc = ⟨.sp c, 8 * a, 8 * n⟩ → (∀ w ∈ u.mem.writes, w.owner ≠ u.ref) →
    u.readLoc u.ref op (quadOf u.wg.core) none p.loc = leNat (memGets (smGet [] u.mem.sp c) a n))

/-- R171, R182, R184, R289: how outstanding loads return and outstanding stores retire.
R169, R182, R184: LOAD_RETURN retires the oldest operation of the ld class once every piece is read: a lane's value, extended as SIZE
and SUB say, stands in its destination, and every other register is as it was; until then nothing changes.
R182, R290: STORE_RETIRE retires the oldest operation of the st class once its writes have reached their scope and PM, and changes no
register and no memory.
It says when each of these forms completes: `loadReturn`, `storeRetire`. -/
def Obligations.OperationsRetire : Prop :=
  (∀ (s : State) (r : MRef) (o : OutOp) (ps : List Piece) (d : Dest) (fill : List (Nat × W64)),
  (s.findMem r).isSome = true →
  let u := s.focusOn r
  u.oldest 0 o → o.kind = .load ps d fill →
  (o.readsDone = false → exec (.loadReturn r) s = .next u) ∧
  (o.readsDone = true → fill = [] → (d.size = 1 ∨ d.size = 2 ∨ d.size = 4 ∨ d.size = 8) →
    Completes (.loadReturn r) s (fun t => Retired u t o ∧ t.mem = u.mem ∧
      (∀ n l, l < 32 → t.m.r.rv n l =
        if d.spec.toNat < 256 ∧ d.mask.getLsbD l = true ∧ ps.any (fun p => p.lane == l) = true ∧ n = d.spec.toNat then
          (let x := pieceVal (ps.filter (fun p => p.lane = l))
           BitVec.ofNat 32 (if d.size < 4 then extendTo 32 d.size x d.signed else x))
        else if d.spec.toNat < 256 ∧ d.size = 8 ∧ d.mask.getLsbD l = true ∧ ps.any (fun p => p.lane == l) = true ∧ n = d.spec.toNat + 1 then
          BitVec.ofNat 32 (pieceVal (ps.filter (fun p => p.lane = l)) / 2 ^ 32)
        else u.m.r.rv n l) ∧
      (∀ n, ¬ (256 ≤ d.spec.toNat ∧ d.spec.toNat < 320 ∧ n = d.spec.toNat - 256) → t.m.r.rs n = u.m.r.rs n) ∧
      (∀ l, lanesOf d.mask = [l] → 256 ≤ d.spec.toNat → d.spec.toNat < 320 → ps.any (fun p => p.lane == l) = true →
        t.m.r.rs (d.spec.toNat - 256) = BitVec.ofNat 64 (extendTo 64 d.size (pieceVal (ps.filter (fun p => p.lane = l))) d.signed)) ∧
      t.m.r.p = u.m.r.p ∧ t.m.r.istat = u.m.r.istat ∧ t.m.r.fstat = u.m.r.fstat))) ∧
  (∀ (s : State) (r : MRef) (o : OutOp), (s.findMem r).isSome = true →
  let u := s.focusOn r
  u.oldest 1 o → (o.kind = .store ∨ ∃ m, o.kind = .message m) →
  (u.mayRetire o = false → exec (.storeRetire r) s = .next u) ∧
  (u.mayRetire o = true → Completes (.storeRetire r) s (fun t => Retired u t o ∧ t.mem = u.mem ∧ t.m.r = u.m.r)))
namespace Sys2Proof.Machine

/-- Two lists of writes on their way are the same but for which quads' views have seen them (R289). -/
def sameWrites (a b : List PWrite) : Prop := a.map (fun w => { w with seen := [] }) = b.map (fun w => { w with seen := [] })

end Sys2Proof.Machine

/-- R286 to R293, R373: how writes and fills move through the copies of memory.
R286, R288, R369: the moves of a write, each where it may: it drains from the outbox to the quad's view, or to its scratchpad; is pushed
to PM, where it is done when PM is its home copy; is sent to GI; is granted to GM. Each move puts the write's bytes at its addresses and
changes no other byte of any copy; the per-byte order of R286 holds moves back.
R288, R289, R373: a fill of a line into a quad's view takes PM's bytes but where the quad has a later write; a fill of a line of another
package that this one does not hold asks for it.
It says when each of these forms completes: `writeDrain`, `writePush`, `writeSend`, `writeGrant`, `writeFill`. -/
def Obligations.WritesMove : Prop :=
  (∀ (s : State) (w : PWrite), s.findWrite w.id = some w →
  (w.stage = .ob → s.mayDrain w = true → w.place = .glob → w.half = none → inHostWindow (offOf w.addr) = false → s.fencedByte w.addr = false →
    Completes (.writeDrain w.id) s (fun t => t.findWrite w.id = some { w with stage := .qv } ∧ t.m = s.m ∧ t.wg = s.wg ∧
      t.mem.pm = s.mem.pm ∧ t.mem.gm = s.mem.gm ∧ t.mem.sp = s.mem.sp ∧
      ∀ q a, memGet (smGet [] t.mem.qv q) a =
        if q = w.quad ∧ w.covers .glob a = true then w.bytes.getD (a - w.addr) 0 else memGet (smGet [] s.mem.qv q) a)) ∧
  (w.stage = .ob → s.mayDrain w = true → w.place = .glob → w.half = none → inHostWindow (offOf w.addr) = true → s.fencedByte w.addr = false →
    Completes (.writeDrain w.id) s (fun t => t.m = s.m ∧ t.wg = s.wg ∧ t.mem.qv = s.mem.qv ∧ t.mem.gm = s.mem.gm ∧ t.mem.sp = s.mem.sp ∧
      ∀ a, memGet t.mem.pm a = if w.covers .glob a = true then w.bytes.getD (a - w.addr) 0 else memGet s.mem.pm a)) ∧
  (∀ c, w.stage = .ob → s.mayDrain w = true → w.place = .sp c → w.half = none →
    Completes (.writeDrain w.id) s (fun t => t.m = s.m ∧ t.wg = s.wg ∧ t.mem.pm = s.mem.pm ∧ t.mem.gm = s.mem.gm ∧ t.mem.qv = s.mem.qv ∧
      t.mem.writes = dropFirst (fun x => x.id = w.id) s.mem.writes ∧
      ∀ k a, memGet (smGet [] t.mem.sp k) a =
        if k = c ∧ w.covers (.sp c) a = true then w.bytes.getD (a - w.addr) 0 else memGet (smGet [] s.mem.sp k) a)) ∧
  (w.stage = .held → s.mayEnter w = true →
    Completes (.writeDrain w.id) s (fun t => t.m = s.m ∧ t.wg = s.wg ∧
      t.mem.writes = dropFirst (fun x => x.id = w.id) s.mem.writes ++ [{ w with stage := .ob }] ∧
      t.mem.pm = s.mem.pm ∧ t.mem.gm = s.mem.gm ∧ t.mem.qv = s.mem.qv ∧ t.mem.sp = s.mem.sp)) ∧
  (w.stage = .ob → s.mayDrain w = false → exec (.writeDrain w.id) s = .next s) ∧
  (w.place = .glob → s.mayPush w = true → s.fencedByte w.addr = false →
    Completes (.writePush w.id) s (fun t => t.m = s.m ∧ t.wg = s.wg ∧ t.mem.qv = s.mem.qv ∧ t.mem.gm = s.mem.gm ∧ t.mem.sp = s.mem.sp ∧
      (s.homed w.addr = true → s.remoteHeld w.addr = false → t.mem.writes = dropFirst (fun x => x.id = w.id) s.mem.writes) ∧
      ((s.homed w.addr = false ∨ s.remoteHeld w.addr = true) →
        t.mem.writes = dropFirst (fun x => x.id = w.id) s.mem.writes ++ [{ w with stage := .pm }]) ∧
      ∀ a, memGet t.mem.pm a = if w.covers .glob a = true then w.bytes.getD (a - w.addr) 0 else memGet s.mem.pm a)) ∧
  (s.mayPush w = false → exec (.writePush w.id) s = .next s) ∧
  (s.maySend w = true → Completes (.writeSend w.id) s (fun t => t.m = s.m ∧ t.wg = s.wg ∧ t.findWrite w.id = some { w with stage := .gi } ∧
    t.mem.pm = s.mem.pm ∧ t.mem.gm = s.mem.gm ∧ t.mem.qv = s.mem.qv ∧ t.mem.sp = s.mem.sp)) ∧
  (w.place = .glob → s.mayGrant w = true → s.ownsLine (w.addr / 128) = true → s.strays (w.addr / 128) = false →
    Completes (.writeGrant w.id) s (fun t => t.m = s.m ∧ t.wg = s.wg ∧ t.mem.writes = dropFirst (fun x => x.id = w.id) s.mem.writes ∧
      t.mem.pm = s.mem.pm ∧ t.mem.qv = s.mem.qv ∧ t.mem.sp = s.mem.sp ∧
      ∀ a, memGet t.mem.gm a = if w.covers .glob a = true then w.bytes.getD (a - w.addr) 0 else memGet s.mem.gm a)) ∧
  (s.mayGrant w = false → exec (.writeGrant w.id) s = .next s)) ∧
  (∀ (s : State) (q line : Nat),
  Completes (.writeFill (some q) line) s (fun t => t.m = s.m ∧ t.wg = s.wg ∧ t.mem.pm = s.mem.pm ∧ t.mem.gm = s.mem.gm ∧ t.mem.sp = s.mem.sp ∧
    sameWrites t.mem.writes s.mem.writes ∧
    ∀ k a, memGet (smGet [] t.mem.qv k) a =
      if k = q ∧ a / 128 = line ∧ s.mem.writes.any (fun w => decide (w.quad = q) && decide (w.stage = .qv) && w.covers .glob a) = false
      then memGet s.mem.pm a else memGet (smGet [] s.mem.qv k) a) ∧
  (s.homed (128 * line) = false → smGet 0 s.fab.peer line = 0 → s.asked line = false → s.strays line = false →
    Completes (.writeFill none line) s (fun t => t.mem = s.mem ∧ ∃ m : FabMsg, t.fab.net = s.fab.net ++ [m] ∧
      m.kind = 1 ∧ m.line = line ∧ m.src = s.plat.pkg ∧ m.dst = pkgOf (128 * line))))

namespace Sys2Proof.Machine

/-- The fields that `atom` accepts (R176, R177). -/
def atomFields (s : State) (f : FM) : Bool :=
  atomOk f true && zerosM f true true true true true true true true true true true && spaceOk f && ordOk s f [0, 1, 2, 3] && cacheOk f &&
  clsLdSt f && baseOk f && ((isV f.data && (isV f.index || (isS f.index && !(f.sub == 10)))) || (isS f.data && isS f.index && isS f.base)) &&
  (!(f.sub == 10) || f.index.toNat % casAlign f == 0)
/-- The register uses of `atom`. -/
def atomUses (f : FM) : List SpecUse :=
  [{ spec := f.data, pair := f.wide, wr := true }, { spec := f.base, pair := decide (f.space.toNat ≤ 1) && isV f.base }] ++
  ((if f.sub == 10 && isV f.index then (List.range (if f.wide then 4 else 2)).map (fun k => { spec := f.index + BitVec.ofNat 9 k }) else
    [{ spec := f.index, pair := f.wide && isV f.index }]) ++ (if f.sub == 10 && isS f.index then [{ spec := f.index + 1 }] else []))
/-- The fields that `ared` accepts. -/
def aredFields (s : State) (f : FM) : Bool :=
  atomOk f false && zerosM f true true true true true true true true true true true && spaceOk f && ordOk s f [0, 2] && cacheOk f && clsLdSt f &&
  baseOk f && vOrNone f.index && (isV f.data || isS f.data)
/-- The operation that an atomic leaves outstanding (R176, R182). -/
def State.atomOp (s : State) (f : FM) (ls : List AtomLane) (d : Option Dest) : OutOp :=
  { id := s.uid, cls := f.cls.toNat, kind := .atom f.sub.toNat f.bytes ls d, scope := s.scope f.scope.toNat
    acq := f.order == 1 || f.order == 3, rel := f.order == 2 || f.order == 3 }
/-- The fields that `cflush` and `cinv` accept (R181). -/
def flushFields (s : State) (f : FM) : Bool :=
  zerosM f false false true true true false true false true false true && baseOk f && vOrNone f.index && spaceOk f && f.scope != 0 &&
  s.scopeOk f.scope.toNat && clsLdSt f
/-- The fields that `wtval` accepts (R185). -/
def wtvalFields (s : State) (f : FM) : Bool :=
  zerosM f true true true true true true true true true false false && isS f.data && isS f.base && isS f.index && bitsN f.ofs.toNat 16 16 == 0 &&
  (f.size == 2 || f.size == 3) && spaceOk f && ordOk s f [0, 1] && decide (f.sub.toNat < 16) && decide (f.sub.toNat % 8 ≤ 5)
/-- The fields that `snd` accepts (R189). -/
def sndFields (s : State) (f : FM) : Bool :=
  zerosM f false true true false true true false true true false true && decide (336 ≤ f.data.toNat) && decide (f.data.toNat < 340) &&
  (isS f.base || f.base.toNat == 511) && (isS f.base → f.ofs = 0) && f.size == 3 && ordOk s f [0, 2] && (f.scope == 1 || f.scope == 2) && f.cls == 1
/-- The fields that `rcv` accepts (R192). -/
def rcvFields (s : State) (f : FM) : Bool :=
  zerosM f true true true false false true false true true false true && decide (f.sub.toNat ≤ 1) && (isV f.data || isS f.data) &&
  decide (340 ≤ f.base.toNat) && decide (f.base.toNat < 344) && f.size == 3 && ordOk s f [0, 1] && (f.scope == 1 || f.scope == 2) && f.cls == 0

end Sys2Proof.Machine

/-- R176 to R179, R296: an atomic from its slot to its effect.
R170, R176, R177, R182: `atom` and `ared` with their checks passed, alignment among them, leave an atomic outstanding with each lane's
place and operands; no memory and no register has changed yet.
R176, R178, R296: one lane's atomic is indivisible: in a scratchpad the place takes the new value and the lane keeps the old one, no other
byte changes; at a place that is poisoned nothing is written and the operation carries ATOMPOISON as its report (R179, R184).
It says when each of these forms completes: `atom`, `ared`, `atomicPerform`. -/
def Obligations.AtomicResults : Prop :=
  (∀ (h : Hdr) (f : FM) (s : State),
  (let ls := s.memLanes h (isS f.data)
   let las := s.laneAddrs f false ls
   IssuesM s h false (atomUses f) (atomFields s f) (some f.cls.toNat) ls = true →
   (ls = [] → Completes (.atom h f) s (Advanced s)) ∧
   (ls ≠ [] → failures (s.checked f.space.toNat f.bytes 3 true las) ≠ [] →
     exec (.atom h f) s = .next (s.raise (laneFault (failures (s.checked f.space.toNat f.bytes 3 true las))))) ∧
   (ls ≠ [] → s.accessOk f.space.toNat f.bytes 3 true las = true →
     let u := s.accState f.space.toNat f.bytes 3 true las
     Reached s (partVas (s.acc f.space.toNat f.bytes 3 true las)) ∧
     Completes (.atom h f) s (fun t => Issued u t (u.atomOp f (atomLanes (s.acc f.space.toNat f.bytes 3 true las) (u.atomOps f) f.bytes)
       (some { spec := f.data, size := f.bytes, mask := maskOf ls }))))) ∧
  (let ls := s.memLanes h (!(isV f.data || isV f.base || isV f.index))
   let las := s.laneAddrs f true ls
   IssuesM s h false ({ spec := f.data, pair := f.wide } :: addrUses f) (aredFields s f) (some f.cls.toNat) ls = true →
   (ls = [] → Completes (.ared h f) s (Advanced s)) ∧
   (ls ≠ [] → s.accessOk f.space.toNat f.bytes 3 true las = true →
     let u := s.accState f.space.toNat f.bytes 3 true las
     Reached s (partVas (s.acc f.space.toNat f.bytes 3 true las)) ∧
     Completes (.ared h f) s (fun t => Issued u t (u.atomOp f (atomLanes (s.acc f.space.toNat f.bytes 3 true las)
       (fun l => (BitVec.ofNat 64 (u.dataOf f.data f.wide l), 0)) f.bytes) none))))) ∧
  (∀ (s : State) (r : MRef) (op : Nat) (o : OutOp) (sub size : Nat) (l : AtomLane) (d : Option Dest) (c : Nat),
  (s.findMem r).isSome = true →
  let u := s.focusOn r
  u.outOf op = some o → o.kind = .atom sub size [l] d → l.old = none → l.loc.place = .sp c → o.rel = false → o.acq = false →
  u.mayRead op l.loc = true →
  u.mem.writes.any (fun w => decide (w.owner = u.ref) && decide (w.op < op) && l.loc.meets w && decide (w.stage.num < 5)) = false →
  (u.locPoison l.loc = true → Completes (.atomicPerform r op l.lane) s (fun t => t.mem = u.mem ∧ t.m.r = u.m.r ∧
    (t.outOf op).map (fun x => (x.report, x.kind)) = some (some ATOMPOISON, .atom sub size [] d))) ∧
  (u.locPoison l.loc = false →
    let old := memNat (smGet [] u.mem.sp c) (l.loc.bit / 8) size
    Completes (.atomicPerform r op l.lane) s (fun t => t.m.r = u.m.r ∧ t.wg = u.wg ∧ t.mem.pm = u.mem.pm ∧ t.mem.gm = u.mem.gm ∧
      t.mem.qv = u.mem.qv ∧ t.mem.writes = u.mem.writes ∧
      (t.outOf op).map (·.kind) = some (.atom sub size [{ l with old := some (BitVec.ofNat 64 old) }] d) ∧
      memNat (smGet [] t.mem.sp c) (l.loc.bit / 8) size = atomStep sub size old l % 2 ^ (8 * size) ∧
      ∀ k a, ¬ (k = c ∧ l.loc.bit / 8 ≤ a ∧ a < l.loc.bit / 8 + size) → memGet (smGet [] t.mem.sp k) a = memGet (smGet [] u.mem.sp k) a)))
/-- R180, R181, R183, R184, R292: `fence` waits, unless it is an acquire alone, for its member's older writes and reads and, with an acquire
part, refreshes the quad's view; `wcnt` waits
until every counter is within its bound, then goes on, or raises the oldest report; `cflush` and `cinv` leave an operation outstanding. A
wait leaves the state as it was.
It says when each of these forms completes: `fence`, `cflush`, `cinv`, `wcnt`. -/
def Obligations.FenceWaitResults : Prop := ∀ (h : Hdr) (f : FM) (s : State),
  (IssuesM s h true [] (zerosM f false false false false false false false true true false false && f.scope != 0 && s.scopeOk f.scope.toNat) none
     (s.memLanes h true) = true →
   (s.memLanes h true = [] → Completes (.fence h f) s (Advanced s)) ∧
   (s.memLanes h true ≠ [] → f.order ≠ 1 → s.releaseReady s.ref s.m s.uid (s.scope f.scope.toNat) = false → exec (.fence h f) s = .next s) ∧
   (s.memLanes h true ≠ [] → f.order = 2 → s.releaseReady s.ref s.m s.uid (s.scope f.scope.toNat) = true → Completes (.fence h f) s (Advanced s)) ∧
   (s.memLanes h true ≠ [] → f.order ≠ 2 → (f.order = 1 ∨ s.releaseReady s.ref s.m s.uid (s.scope f.scope.toNat) = true) →
     Completes (.fence h f) s (fun t => t.m = s.m.movedTo s.m.path.pc.next s.m.r ∧ t.wg = s.wg ∧ t.mem.gm = s.mem.gm ∧ t.mem.sp = s.mem.sp ∧
       sameWrites t.mem.writes s.mem.writes ∧ (∀ q, q ≠ quadOf s.wg.core → smGet [] t.mem.qv q = smGet [] s.mem.qv q) ∧
       (s.scope f.scope.toNat ≠ 6 → t.mem.pm = s.mem.pm) ∧
       (2 < s.scope f.scope.toNat → ∀ a, s.mem.writes.any (fun w => decide (w.quad = quadOf s.wg.core) && decide (w.stage = .qv) && w.covers .glob a) = false →
         memGet (smGet [] t.mem.qv (quadOf s.wg.core)) a = memGet t.mem.pm a)))) ∧
  (IssuesM s h true [] (zerosM f false false false false true false false false false false false &&
     (List.range 4).all (fun k => bitsN f.ofs.toNat (8 * k + 6) 2 == 0)) none (s.memLanes h true) = true →
   (s.memLanes h true = [] → Completes (.wcnt h f) s (Advanced s)) ∧
   (s.memLanes h true ≠ [] → (∃ k < 4, wcntBound f k < s.m.count k) → exec (.wcnt h f) s = .next s) ∧
   (s.memLanes h true ≠ [] → (∀ k < 4, s.m.count k ≤ wcntBound f k) →
     (s.m.reports = [] → Completes (.wcnt h f) s (Advanced s)) ∧
     (∀ c cs, s.m.reports = c :: cs → s.holdFull (dieOf s.wg.core) = true → exec (.wcnt h f) s = .next s) ∧
     (∀ c cs, s.m.reports = c :: cs → s.holdFull (dieOf s.wg.core) = false → exec (.wcnt h f) s = .next ((s.modM (fun m => { m with reports := cs })).raise
       { code := c, lanes := if s.m.scalar then 1 else s.active, flags := 16 })))) ∧
  (∀ inv : Bool,
   let ls := s.memLanes h (!(isV f.base || isV f.index))
   let las := s.laneAddrs f true ls
   let i : Instr := if inv then .cinv h f else .cflush h f
   IssuesM s h false (addrUses f) (flushFields s f) (some f.cls.toNat) ls = true →
   (ls = [] → Completes i s (Advanced s)) ∧
   (ls ≠ [] → s.accessOk f.space.toNat 1 1 false las = true →
     let u := s.accState f.space.toNat 1 1 false las
     let lines := ((s.acc f.space.toNat 1 1 false las).flatMap (fun l => l.2.filterMap (fun p =>
       if p.2.1.place = .glob then some (p.2.1.bit / 1024) else none))).dedup
     Reached s (partVas (s.acc f.space.toNat 1 1 false las)) ∧
     Completes i s (fun t => Issued u t { id := u.uid, cls := f.cls.toNat, kind := .flush lines inv, scope := u.scope f.scope.toNat })))
/-- R170, R171, R185: `wtval` reads its place, once no older access holds the read; when the comparison holds its register takes the value,
marked where the place is poisoned, and the path goes on; when not, it stays at its slot with the value and the time it has left.
It says when this form completes: `wtval`. -/
def Obligations.WaitValueResults : Prop := ∀ (h : Hdr) (f : FM) (s : State),
  let ls := s.memLanes h true
  let las := [(lowLane s.active, s.addrOf { f with ofs := 0 } false (lowLane s.active))]
  IssuesM s h false [{ spec := f.data, wr := true }, { spec := f.base }, { spec := f.index }] (wtvalFields s f) none ls = true →
  (ls = [] → Completes (.wtval h f) s (Advanced s)) ∧
  (∀ l p ps, ls ≠ [] → f.order = 0 → s.accessOk f.space.toNat f.bytes 1 true las = true →
    s.acc f.space.toNat f.bytes 1 true las = [(l, p :: ps)] →
    let u := s.accState f.space.toNat f.bytes 1 true las
    let v := u.readLoc u.ref u.uid (quadOf u.wg.core) none p.2.1
    (u.mayRead u.uid p.2.1 = false → exec (.wtval h f) s = .next u) ∧
    (u.mayRead u.uid p.2.1 = true → wtCmp f.sub.toNat f.bytes v (u.rf.rs (f.index.toNat - 256)).toNat = true →
      Completes (.wtval h f) s (fun t => SameBeside u t ∧ t.m.path = { u.m.path with pc := u.m.path.pc.next } ∧
        (∀ n, t.m.r.rs n = if n = f.data.toNat - 256 then BitVec.ofNat 64 v else u.m.r.rs n) ∧
        t.m.r.smark.contains (f.data.toNat - 256) = u.locPoison p.2.1 ∧ t.m.r.v = u.m.r.v ∧ t.m.r.p = u.m.r.p)) ∧
    (u.mayRead u.uid p.2.1 = true → wtCmp f.sub.toNat f.bytes v (u.rf.rs (f.index.toNat - 256)).toNat = false →
      Completes (.wtval h f) s (fun t => SameBeside u t ∧ t.m.path = u.m.path ∧ t.m.r = u.m.r ∧
        ∃ w ∈ t.m.wt, w.slotB = u.m.curB ∧ w.last = BitVec.ofNat 64 v)))
/-- R4, R121, R186 to R188, by the scope that the slot's code acts as: `bar.arrive` of the whole member arrives and goes on, when its older writes are in place; `bar.sync` parks its path, and
the member's arrival takes place once all its lanes stand there,
ending the phase where it is the last; `bar.wait` of a member that has arrived in a phase already over goes on; a
wait or a second arrival out of turn raises ILLOP.
It says when this form completes: `bar`. -/
def Obligations.BarrierResults : Prop := ∀ (h : Hdr) (f : FM) (s : State),
  let ls := s.memLanes h true
  let sc := s.scope f.scope.toNat
  let part := s.m.bars.find? (fun p => p.scope = sc && p.num = barNum f)
  IssuesM s h true [] (barOk s f) none ls = true →
  (ls = [] → Completes (.bar h f) s (Advanced s)) ∧
  (ls ≠ [] → f.sub = 0 → part.isSome = true → exec (.bar h f) s = .next (s.fault ILLOP)) ∧
  (ls ≠ [] → f.sub = 1 → (s.m.whole = false ∨ part.isSome = true) → exec (.bar h f) s = .next (s.fault ILLOP)) ∧
  (ls ≠ [] → f.sub = 2 → part = none → exec (.bar h f) s = .next (s.fault ILLOP)) ∧
  (ls ≠ [] → f.sub = 1 → s.m.whole = true → part = none →
    (s.releaseReady s.ref s.m s.uid sc = false → exec (.bar h f) s = .next s) ∧
    (s.releaseReady s.ref s.m s.uid sc = true → s.m.parked = [] → (∀ m ∈ s.wg.members, m.id ≠ s.m.id) →
      Completes (.bar h f) s (fun t => t.m.path = { s.m.path with pc := s.m.path.pc.next } ∧ t.m.r = s.m.r ∧
        t.m.bars = s.m.bars ++ [⟨sc, barNum f, (s.wg.bar (barIdx sc (barNum f))).phase⟩]))) ∧
  (ls ≠ [] → f.sub = 0 → part = none → (s.parkBar sc (barNum f) 0).m.barWait = none →
    Completes (.bar h f) s (fun t => SameBeside s t ∧ t.m.parked = s.m.parked ++ [⟨.bar sc (barNum f) 0, s.m.path⟩] ∧ t.m.r = s.m.r ∧
      t.m.exited = s.m.exited)) ∧
  (ls ≠ [] → f.sub = 0 → part = none → sc = 1 → s.m.parked = [] → s.m.whole = true → s.m.gone = false → s.wg.members = [] →
    s.releaseReady s.ref s.m s.uid 1 = true → (s.wg.bar (barIdx 1 (barNum f))).arrived = [] →
    (s.wg.bar (barIdx 1 (barNum f))).broken.contains (s.wg.bar (barIdx 1 (barNum f))).phase = false →
    Completes (.bar h f) s (fun t => t.m.a = some { s.m.path with pc := s.m.path.pc.next } ∧ t.m.parked = [] ∧ t.m.r = s.m.r ∧ t.m.bars = s.m.bars ∧
      t.m.wdCount = 0 ∧ (t.wg.bar (barIdx 1 (barNum f))).phase = (s.wg.bar (barIdx 1 (barNum f))).phase + 1)) ∧
  (∀ p, ls ≠ [] → f.sub = 2 → part = some p → s.m.parked = [] → s.m.whole = true → s.wg.members = [] →
    p.phase < (s.wg.bar (barIdx sc (barNum f))).phase → (s.wg.bar (barIdx sc (barNum f))).broken.contains p.phase = false →
    Completes (.bar h f) s (fun t => t.m.a = some { s.m.path with pc := s.m.path.pc.next } ∧ t.m.parked = [] ∧ t.m.r = s.m.r ∧
      t.m.bars = s.m.bars.filter (fun x => x ≠ p)))

/-- R189 to R192: messages from their slots to the receiving queue.
R189, R190, R192, R14: `snd` sends its queue's message to a rank of the cluster group; `rcv` takes the head entry of its queue, or waits
while it is empty, and `rcv.cnt` reads how many wait; each leaves an operation outstanding.
R191: MESSAGE_APPEND puts a message behind those that wait in its queue, and ends its `snd`; with 32 waiting it is refused, and the `snd`
carries QFULL as its report; until it may be appended nothing changes.
It says when each of these forms completes: `snd`, `rcv`, `messageAppend`. -/
def Obligations.MessageResults : Prop :=
  (∀ (h : Hdr) (f : FM) (s : State),
  (let t0 := if f.base.toNat = 511 then f.ofs.toNat else (s.rf.rs (f.base.toNat - 256)).toNat
   IssuesM s h false [{ spec := f.data }, { spec := f.base, ok511 := true }] (sndFields s f) (some 1) (s.memLanes h true) = true →
   (s.memLanes h true = [] → Completes (.snd h f) s (Advanced s)) ∧
   (s.memLanes h true ≠ [] → 16 ≤ t0 → exec (.snd h f) s = .next (s.fault ILLOP)) ∧
   (∀ w, s.memLanes h true ≠ [] → t0 < 16 → s.rankWg (t0 / 4) = some w →
     Completes (.snd h f) s (fun t => t.m.r = s.m.r ∧ t.wg = s.wg ∧ t.m.path = { s.m.path with pc := s.m.path.pc.next } ∧
       t.m.outs = s.m.outs ++ [{ id := s.uid, cls := 1, kind := .message s.uid, scope := f.scope.toNat, rel := f.order == 2 }] ∧
       t.mem = { s.mem with msgs := s.mem.msgs ++
         [⟨s.uid, s.ref, s.uid, w.wu, t0 % 4, ⟨smGet 0 s.shared.sq (f.data.toNat - 336), f.order == 2⟩, f.scope.toNat,
           s.plat.forwards.any (·.takes w.wu (2 * s.wg.wu + 1))⟩] }))) ∧
  (let ls := s.memLanes h (isS f.data)
   let k := f.base.toNat - 340
   IssuesM s h false [{ spec := f.data, pair := isV f.data, wr := true }, { spec := f.base }] (rcvFields s f) (some 0) ls = true →
   let op (v : W64) : OutOp := { id := s.uid, cls := 0, kind := .value v { spec := f.data, size := 8, mask := maskOf ls }, scope := f.scope.toNat
                                 acq := f.order == 1, done := true }
   (ls = [] → Completes (.rcv h f) s (Advanced s)) ∧
   (ls ≠ [] → f.sub = 1 → Completes (.rcv h f) s (fun t => Issued s t (op (BitVec.ofNat 64 (smGet [] s.wg.iq k).length)))) ∧
   (ls ≠ [] → f.sub = 0 → s.iqHead k = none → exec (.rcv h f) s = .next s) ∧
   (∀ e, ls ≠ [] → f.sub = 0 → s.iqHead k = some e →
     Completes (.rcv h f) s (fun t => Issued (s.iqPop k) t (op e.val))))) ∧
  (∀ (s : State) (q : Msg), s.mem.msgs.find? (fun x => x.id = q.id) = some q →
  (s.mayAppend q = false → exec (.messageAppend q.id) s = .next s) ∧
  (s.mayAppend q = true → s.wg.wu = q.toWu → q.owner = s.ref →
    Completes (.messageAppend q.id) s (fun t => t.m.r = s.m.r ∧ t.wg = { s.wg with iq := t.wg.iq } ∧ t.mem = { s.mem with msgs := dropFirst (fun x => x.id = q.id) s.mem.msgs } ∧
      t.m.outs = replaceFirst (fun o => o.id = q.op)
        (fun o => { o with done := true, report := if (smGet [] s.wg.iq q.queue).length < 32 then none else some QFULL }) s.m.outs ∧
      (∀ k, smGet [] t.wg.iq k = if k = q.queue ∧ (smGet [] s.wg.iq k).length < 32 then smGet [] s.wg.iq k ++ [q.entry] else smGet [] s.wg.iq k))))

/-- R119, R132, R185: JOIN_TIMEOUT sends the parked lanes of a record whose timer has run out to the timeout target where a slot is free;
WATCHDOG, once a member's count has reached its budget, ends its workgroup by the fault policy; WTVAL_TIMEOUT writes the value of a last
read and lets the path go on. Before they are due nothing changes.
It says when each of these forms completes: `joinTimeout`, `watchdog`, `wtvalTimeout`. -/
def Obligations.TimerResults : Prop := ∀ (s : State) (r : MRef), (s.findMem r).isSome = true →
  let u := s.focusOn r
  (∀ e o pm pc, smFind u.m.pool e = some (.record false o (.run 0) pm pc) → pm ≠ 0 →
    (u.m.a = none ∨ u.m.b = none →
      Completes (.joinTimeout r e) s (fun t => SameBeside u t ∧ t.m.r = u.m.r ∧ smFind t.m.pool e = some (.record false o .spent 0 pc) ∧
        (t.m.a = some { pc := timeoutTarget u pc, mask := pm, jrec := o } ∨ t.m.b = some { pc := timeoutTarget u pc, mask := pm, jrec := o }))) ∧
    (u.m.a.isSome = true → u.m.b.isSome = true → exec (.joinTimeout r e) s = .next u)) ∧
  (∀ e o n pm pc, smFind u.m.pool e = some (.record false o (.run (n + 1)) pm pc) → exec (.joinTimeout r e) s = .next u) ∧
  (u.m.wdDue = false → exec (.watchdog r) s = .next u) ∧
  (u.m.wdDue = true → u.wg.stop = .running → u.holdFull (dieOf u.wg.core) = false → Completes (.watchdog r) s (fun t => t.wg.stop = .ended ∧ t.m.r = u.m.r ∧
    t.m.a = u.m.a ∧ t.m.b = u.m.b ∧ t.m.pool = u.m.pool)) ∧
  (u.m.wt.find? (fun w => w.left = some 0) = none → exec (.wtvalTimeout r) s = .next u) ∧
  (∀ w h f l p ps, u.m.wt.find? (fun w => w.left = some 0) = some w →
    let v := u.modM (fun m => { m with curB := w.slotB })
    (v.slotAt v.m.path.pc).map decode = some (.wtval h f) → f.order = 0 →
    let las := [(lowLane v.active, v.addrOf { f with ofs := 0 } false (lowLane v.active))]
    v.accessOk f.space.toNat f.bytes 1 true las = true → v.acc f.space.toNat f.bytes 1 true las = [(l, p :: ps)] →
    let x := v.accState f.space.toNat f.bytes 1 true las
    x.mayRead x.uid p.2.1 = true →
    Completes (.wtvalTimeout r) s (fun t => SameBeside x t ∧ t.m.path = { x.m.path with pc := x.m.path.pc.next } ∧
      ∀ n, t.m.r.rs n = if n = f.data.toNat - 256 then BitVec.ofNat 64 (x.readLoc x.ref x.uid (quadOf x.wg.core) none p.2.1) else x.m.r.rs n))
/-- R88, R301, R314, R329, R340: LINE_REFETCH drops a line whose parity is wrong from the core's instruction cache, and counts it there, up to
2^64 - 1; when memory's copy is wrong too, MALLINE is raised; a line whose parity is right stays. SLOT_PROMOTION: a slot left unpicked for long
is promoted, which its wait count alone tells.
It says when each of these forms completes: `lineRefetch`, `slotPromotion`. -/
def Obligations.FetchEvents : Prop := ∀ (s : State) (r : MRef) (slotB : Bool), (s.findMem r).isSome = true →
  let u := (s.focusOn r).toSlot slotB
  (∀ pa, (if slotB then u.m.b else u.m.a).isSome = true → u.wg.stop = .running → u.xlate (u.m.path.pc.line.toNat * 64) 4 = .ok pa →
    let key := icKey u.wg.core pa
    let view := u.viewLine (quadOf u.wg.core) pa
    (lineParityOk ((smFind u.mem.icache key).getD view) = true → exec (.lineRefetch r slotB) s = .next u) ∧
    (lineParityOk ((smFind u.mem.icache key).getD view) = false →
      (lineParityOk view = true →
        Completes (.lineRefetch r slotB) s (fun t => t.m = u.m ∧ t.wg = u.wg ∧ smFind t.mem.icache key = none ∧
          (∀ k, k ≠ key → smFind t.mem.icache k = smFind u.mem.icache k) ∧ t.mem.pm = u.mem.pm ∧ t.mem.qv = u.mem.qv ∧
          smGet 0 t.plat.almanac.soft (softUnit (.cache 1 u.wg.core) 0) =
            min (smGet 0 u.plat.almanac.soft (softUnit (.cache 1 u.wg.core) 0) + 1) (2 ^ 64 - 1))) ∧
      (lineParityOk view = false → u.holdFull (dieOf u.wg.core) = false →
        Completes (.lineRefetch r slotB) s (fun t => t.wg.stop = .ended ∧ t.m = u.m)))) ∧
  Completes (.slotPromotion r slotB) s (fun t => SameBeside (s.focusOn r) t ∧ t.m.r = (s.focusOn r).m.r ∧
    64 ≤ (if slotB then t.m.waitB else t.m.waitA))
namespace Sys2Proof.Machine

/-- A page move meets nothing else: its leaf and the entry of the released-frame queue that it fills are homed here, held by no other package,
apart, and outside both frames. -/
def State.moveApart (s : State) (v : PageMove) : Prop :=
  let n := pageBytes v.large
  let c := smGet {} s.ctxs v.ctx
  let q := c.relq + 8 * (c.rftail.toNat % Config.relqEntries)
  (v.leafAddr + 8 ≤ q ∨ q + 8 ≤ v.leafAddr) ∧ v.oldFrame % n = 0 ∧ v.newFrame % n = 0 ∧
  ∀ a, (v.leafAddr ≤ a ∧ a < v.leafAddr + 8 ∨ q ≤ a ∧ a < q + 8) →
    s.homed a = true ∧ s.remoteHeld a = false ∧ a / n ≠ v.oldFrame / n ∧ a / n ≠ v.newFrame / n

end Sys2Proof.Machine

/-- R308 to R311, R314, R387, R404: STORAGE_ERROR: an uncorrectable error marks its 128 bytes as poison, a correctable one is only counted, up
to 2^64 - 1. PAGE_WALK: a finished walk keeps its translation in the core's micro-TLB and its quad's TLB; one that faults, or of a page to be
moved on touch, keeps none. PAGE_MOVE: a page move that completes names the new frame in the leaf, where the page's bytes now stand, drops
the page's translations and gives the old frame to the released-frame queue.
It says when each of these forms completes: `pageWalk`, `pageMove`, `storageError`. -/
def Obligations.StorageEvents : Prop := ∀ (s : State) (a : Nat) (c : Nat),
  Completes (.storageError .global a true) s (fun t => t.m = s.m ∧ t.wg = s.wg ∧ t.mem.pm = s.mem.pm ∧ t.mem.qv = s.mem.qv ∧ t.mem.sp = s.mem.sp ∧
    (∀ l, t.mem.psn.contains l = (s.mem.psn.contains l || l == a / 128)) ∧ t.poisoned a = true) ∧
  Completes (.storageError (.scratch c) a true) s (fun t => t.m = s.m ∧ t.wg = s.wg ∧ t.mem.psn = s.mem.psn ∧ t.mem.sp = s.mem.sp ∧
    ∀ k l, t.mem.spPsn.contains (k, l) = (s.mem.spPsn.contains (k, l) || ((k, l) == (c, a / 128)))) ∧
  (∀ kind unit, Completes (.storageError (.cache kind unit) a true) s (fun t => t.m = s.m ∧ t.wg = s.wg ∧ t.mem.pm = s.mem.pm ∧
    (∀ l, t.mem.psn.contains l = (s.mem.psn.contains l || l == a / 128)) ∧ t.poisoned a = true)) ∧
  (∀ p, Completes (.storageError p a false) s (fun t => t.m = s.m ∧ t.wg = s.wg ∧ t.mem = s.mem ∧ t.eng = s.eng ∧
    smGet 0 t.plat.almanac.soft (softUnit p a) = min (smGet 0 s.plat.almanac.soft (softUnit p a) + 1) (2 ^ 64 - 1))) ∧
  (∀ ctx va, s.microFind s.wg.core ctx va = none →
    (∀ x, s.quadFind (quadOf s.wg.core) ctx va = some x → Completes (.pageWalk ctx va) s (fun t => t.m = s.m ∧ t.wg = s.wg ∧
      t.mem = { s.mem with tlb := s.mem.tlb ++ [{ x with core := some s.wg.core }] })) ∧
    (∀ e large ea, s.quadFind (quadOf s.wg.core) ctx va = none → s.walk ctx va = .ok (e, large, ea) → bitN e 10 = false →
      Completes (.pageWalk ctx va) s (fun t => t.m = s.m ∧ t.wg = s.wg ∧ t.mem = { s.mem with tlb := s.mem.tlb ++
        [⟨quadOf s.wg.core, ctx, va / 65536, BitVec.ofNat 64 e, large, none⟩,
         ⟨quadOf s.wg.core, ctx, va / 65536, BitVec.ofNat 64 e, large, some s.wg.core⟩] })) ∧
    (∀ e large ea, s.quadFind (quadOf s.wg.core) ctx va = none → s.walk ctx va = .ok (e, large, ea) → bitN e 10 = true →
      exec (.pageWalk ctx va) s = .next s) ∧
    (∀ k, s.quadFind (quadOf s.wg.core) ctx va = none → s.walk ctx va = .error k → exec (.pageWalk ctx va) s = .next s)) ∧
  (∀ v, s.mem.moves.find? (fun x => x.id = v.id) = some v → v.op = none →
    Completes (.pageMove v.id) s (fun t => t.m.r = s.m.r ∧ t.wg.wu = s.wg.wu ∧ t.mem.moves = dropFirst (fun x => x.id = v.id) s.mem.moves ∧
      (∀ x ∈ t.mem.tlb, ¬ (x.large = v.large ∧ x.covers v.ctx v.va = true)) ∧
      (smGet {} t.ctxs v.ctx).rftail = (smGet {} s.ctxs v.ctx).rftail + 1 ∧
      (s.moveApart v → memNat t.mem.pm v.leafAddr 8 =
        putBits (putBits (putBits (s.pmNat v.leafAddr 8) 16 41 (v.newFrame / 65536)) 11 1 0) 10 1 (b2n (v.far && v.mot)) % 2 ^ 64 ∧
        memNat t.mem.pm ((smGet {} s.ctxs v.ctx).relq + 8 * ((smGet {} s.ctxs v.ctx).rftail.toNat % Config.relqEntries)) 8 = v.oldFrame % 2 ^ 64) ∧
      (s.moveApart v → s.mem.pm.wf = true → v.oldFrame ≠ v.newFrame → ∀ k < pageBytes v.large,
        memGet t.mem.pm (v.newFrame + k) = memGet s.mem.pm (v.oldFrame + k))))

/-! ### Layout registers (R193 to R210) -/

namespace Sys2Proof.Machine

/-- A layout slot that executes issues (R96, R14, R171). -/
def IssuesL (s : State) (h : Hdr) (uses : List SpecUse) (ok : Bool) : Bool :=
  Issues s h (classOk s .lay false h.role.toNat) uses (needs ok) && s.guardLow h && !(s.iqEmpty uses) && !(s.marked uses [lowLane s.active])
/-- A synchronous read of the member in focus gives some bytes now, those that it has performed before with the rest (R196; log 62): aligned,
in bounds, not poisoned, no acquire open, no older access to the bytes unperformed (R170), its pages in place, and no single chunk of it asked
for. -/
def State.syncOk (s : State) (k : Bool) (sp a n align : Nat) (bs : List Byte) : Prop :=
  a % align = 0 ∧
  (if k then s.constBytes a n = some bs
   else s.m.acqPending s.uid = false ∧ s.m.probe = none ∧ ∃ p, s.peek sp a n = .ok p ∧ p.psn = false ∧ p.locs.all (s.mayRead s.uid) = true ∧
     p.with (if s.m.earlyB == s.m.curB then s.m.early else []) = bs ∧ s.pagesReady p.vas = true)
/-- The state in which a synchronous read has its effect: no chunk of it is left over. -/
def State.syncState (s : State) (k : Bool) (sp a n : Nat) : State :=
  if k then s else match s.peek sp a n with | .ok p => (s.reached p.vas).modM (fun m => { m with early := [] }) | .error _ => s
/-- What a layout instruction leaves whose checks give a code (R194): a `.test` form writes the code, as a number to an s register or as
whether it is 0 to a predicate; a plain form raises the fault of a code that is not 0, else has its effect `eff`; the receive queues it
names are popped. -/
def Tested (u : State) (o : Out) (f : FL) (uses : List SpecUse) (code : Nat) (eff : State → State) : Prop :=
  (bitN f.sub.toNat 3 = true → Goes o (fun t => SameOutside u t ∧ t.wg.lregs = u.wg.lregs ∧ t.wg.cbs = u.wg.cbs ∧
    t.m = u.m.movedTo u.m.path.pc.next t.m.r ∧
    (isS f.dst = true → t.m.r.p = u.m.r.p ∧ ∀ n, t.m.r.rs n = if n = f.dst.toNat - 256 then BitVec.ofNat 64 code else u.m.r.rs n) ∧
    (isS f.dst = false → (∀ n, t.m.r.rs n = u.m.r.rs n) ∧ ∀ n l, n < 7 → l < 32 → (t.m.r.rp n).getLsbD l =
      if f.dst.toNat = 344 + n ∧ l ∈ lanesOf u.active then code == 0 else (u.m.r.rp n).getLsbD l) ∧
    t.m.r.v = u.m.r.v ∧ t.m.r.istat = u.m.r.istat ∧ t.m.r.fstat = u.m.r.fstat)) ∧
  (bitN f.sub.toNat 3 = false → code ≠ 0 → o = .next (u.fault (if code = 12 then LYBUSY else LYSING))) ∧
  (bitN f.sub.toNat 3 = false → code = 0 → o = .next (((eff u).popIqs uses).advance))
/-- The layout register k holds an image and every other layout register is as it was; so is all but the receive queues and the path. -/
def SetsLayout (u t : State) (k : Nat) (img : Nat) : Prop :=
  SameOutside u t ∧ t.m = u.m.movedTo u.m.path.pc.next u.m.r ∧ t.wg.cbs = u.wg.cbs ∧
  ∀ j, (smGet 0 t.wg.lregs j).toNat = if j = k then img % 2 ^ 2048 else (smGet 0 u.wg.lregs j).toNat
/-- A value read from a layout register stands in an s register, or in a v register of every active lane (R201). -/
def FieldRead (s t : State) (dst : Spec) (x : Nat) : Prop :=
  SameBeside s t ∧ t.m = s.m.movedTo s.m.path.pc.next t.m.r ∧
  (∀ n, t.m.r.rs n = if isS dst = true ∧ n = dst.toNat - 256 then BitVec.ofNat 64 x else s.m.r.rs n) ∧
  (∀ n l, l < 32 → t.m.r.rv n l = if isS dst = false ∧ n = dst.toNat ∧ l ∈ lanesOf s.active then BitVec.ofNat 32 x else s.m.r.rv n l) ∧
  t.m.r.p = s.m.r.p ∧ t.m.r.istat = s.m.r.istat ∧ t.m.r.fstat = s.m.r.fstat

end Sys2Proof.Machine

/-- R194, R196, R197, R203, R207: `lyld`, `lychk` on a record, and `cbld` read their record now; `lyld` places the image when its checks pass,
`lychk` writes the code of its defects, `cbld` loads a codebook register that no layout in flight uses.
It says when each of these forms completes: `lyld`, `lychk`, `cbld`. -/
def Obligations.LayoutRecordResults : Prop := ∀ (h : Hdr) (f : FL) (s : State) (bs : List Byte),
  let k := bitN f.sub.toNat 2
  let sp := f.sub.toNat % 4
  (let uses := testUse f ++ [{ spec := f.sa, ok511 := true }]
   IssuesL s h uses (zerosL f && f.lx == 0 && dstOk f && lyBaseOk f k && (!k || sp == 0)) = true → s.syncOk k sp (s.lyAddr f) 256 8 bs →
   let u := s.syncState k sp (s.lyAddr f) 256
   Tested u (exec (.lyld h f) s) f uses (u.placeCode f.ly.toNat (leNat bs)) (fun s => s.setLreg f.ly.toNat (leNat bs)) ∧
   (bitN f.sub.toNat 3 = false → u.placeCode f.ly.toNat (leNat bs) = 0 → Completes (.lyld h f) s (fun t => SetsLayout u t f.ly.toNat (leNat bs)))) ∧
  (let form := f.sub.toNat / 4
   IssuesL s h [{ spec := f.dst, wr := true }, { spec := f.sa, ok511 := true }] (zerosL f && testDst f.dst && decide (form ≤ 2) && (form == 0 || sp == 0) &&
     (if form = 2 then f.sa == 0 && f.imm == 0 else f.lx == 0 && f.ly == 0 && lyBaseOk f (form == 1))) = true → form < 2 →
   s.syncOk (form == 1) sp (s.lyAddr f) 256 8 bs →
   let u := s.syncState (form == 1) sp (s.lyAddr f) 256
   Completes (.lychk h f) s (fun t => SameBeside u t ∧
     (isS f.dst = true → ∀ n, t.m.r.rs n = if n = f.dst.toNat - 256 then BitVec.ofNat 64 (lyDefect (leNat bs) true) else u.m.r.rs n) ∧
     (isS f.dst = false → ∀ n l, n < 7 → l < 32 → (t.m.r.rp n).getLsbD l =
       if f.dst.toNat = 344 + n ∧ l ∈ lanesOf u.active then lyDefect (leNat bs) true == 0 else (u.m.r.rp n).getLsbD l))) ∧
  (IssuesL s h [{ spec := f.sa, ok511 := true }]
     (zerosL f && f.lx == 0 && f.dst == 0 && lyBaseOk f k && decide (f.sub.toNat < 8) && (!k || sp == 0)) = true →
   s.syncOk k sp (s.lyAddr f) 32 8 bs →
   let u := s.syncState k sp (s.lyAddr f) 32
   (u.busyCb f.ly.toNat = true → exec (.cbld h f) s = .next (u.fault LYBUSY)) ∧
   (u.busyCb f.ly.toNat = false → Completes (.cbld h f) s (fun t => SameOutside u t ∧ t.m = u.m.movedTo u.m.path.pc.next u.m.r ∧
     t.wg.lregs = u.wg.lregs ∧ ∀ j, smGet 0 t.wg.cbs j = if j = f.ly.toNat then BitVec.ofNat 256 (leNat bs) else smGet 0 u.wg.cbs j)))

/-- R194 to R205: the instructions that read, write and check layout fields, store a layout, and take one from a handle.
R194, R199 to R204: `lyset`, `lycol.wr` and `lycp` change a layout register when the change is accepted, `lyget` and `lycol.rd` read a field or
a column, `lychk.rly` says whether a relayout would be accepted.
R196, R198, R205: `lyst` leaves writes of its layout register's 256 bytes on their way, for which the member's next instruction waits, and
changes no register; `lyh` places the image of
a handle's entry, with its codebook where asked.
It says when each of these forms completes: `lyst`, `lyset`, `lyget`, `lycolRd`, `lycolWr`, `lychk`, `lycp`, `lyh`. -/
def Obligations.LayoutWriteResults : Prop :=
  (∀ (h : Hdr) (f : FL) (s : State),
  (∀ lo w, lyImmField f.imm = some (lo, w, true) →
   let uses := testUse f ++ [{ spec := f.sa }]
   IssuesL s h uses (zerosL f && f.lx == 0 && dstOk f && valueSrc f.sa && f.sub.toNat % 8 == 0 && ((lyImmField f.imm).map (·.2.2)).getD false) = true →
   let x := (s.rd64 f.sa 0 false (lowLane s.active)).toNat
   let img0 := putBits (s.lreg f.ly.toNat) lo w x
   let img := if lo = 32 then putBits img0 28 4 (if x % 16 = 1 then 5 else 0) else img0
   Tested s (exec (.lyset h f) s) f uses (s.changeCode f.ly.toNat w x img) (fun s => s.setLreg f.ly.toNat img) ∧
   (bitN f.sub.toNat 3 = false → s.changeCode f.ly.toNat w x img = 0 → Completes (.lyset h f) s (fun t => SetsLayout s t f.ly.toNat img))) ∧
  (let uses := testUse f ++ [{ spec := f.sa }]
   IssuesL s h uses (zerosL f && f.lx == 0 && dstOk f && valueSrc f.sa && f.sub.toNat % 8 == 1 && decide (f.imm.toNat < 36)) = true →
   let x := (s.rd64 f.sa 0 false (lowLane s.active)).toNat
   let img := putBits (s.lreg f.ly.toNat) (640 + 36 * f.imm.toNat) 36 x
   Tested s (exec (.lycolWr h f) s) f uses (s.changeCode f.ly.toNat 36 x img) (fun s => s.setLreg f.ly.toNat img) ∧
   (bitN f.sub.toNat 3 = false → s.changeCode f.ly.toNat 36 x img = 0 → Completes (.lycolWr h f) s (fun t => SetsLayout s t f.ly.toNat img))) ∧
  (IssuesL s h (testUse f) (zerosL f && f.sa == 0 && dstOk f && f.sub.toNat % 8 == 0 && f.imm == 0) = true →
   let img := s.lreg f.lx.toNat
   let code := if lyN img = 0 then 13 else if s.busyL f.ly.toNat then 12 else if lyPstate img ≠ 0 then 8 else 0
   Tested s (exec (.lycp h f) s) f [] code (fun s => s.setLreg f.ly.toNat img) ∧
   (bitN f.sub.toNat 3 = false → code = 0 → Completes (.lycp h f) s (fun t => SetsLayout s t f.ly.toNat img))) ∧
  (∀ lo w wr, lyImmField f.imm = some (lo, w, wr) →
   IssuesL s h [{ spec := f.dst, wr := true }] (zerosL f && f.sub == 0 && f.sa == 0 && f.ly == 0 && (isS f.dst || isV f.dst) && (lyImmField f.imm).isSome) = true →
   Completes (.lyget h f) s (fun t => FieldRead s t f.dst (bitsN (s.lreg f.lx.toNat) lo w))) ∧
  (IssuesL s h [{ spec := f.dst, wr := true }] (zerosL f && f.sub == 0 && f.sa == 0 && f.ly == 0 && (isS f.dst || isV f.dst) && decide (f.imm.toNat < 36)) = true →
   Completes (.lycolRd h f) s (fun t => FieldRead s t f.dst (if f.imm.toNat < lyN (s.lreg f.lx.toNat) then lyCol (s.lreg f.lx.toNat) f.imm.toNat else 0))) ∧
  (IssuesL s h [{ spec := f.dst, wr := true }] (zerosL f && testDst f.dst && decide (f.sub.toNat / 4 ≤ 2) && (f.sub.toNat / 4 == 0 || f.sub.toNat % 4 == 0) &&
     (if f.sub.toNat / 4 = 2 then f.sa == 0 && f.imm == 0 else f.lx == 0 && f.ly == 0 && lyBaseOk f (f.sub.toNat / 4 == 1))) = true → f.sub.toNat / 4 = 2 →
   let a := s.lreg f.lx.toNat
   let b := s.lreg f.ly.toNat
   let code := rlyCode (lyN a == 0 || lyN b == 0) (s.busyL f.lx.toNat || s.busyL f.ly.toNat) a b
   Completes (.lychk h f) s (fun t => SameBeside s t ∧
     (isS f.dst = true → ∀ n, t.m.r.rs n = if n = f.dst.toNat - 256 then BitVec.ofNat 64 code else s.m.r.rs n) ∧
     (isS f.dst = false → ∀ n l, n < 7 → l < 32 → (t.m.r.rp n).getLsbD l =
       if f.dst.toNat = 344 + n ∧ l ∈ lanesOf s.active then code == 0 else (s.m.r.rp n).getLsbD l)))) ∧
  (∀ (h : Hdr) (f : FL) (s : State),
  (∀ ps, IssuesL s h [{ spec := f.sa }] (zerosL f && f.ly == 0 && f.dst == 0 && isS f.sa && decide (f.sub.toNat < 4)) = true →
   s.lyAddr f % 8 = 0 → s.parts f.sub.toNat (s.lyAddr f) 256 2 = .ok ps → ps.any (fun p => s.lyHit none p.2.1 p.2.2) = false →
   s.pagesReady (ps.filterMap (·.2.2)) = true →
   let u := s.reached (ps.filterMap (·.2.2))
   Completes (.lyst h f) s (fun t => t.m = { u.m.movedTo u.m.path.pc.next u.m.r with syncOp := some u.uid } ∧ t.wg = u.wg ∧
     t.mem.pm = u.mem.pm ∧ t.mem.gm = u.mem.gm ∧ t.mem.qv = u.mem.qv ∧ t.mem.sp = u.mem.sp ∧
     ∃ ws, t.mem.writes = u.mem.writes ++ ws ∧ (∀ w ∈ ws, w.owner = u.ref ∧ w.op = u.uid) ∧
       ∀ p ∈ ps, ∀ j, j < p.2.1.bits / 8 → ∃ w ∈ ws, w.covers p.2.1.place (p.2.1.bit / 8 + j) = true ∧
         w.bytes[p.2.1.bit / 8 + j - w.addr]? = some (BitVec.ofNat 8 (u.lreg f.lx.toNat / 2 ^ (8 * p.1) / 2 ^ (8 * j))))) ∧
  (∀ p, let uses := testUse f ++ [{ spec := f.sa }]
   IssuesL s h uses (zerosL f && f.lx == 0 && dstOk f && isS f.sa && f.sub.toNat % 8 == 0 && decide (f.imm.toNat < 32)) = true →
   s.handle ((s.rf.rs (f.sa.toNat - 256)).toNat % 2 ^ 32) [16] = .ok p → s.m.acqPending s.uid = false → s.pagesReady p.vas = true →
   let u := s.reached p.vas
   let img := entryImg p.bytes
   let cb := bitN f.imm.toNat 4 && lyFmt img == 6
   bitN f.sub.toNat 3 = false → lyPstate img = 0 → u.busyL f.ly.toNat = false → (cb = true → u.busyCb (f.imm.toNat % 16) = false) →
   lyDefect img true = 0 →
   Completes (.lyh h f) s (fun t => SameOutside u t ∧ t.m = u.m.movedTo u.m.path.pc.next u.m.r ∧
     (∀ j, (smGet 0 t.wg.lregs j).toNat =
       if j = f.ly.toNat then putBits img 24 4 (if cb then f.imm.toNat % 16 else 0) % 2 ^ 2048 else (smGet 0 u.wg.lregs j).toNat) ∧
     (∀ j, smGet 0 t.wg.cbs j = if cb = true ∧ j = f.imm.toNat % 16 then BitVec.ofNat 256 (leNat ((p.bytes.drop 256).take 32)) else smGet 0 u.wg.cbs j))) ∧
  (∀ e, let uses := testUse f ++ [{ spec := f.sa }]
   IssuesL s h uses (zerosL f && f.lx == 0 && dstOk f && isS f.sa && f.sub.toNat % 8 == 0 && decide (f.imm.toNat < 32)) = true →
   s.handle ((s.rf.rs (f.sa.toNat - 256)).toNat % 2 ^ 32) [16] = .error e → exec (.lyh h f) s = .next (s.faultAt e 0)))
/-- R206: `lyloc` maps an index vector to its location, or to its address, and `lyidx` a location to its index vector, in each executing lane.
It says when each of these forms completes: `lyloc`, `lyidx`. -/
def Obligations.LayoutMapResults : Prop := ∀ (h : Hdr) (f : FL) (s : State) (inv : Bool),
  let img := s.lreg f.lx.toNat
  let adr := !inv && f.sub == 1
  let big := decide (32 < lyN img)
  let uses : List SpecUse := [{ spec := f.dst, pair := isV f.dst && (big || adr), wr := true }, { spec := f.sa, pair := isV f.sa && big, ok511 := true }]
  let ls := if isS f.dst then (if s.guardLow h then [lowLane s.active] else []) else s.guarded h
  let i : Instr := if inv then .lyidx h f else .lyloc h f
  let mat := s.curMat (.reg s.wg.wu f.lx.toNat) img
  let rd (l : Nat) : Nat := (if f.sa.toNat = 511 then f.imm.toNat
    else if isV f.sa && !big then (s.rf.rv f.sa.toNat l).toNat else (s.rd64 f.sa f.imm false l).toNat) % 2 ^ lyN img
  let out (l : Nat) : Nat := if inv then gfVec ((gfInv (lyN img) mat).getD []) (rd l) else if adr then adrOf img (gfVec mat (rd l)) else gfVec mat (rd l)
  Issues s h (classOk s .lay false h.role.toNat) uses (needs ((if inv then f.sub == 0 else decide (f.sub.toNat ≤ 1)) && zerosL f && f.ly == 0 &&
    (isS f.dst || isV f.dst) && (valueSrc f.sa || f.sa.toNat == 511 || (isV f.sa && isV f.dst)) && (f.sa.toNat == 511 || f.imm == 0))) = true →
  Readable s uses ls = true →
  (ls = [] → Completes i s (Advanced s)) ∧
  (ls ≠ [] → lyN img = 0 → exec i s = .next (s.fault LYSING)) ∧
  (ls ≠ [] → lyN img ≠ 0 → (adr = true → lySpace img ≠ 0) → (s.rlyOn (.reg s.wg.wu f.lx.toNat)).isSome = false → lyPstate img ≠ 1 → lyPstate img ≠ 3 →
    Completes i s (fun t => SameOutside s t ∧ t.m = s.m.movedTo s.m.path.pc.next t.m.r ∧
      (isV f.dst = true → ∀ n l, l < 32 → t.m.r.rv n l =
        if l ∈ ls ∧ n = f.dst.toNat then BitVec.ofNat 32 (out l)
        else if l ∈ ls ∧ (big || adr) = true ∧ n = f.dst.toNat + 1 then BitVec.ofNat 32 (out l / 2 ^ 32) else s.m.r.rv n l) ∧
      (isS f.dst = true → t.m.r.v = s.m.r.v ∧ ∀ n, t.m.r.rs n = if n = f.dst.toNat - 256 then BitVec.ofNat 64 (out (lowLane s.active) % 2 ^ 64) else s.m.r.rs n) ∧
      t.m.r.p = s.m.r.p ∧ t.m.r.istat = s.m.r.istat ∧ t.m.r.fstat = s.m.r.fstat))

/-! ### Tensor instructions (R69 to R72, R160 to R162) -/

namespace Sys2Proof.Machine

/-- One tensor instruction: its slot, its own field check, whether it takes a rounding mode and `.sat`, the third layout it reads, the
formats it accepts, and what it computes from the elements of LX and of the third layout. -/
structure TRow where
  ctor : Hdr → FL → Instr
  ok : FL → Bool
  rnd : Bool := true
  extra : FL → Option Nat := fun _ => none
  fmtOk : FL → Nat → Nat → Nat → Bool
  run : State → FL → Nat → Nat → Nat → List Elem → List Elem → TensorOut

/-- `hqt`, `qfp8`, `qcb4`, `dqcb4`, `rope`. -/
def tensorRows : List TRow :=
  [{ ctor := .hqt, ok := fun f => decide (f.sub.toNat ≤ 2) && decide (f.imm.toNat < 8)
     fmtOk := fun f ix iy _ => isF8 (lyFmt ix) && isF8 (lyFmt iy) && lyScaleFmt iy == 0 && decide (f.imm.toNat < lyRank ix) &&
       decide (4 + 2 * f.sub.toNat ≤ clog2 ((lyExts ix).getD f.imm.toNat 0))
     run := fun _ f ix iy _ ex _ =>
       let lg := 4 + 2 * f.sub.toNat
       let d := f.imm.toNat
       let xs := elemVals (lyFmt ix) [] ex
       collect (xs.map (fun e =>
         let base := e.1.getD d 0 / 2 ^ lg * 2 ^ lg
         let blk := (List.range (2 ^ lg)).map (fun i => (hadSign (lySeed ix) (base + i), valAt xs (setAt e.1 d (base + i))))
         (e.1, encO (lyFmt iy) f.rnd.toNat (f.sat == 1) (tensorDraw iy e.1) (hadOut blk (e.1.getD d 0 - base) (-(lg / 2 : Nat)) f.rnd.toNat)))) },
   { ctor := .qfp8, ok := fun f => f.sub == 0 && f.imm == 0
     fmtOk := fun _ ix iy _ => isF (lyFmt ix) && (lyFmt iy == 4 || lyFmt iy == 5)
     run := fun _ f ix iy _ ex _ => quantise iy (fDec (lyFmt iy) (maxCode (lyFmt iy))) (elemVals (lyFmt ix) [] ex)
       (fun cs v => encV (lyFmt iy) f.rnd.toNat (f.sat == 1) (tensorDraw iy cs) v) },
   { ctor := .qcb4, ok := fun f => f.sub == 0 && f.imm == 0, rnd := false
     fmtOk := fun _ ix iy _ => isF (lyFmt ix) && lyFmt iy == 6
     run := fun s _ ix iy _ ex _ =>
       let cb := s.codebook (lyCb iy)
       quantise iy (maxAbs (cb.filter finV)) (elemVals (lyFmt ix) [] ex) (fun _ v => match v with
         | .nan => (0, NV)
         | .inf n => (extremeEntry cb n, NV)
         | v => (nearest cb v, 0)) },
   { ctor := .dqcb4, ok := fun f => f.sub == 0 && f.imm == 0
     fmtOk := fun _ ix iy _ => lyFmt ix == 6 && isF (lyFmt iy)
     run := fun s f ix iy _ ex _ => collect ((elemVals 6 (s.codebook (lyCb ix)) ex).map (fun e =>
       (e.1, encV (lyFmt iy) f.rnd.toNat (f.sat == 1) (tensorDraw iy e.1) e.2))) },
   { ctor := .rope, ok := fun f => f.sub == 0 && decide (f.imm.toNat < 1024), extra := fun f => some (bitsN f.imm.toNat 0 4)
     fmtOk := fun f ix iy it =>
       let d := bitsN f.imm.toNat 4 3
       let p := bitsN f.imm.toNat 7 3
       let es := lyExts ix
       let ts := lyExts it
       isF (lyFmt ix) && isF (lyFmt iy) && lyScaleFmt ix == 0 && lyScaleFmt iy == 0 && lyFmt it == 1 && d != p && decide (d < es.length) &&
       decide (p < es.length) && es.getD d 0 % 2 == 0 && ts.length == 3 && ts.getD 0 0 == 2 && ts.getD 1 0 == es.getD d 0 / 2 &&
       (ts.getD 2 0 == 1 || ts.getD 2 0 == es.getD p 0)
     run := fun _ f ix iy it ex et =>
       let d := bitsN f.imm.toNat 4 3
       let p := bitsN f.imm.toNat 7 3
       let xs := elemVals (lyFmt ix) [] ex
       let ts := elemVals 1 [] et
       let tmax := (lyExts it).getD 2 0
       collect (xs.map (fun e =>
         let j := e.1.getD d 0
         let t := if tmax = 1 then 0 else e.1.getD p 0
         let c := valAt ts [0, j / 2, t]
         let sn := valAt ts [1, j / 2, t]
         let x0 := valAt xs (setAt e.1 d (j / 2 * 2))
         let x1 := valAt xs (setAt e.1 d (j / 2 * 2 + 1))
         (e.1, encO (lyFmt iy) f.rnd.toNat (f.sat == 1) (tensorDraw iy e.1)
           (if j % 2 = 0 then rotateV f.rnd.toNat x0 c x1 sn true else rotateV f.rnd.toNat x0 sn x1 c false)))) }]
/-- A tensor slot issues (R96, R160). -/
def TRow.issues (r : TRow) (s : State) (h : Hdr) (f : FL) : Bool :=
  issueFault s h (classOk s .flt false h.role.toNat) [] (needs (f.dst == 0 && f.sa == 0 && f.sb == 0 && f.ty == 0 && f.z51 == 0 && r.ok f &&
    (if r.rnd then decide (f.rnd.toNat ≤ 4) else f.rnd == 0 && f.sat == 0))) == none
/-- What a tensor instruction finds once its layouts, formats and storage are in order and nothing holds it: the storage of the elements
of LX, LY and the third layout, and the elements as they stand (R160). -/
structure TensorReady (s : State) (r : TRow) (f : FL) (sx sy st : List (List Nat × List Part)) (cx : List (List Nat × Option Loc)) : Prop where
  whole : s.m.whole = true
  layouts : [s.lreg f.lx.toNat, s.lreg f.ly.toNat, ((r.extra f).map s.lreg).getD (s.lreg f.lx.toNat)].findSome? s.tensorBad = none
  exts : lyExts (s.lreg f.lx.toNat) = lyExts (s.lreg f.ly.toNat)
  fmts : r.fmtOk f (s.lreg f.lx.toNat) (s.lreg f.ly.toNat) (((r.extra f).map s.lreg).getD (s.lreg f.lx.toNat)) = true
  scales : (lyScaleFmt (s.lreg f.ly.toNat) == 1 && lySpace (s.lreg f.ly.toNat) != 1) = false
  src : elemStorage s (.reg s.wg.wu f.lx.toNat, s.lreg f.lx.toNat) s.m.id 1 (boxCoords (lyExts (s.lreg f.lx.toNat))) = .ok sx
  dst : elemStorage s (.reg s.wg.wu f.ly.toNat, s.lreg f.ly.toNat) s.m.id 2 (boxCoords (lyExts (s.lreg f.lx.toNat))) = .ok sy
  third : elemStorage s (.reg s.wg.wu ((r.extra f).getD 0), ((r.extra f).map s.lreg).getD (s.lreg f.lx.toNat)) s.m.id 1
    (if (r.extra f).isNone then [] else boxCoords (lyExts (((r.extra f).map s.lreg).getD (s.lreg f.lx.toNat)))) = .ok st
  srcScale : scaleStorage s (s.lreg f.lx.toNat) (boxCoords (lyExts (s.lreg f.lx.toNat))) = .ok cx
  dstScale : ∃ cy, scaleStorage s (s.lreg f.ly.toNat) (boxCoords (lyExts (s.lreg f.lx.toNat))) = .ok cy ∧
    cy.any (fun e => e.2.any (fun l => s.lyHit none l none)) = false
  free : ((sx ++ st).flatMap (fun e => s.ownRegs e.2) ++ sy.flatMap (fun e => s.ownRegs e.2)).any (fun r => s.busyWrites.contains r) = false
  free2 : (sy.flatMap (fun e => s.ownRegs e.2)).any (fun r => s.busyReads.contains r) = false
  still : s.rlyOn (.reg s.wg.wu f.ly.toNat) = none
  acq : s.m.acqPending s.uid = false ∧ ((sx ++ st).flatMap (fun e => e.2.map (·.2.1)) ++ cx.filterMap (·.2)).all (s.mayRead s.uid) = true
  clean : (sx ++ st).any (fun e => e.2.any (fun p => s.locPoison p.2.1)) = false ∧ cx.any (fun e => (e.2.map s.locPoison).getD false) = false
/-- The elements of a layout as they stand, with their scales. -/
def State.elemsNow (s : State) (sx : List (List Nat × List Part)) (cx : List (List Nat × Option Loc)) : List Elem :=
  sx.map (fun e => { cs := e.1, code := s.readParts e.2, scale := match (cx.find? (fun c => c.1 = e.1)).bind (·.2) with
    | some l => s.readLoc s.ref s.uid (quadOf s.wg.core) none l
    | none => 127 })
/-- The result of a row from the elements as they stand. -/
def TRow.result (r : TRow) (s : State) (f : FL) (sx st : List (List Nat × List Part)) (cx : List (List Nat × Option Loc)) : TensorOut :=
  r.run s f (s.lreg f.lx.toNat) (s.lreg f.ly.toNat) (((r.extra f).map s.lreg).getD (s.lreg f.lx.toNat)) (s.elemsNow sx cx)
    (st.map (fun e => { cs := e.1, code := s.readParts e.2 }))

end Sys2Proof.Machine

/-- R69 to R72, R160 to R162: a tensor instruction whose layouts, formats and storage are in order reads every element and writes every result
at its element's storage, at once into registers, by writes on their way into a scratchpad; `%fstat` takes the status bits; no memory
has changed yet, and the member's next instruction waits until those writes are complete. With a false guard in the lowest lane it only moves on; run by a part of the member it raises ILLOP.
It says when each of these forms completes: `hqt`, `qfp8`, `qcb4`, `dqcb4`, `rope`. -/
def Obligations.TensorResults : Prop := ∀ r ∈ tensorRows, ∀ (h : Hdr) (f : FL) (s : State), r.issues s h f = true →
  (s.guardLow h = false → Completes (r.ctor h f) s (Advanced s)) ∧
  (s.guardLow h = true → s.m.whole = false → exec (r.ctor h f) s = .next (s.fault ILLOP)) ∧
  (∀ c, s.guardLow h = true → s.m.whole = true → [s.lreg f.lx.toNat, s.lreg f.ly.toNat, ((r.extra f).map s.lreg).getD (s.lreg f.lx.toNat)].findSome?
    s.tensorBad = some c → exec (r.ctor h f) s = .next (s.fault c)) ∧
  (∀ sx sy st cx, s.guardLow h = true → TensorReady s r f sx sy st cx →
    Completes (r.ctor h f) s (fun t => t = s.putTensor (s.lreg f.ly.toNat) sy (r.result s f sx st cx) ∧
      t.m.r.fstat = s.m.r.fstat ||| (r.result s f sx st cx).stat ∧ t.m.r.istat = s.m.r.istat ∧ t.m.r.p = s.m.r.p ∧ t.m.r.s = s.m.r.s ∧
      t.m.path = { s.m.path with pc := s.m.path.pc.next } ∧ t.m.outs = s.m.outs ∧ t.m.syncOp = some s.uid ∧ t.wg.lregs = s.wg.lregs ∧
      t.wg.cbs = s.wg.cbs ∧ t.mem.pm = s.mem.pm ∧ t.mem.gm = s.mem.gm ∧ t.mem.qv = s.mem.qv ∧ t.mem.sp = s.mem.sp))

/-! ### The matrix engine (R211 to R229) -/

namespace Sys2Proof.Machine

/-- One matrix instruction: its slot, its decode check, the layouts it names, what it accesses. -/
structure MRow where
  ctor : Hdr → FX → Instr
  ok : FX → Bool
  lays : FX → List Nat := fun _ => []
  plan : FX → State → MxPlan

/-- The matrix instructions (R219 to R228). -/
def matrixRows : List MRow :=
  [{ ctor := .mma, ok := fun f => mmaOk f false, lays := fun f => [f.la.toNat, f.lb.toNat], plan := fun f => mmaPlan f id false },
   { ctor := .mmag, ok := fun f => mmaOk f true, lays := fun f => [f.la.toNat, f.lb.toNat]
     plan := fun f s => mmaPlan f (fun i => (s.rf.rv f.rowidx.toNat i).toNat) true s },
   { ctor := .mmld, ok := fun f => zerosX f false true false false true false true && decide (f.sub.toNat ≤ 1), lays := fun f => [f.la.toNat]
     plan := fun f s => { src1 := (f.tile (f.sub == 1)).map (s.mxElem f.la.toNat (s.lreg f.la.toNat) s.dfltWarp 1)
                          sc1 := (f.tile (f.sub == 1)).map (s.scaleAt (s.lreg f.la.toNat) 1)
                          bad := (ldKind (lyFmt (s.lreg f.la.toNat))).isNone, kind := ldKind (lyFmt (s.lreg f.la.toNat)) } },
   { ctor := .mmst, ok := fun f => zerosX f false true true false false false true && decide (f.sub.toNat % 8 < 4), lays := fun f => [f.ld.toNat]
     plan := fun f => mmstPlan f false },
   { ctor := .mmdr, ok := fun f => zerosX f false true true false false false false && decide (f.sub.toNat % 8 < 4), lays := fun f => [f.ld.toNat]
     plan := fun f => mmstPlan f true },
   { ctor := .mmz, ok := fun f => zerosX f false true false false false false false && decide (f.sub.toNat ≤ 2)
     plan := fun f _ => { kind := some f.sub.toNat } },
   { ctor := .mmfl, ok := fun f => zerosX f false true false false false false true && decide (f.sub.toNat ≤ 2)
     plan := fun f _ => { kind := some f.sub.toNat } },
   { ctor := .mmia, ok := fun f => zerosX f false true false false true false true && decide (f.sub.toNat ≤ 4), lays := fun f => [f.la.toNat]
     plan := fun f s => { src1 := (f.tile false).map (s.mxElem f.la.toNat (s.lreg f.la.toNat) s.dfltWarp 1)
                          bad := !((lyFmt (s.lreg f.la.toNat) == 9 && s.wg.kindOf f.acc.toNat != 0) ||
                            (lyFmt (s.lreg f.la.toNat) == 10 && s.wg.kindOf f.acc.toNat == 1)) } },
   { ctor := .mmscl, ok := fun f => zerosX f false true false false true false false && decide (f.sub.toNat ≤ 1), lays := fun f => [f.la.toNat]
     plan := fun f s => { src1 := (List.range 16).map (fun m => s.mxElem f.la.toNat (s.lreg f.la.toNat) s.dfltWarp 1 [m, 0])
                          bad := s.wg.kindOf f.acc.toNat != 0 || lyFmt (s.lreg f.la.toNat) != 1 } },
   { ctor := .mmcb, ok := fun f => zerosX f false true false false false false true && decide (f.sub.toNat ≤ 2) && decide (f.ximm.toNat < 8)
     plan := fun f s => { bad := s.wg.kindOf f.acc.toNat != s.wg.kindOf (f.ximm.toNat % 8) } },
   { ctor := .mmsl, ok := fun f => zerosX f false false false false false false false && f.sub == 0, plan := fun _ _ => {} }]
/-- The register uses of a matrix slot. -/
def mxUses (i : Instr) : List SpecUse := match i with | .mmag _ f => [{ spec := f.rowidx }] | _ => []
/-- Every location an instruction will access, in the order of R218. -/
def MxPlan.all (p : MxPlan) : List Access := p.src1 ++ p.src2 ++ p.sc1 ++ p.sc2 ++ p.dst
/-- A matrix slot issues: its checks pass, its queue, counter and set slot have room, its layouts hold rank-2 images, its accesses and
formats pass, and no register it will read or write is in use. -/
structure MxReady (s : State) (r : MRow) (h : Hdr) (f : FX) : Prop where
  chk : issueFault s h (classOk s .mtx false h.role.toNat && s.wg.launch.mtx) (mxUses (r.ctor h f)) (needs (r.ok f)) = none
  room : s.mxFull f = false ∧ s.hazard (mxUses (r.ctor h f)) = false
  clean : s.marked (mxUses (r.ctor h f)) (List.range 16) = false
  lays : (r.lays f).all (fun x => lyN (s.lreg x) != 0 && lyRank (s.lreg x) == 2) = true
  acc : firstBad (r.plan f s).all = none
  ok : (r.plan f s).bad = false
  pages : s.pagesReady ((okParts (r.plan f s).all).flatMap (fun ps => ps.filterMap (·.2.2))) = true
  free : ((sliceRegs s.ref (okSlices (r.plan f s).src1 ++ okSlices (r.plan f s).src2) ++ sliceRegs s.ref (okSlices (r.plan f s).dst)).any
    (fun k => (s.reached ((okParts (r.plan f s).all).flatMap (fun ps => ps.filterMap (·.2.2)))).busyWrites.contains k)) = false
  free2 : (sliceRegs s.ref (okSlices (r.plan f s).dst)).any
    (fun k => (s.reached ((okParts (r.plan f s).all).flatMap (fun ps => ps.filterMap (·.2.2)))).busyReads.contains k) = false
  acq : s.m.acqPending s.uid = false
  uid : (s.reached ((okParts (r.plan f s).all).flatMap (fun ps => ps.filterMap (·.2.2)))).uid = s.uid

end Sys2Proof.Machine

/-- R212 to R214, R218 to R228: a matrix instruction whose checks pass enters the engine's queue with its operands' locations, counts in the tile
class and in its set slot, and records the kind it gives its tile; no tile, register or memory has changed yet. With a false guard it
only moves on; an empty layout raises LYSING.
It says when each of these forms completes: `mma`, `mmag`, `mmld`, `mmst`, `mmz`, `mmdr`, `mmfl`, `mmia`, `mmscl`, `mmcb`, `mmsl`. -/
def Obligations.MatrixIssue : Prop := ∀ r ∈ matrixRows, ∀ (h : Hdr) (f : FX) (s : State),
  (issueFault s h (classOk s .mtx false h.role.toNat && s.wg.launch.mtx) (mxUses (r.ctor h f)) (needs (r.ok f)) = none →
    (s.guardLow h = false → Completes (r.ctor h f) s (Advanced s)) ∧
    (s.guardLow h = true → s.mxFull f = true → exec (r.ctor h f) s = .next s) ∧
    (s.guardLow h = true → s.mxFull f = false → s.hazard (mxUses (r.ctor h f)) = false → s.marked (mxUses (r.ctor h f)) (List.range 16) = false →
      (r.lays f).any (fun x => lyN (s.lreg x) == 0) = true → exec (r.ctor h f) s = .next (s.fault LYSING))) ∧
  (s.guardLow h = true → MxReady s r h f →
    Completes (r.ctor h f) s (fun t =>
      t.m = { s.m.movedTo s.m.path.pc.next s.m.r with outs := s.m.outs ++ [{ id := s.uid, cls := 3, kind := .tile s.uid }] } ∧
      t.wg.mx.acc = s.wg.mx.acc ∧ t.wg.mx.psn = s.wg.mx.psn ∧ t.wg.lregs = s.wg.lregs ∧ t.wg.stop = s.wg.stop ∧
      t.wg.mx.kinds = (match (r.plan f s).kind with | some k => smPut 0 s.wg.mx.kinds f.acc.toNat k | none => s.wg.mx.kinds) ∧
      (∀ k, smGet 0 t.wg.mx.slots k = if f.seten = 1 ∧ k = f.setslot.toNat then smGet 0 s.wg.mx.slots k + 1 else smGet 0 s.wg.mx.slots k) ∧
      ∃ q : MxOp, t.wg.mx.queue = s.wg.mx.queue ++ [q] ∧ q.id = s.uid ∧ q.mem = s.m.id ∧ q.instr = r.ctor h f ∧ q.started = false ∧ q.elems = [] ∧
        q.la.toNat = s.lreg f.la.toNat % 2 ^ 2048 ∧ q.lb.toNat = s.lreg f.lb.toNat % 2 ^ 2048 ∧ q.ld.toNat = s.lreg f.ld.toNat % 2 ^ 2048 ∧
        q.src1 = okSlices (r.plan f s).src1 ∧ q.src2 = okSlices (r.plan f s).src2 ∧ q.sc1 = okSlices (r.plan f s).sc1 ∧
        q.sc2 = okSlices (r.plan f s).sc2 ∧ q.dst = okSlices (r.plan f s).dst ∧ q.setslot = (if f.seten = 1 then some f.setslot.toNat else none)))
/-- R214 to R217, R220 to R229, R333, R346, R352: MATRIX_START starts an instruction whose waits are over; MATRIX_COMPLETE gives every word of its
tile the value R220 to R228 give it from what stands at its operands, ends it and lowers its set slot, other tiles as they were, or, where
it meets poison, writes nothing and reports POISON; MATRIX_WATCHDOG resets an engine that takes 65,536 cycles, and such an instruction no longer completes;
MATRIX_SAVE_LIMIT puts the started instructions of a stopped workgroup whose results do not show back, unstarted, and completes one whose
results show in part.
It says when each of these forms completes: `matrixStart`, `matrixComplete`, `matrixWatchdog`, `matrixSaveLimit`. -/
def Obligations.MatrixEvents : Prop := ∀ (s : State) (core : Nat) (w : Workgroup) (q : MxOp),
  (s.findMx core q.id = some (w, q) → w.wu = s.wg.wu → w = s.wg → w.mx.queue.find? (fun x => x.id = q.id) = some q →
    (q.started = false → waitsOver w q = false → exec (.matrixStart core q.id) s = .next s) ∧
    (q.started = false → waitsOver w q = true → w.stop = .running → q.dst = [] →
      Completes (.matrixStart core q.id) s (fun t => t.m = s.m ∧ t.wg.mx.acc = s.wg.mx.acc ∧ t.mem = s.mem ∧
        t.wg.mx.queue.find? (fun x => x.id = q.id) = some { q with started := true, cycles := 0, snap := (List.range 256).map (fun e => BitVec.ofNat 32 (w.tileWord (fxOf q.instr).acc.toNat e)) })) ∧
    (q.started = false → exec (.matrixComplete core q.id []) s = .next s) ∧
    (q.started = true → 65536 ≤ q.cycles → exec (.matrixComplete core q.id []) s = .next s) ∧
    (q.started = true → q.cycles < 65536 → q.elems = [] → writesTile q.instr = true → q.dst = [] → q.mem = s.m.id → s.m.outs = [{ id := q.id, cls := 3, kind := .tile q.id }] →
      ((tilesRead q.instr).any (fun t => w.mx.psn.contains t) || (q.src1 ++ q.src2 ++ q.sc1 ++ q.sc2).any s.slicePoison) = false →
      Completes (.matrixComplete core q.id []) s (fun t => t.m.r = s.m.r ∧ t.mem = s.mem ∧ t.m.outs = [] ∧ t.m.reports = s.m.reports ∧
        (∀ k e, e < 256 → t.wg.tileWord k e =
          if k = (fxOf q.instr).acc.toNat then mxVal w q (s.mxRead q) e % 2 ^ 32 else s.wg.tileWord k e) ∧
        t.wg.mx.queue = dropFirst (fun x => x.id = q.id) s.wg.mx.queue ∧
        (∀ k, q.setslot = some k → smGet 0 t.wg.mx.slots k = smGet 0 s.wg.mx.slots k - 1))) ∧
    (q.started = true → q.cycles < 65536 → q.elems = [] → q.mem = s.m.id → s.m.outs = [{ id := q.id, cls := 3, kind := .tile q.id }] →
      ((tilesRead q.instr).any (fun t => w.mx.psn.contains t) || (q.src1 ++ q.src2 ++ q.sc1 ++ q.sc2).any s.slicePoison) = true →
      Completes (.matrixComplete core q.id []) s (fun t => t.m.r = s.m.r ∧ t.mem = s.mem ∧ t.wg.mx.acc = s.wg.mx.acc ∧
        t.m.reports = s.m.reports ++ [POISON] ∧ t.wg.mx.queue = dropFirst (fun x => x.id = q.id) s.wg.mx.queue))) ∧
  (s.wg.core = core → s.wg.mx.queue.any (fun q => q.started && decide (65536 ≤ q.cycles)) = true →
    Completes (.matrixWatchdog core) s (fun t => t.wg.mx = {} ∧ (s.wg.members = [] → (∀ o ∈ s.m.outs, o.cls = 3 → ∃ k, o.kind = .tile k) →
      t.m.r = s.m.r ∧ t.mem = s.mem ∧ (s.m.kind = 2 → t.m.mxreset = true)))) ∧
  ((∀ x ∈ s.allWgs, x.core = core → x.mx.queue.any (fun q => q.started && decide (65536 ≤ q.cycles)) = false) →
    exec (.matrixWatchdog core) s = .next s) ∧
  (s.wg.stop = .preempt → 256 ≤ s.wg.stopCyc → (∀ x ∈ s.wg.mx.queue, x.started = true → x.elems = []) →
    Completes (.matrixSaveLimit s.wg.wu) s (fun t => t.m = s.m ∧ t.mem = s.mem ∧ t.wg.mx.acc = s.wg.mx.acc ∧
      t.wg.mx.queue = (s.wg.mx.queue.filter (·.started)).map (fun x => { x with started := false, cycles := 0, snap := [] }) ++
        s.wg.mx.queue.filter (fun x => !x.started))) ∧
  (s.wg.stop = .preempt → 256 ≤ s.wg.stopCyc → s.wg.mx.queue = [q] → q.started = true → q.elems ≠ [] →
    exec (.matrixSaveLimit s.wg.wu) s = exec (.matrixComplete s.wg.core q.id []) s)

/-! ### The team stream, rings and team registers (R233 to R247) -/

namespace Sys2Proof.Machine

/-- A team slot issues: its decode checks pass, the rings and registers it names are its role's, nothing holds it, its sources are clean. -/
def IssuesH (s : State) (h : Hdr) (c : Cls) (uses : List SpecUse) (ok role : Bool) : Bool :=
  Issues s h (classOk s c false h.role.toNat) uses (needs ok) && role && !(s.guardLow h && s.marked uses [lowLane s.active])
/-- A team register as it stands (an instruction reads it as it stood before the cycle: `teamQ`, R239). -/
def State.qNow (s : State) (j : Nat) : W64 := smGet 0 s.wg.shared.q j
/-- A ring of the team of the workgroup in focus. -/
def State.ring (s : State) (k : Nat) : Option Ring := s.wg.team.bind (fun t => t.rings[k]?)
/-- How many rings the team declares. -/
def State.ringCount (s : State) : Nat := (s.wg.team.map (fun x => x.rings.length)).getD 0
/-- The outcome recorded for the executing slot in the entry at the member's position (R236): none yet, or the target or fall-through. -/
def State.recorded (s : State) : Option (Option Pc) :=
  ((s.wg.team.bind (fun t => t.entries.find? (fun e => e.idx = s.m.pos))).bind
    (fun e => e.outcome.find? (fun o => o.1 = s.m.path.pc.slot.toNat))).map (·.2)
/-- The outcomes of the entry at the member's position. -/
def State.outcomes (s : State) : Option (List (Nat × Option Pc)) :=
  (s.wg.team.bind (fun t => t.entries.find? (fun e => e.idx = s.m.pos))).map (·.outcome)
/-- A team-common slot decided `o`: the member follows it, and the entry records it where it had no record yet (R236). -/
structure Decided (s t : State) (o : Option Pc) : Prop where
  out : SameOutside s t
  m : t.m = match o with | some p => { s.m.movedTo p s.m.r with moving := true } | none => s.m.movedTo s.m.path.pc.next s.m.r
  wg : t.wg = { s.wg with team := t.wg.team }
  noted : t.outcomes = if s.recorded.isSome then s.outcomes else s.outcomes.map (· ++ [(s.m.path.pc.slot.toNat, o)])
/-- The team's rings, roles and bounds as they were. -/
def SameRings (s t : State) : Prop :=
  t.wg.team.map (fun x => (x.rings, x.roles, x.qwr, x.driftMax, x.tsync, x.tsPhase)) =
    s.wg.team.map (fun x => (x.rings, x.roles, x.qwr, x.driftMax, x.tsync, x.tsPhase))
/-- The senders of a ring's next instance have all arrived in it with their older writes in place, and a stage is free (R237, R238). -/
def State.stageReady (s : State) (k : Nat) (r : Ring) : Bool :=
  (s.liveRole r.srole).all (fun m => match (r.arrivals.filter (fun a => a.inst = r.sc)).find? (fun a => a.mem = m.id) with
    | none => false
    | some a => s.releaseReady ⟨s.wg.wu, m.id⟩ m a.op 1) && !(s.liveRole r.srole).isEmpty &&
  decide (r.diff r.sc (s.ringRc k r) < r.stages.length)
/-- The register uses of a `hand`. -/
def handUses (f : FH) : List SpecUse :=
  (if f.ren == 1 && !(isQ f.rdst) then [{ spec := f.rdst, wr := true, ok511 := true }] else []) ++
    (if f.sen == 1 then [{ spec := f.sdata, ok511 := true }] else [])
/-- R104, R240: the fields of a `hand`, and rings that the team declares. -/
def handOk (s : State) (h : Hdr) (f : FH) : Bool :=
  let send := f.sen == 1
  let recv := f.ren == 1
  guardAll h && zerosH f true false false recv send true true recv send (send && f.sdata.toNat == 511) && (send || recv) &&
    (!recv || isV f.rdst || isS f.rdst || isQ f.rdst || f.rdst.toNat == 511) && (!send || payloadOk f.sdata) &&
    f.sub.toNat % 8 != 7 && (recv || !(bitN f.sub.toNat 3)) && (!send || decide (f.sring.toNat < s.ringCount)) &&
    (!recv || decide (f.rring.toNat < s.ringCount))
/-- R240: the rings and the team register that a `hand` names are its role's. -/
def handRole (s : State) (h : Hdr) (f : FH) : Bool :=
  (!(f.sen == 1) || s.ringRole f.sring.toNat true == h.role.toNat) && (!(f.ren == 1) || s.ringRole f.rring.toNat false == h.role.toNat) &&
    (!(f.ren == 1) || !(isQ f.rdst) || s.writer (f.rdst.toNat - 320) == h.role.toNat)
/-- The payload that a `hand` sends. -/
def State.payload (s : State) (f : FH) : W64 :=
  if isV f.sdata then (s.rf.rv f.sdata.toNat (lowLane s.active)).setWidth 64 else s.rd64 f.sdata f.himm false (lowLane s.active)
/-- A member has arrived in its next send instance of a ring, and waits at its slot. -/
def ArrivedIn (s t : State) (k : Nat) (rg : Ring) (x : W64) (marker : Bool) : Prop :=
  SameOutside { s with uid := s.uid + 1 } t ∧ t.m.r = s.m.r ∧ t.m.path = s.m.path ∧
  t.m.sending = s.m.sending ++ [(lowLane s.active, k, smGet 0 s.m.sent k)] ∧
  smGet 0 t.m.sent k = (smGet 0 s.m.sent k + 1) % rg.modulus ∧
  t.ring k = some { rg with arrivals := rg.arrivals ++
    [{ inst := smGet 0 s.m.sent k, mem := s.m.id, op := s.uid, payload := x, marker := marker }] }

end Sys2Proof.Machine

/-- R236, R243, R246: a `tbra`, `tloop` or `drift` is decided once per entry: the first member to come evaluates it and records its outcome, the
others follow the record. `tbra` transfers by its team register, `tloop` counts its register down and transfers while it is not zero,
`drift` bounds the distance of the members by its value, at most the launch's.
It says when each of these forms completes: `tbra`, `tloop`, `drift`. -/
def Obligations.TeamCommonResults : Prop := ∀ (h : Hdr) (f : FB) (g : FH) (s : State),
  (IssuesH s h .teamCommon (if f.timeout.toNat == 2 then [] else [{ spec := f.reg }])
      (guardAll h && decide (f.timeout.toNat ≤ 2) && (if f.timeout.toNat == 2 then f.reg == 0 else isQ f.reg) && f.cond == 7 && f.cneg == 0 &&
        f.jofs == 0 && f.jslot == 0 && decide (f.tslot.toNat < 5)) true = true →
    (∀ o, s.recorded = some o ∨ s.recorded = none ∧ o = (if s.tbraTakes f then some (s.target f.tofs f.tslot) else none) →
      (o.isSome = true → s.leaves f.tofs = true → exec (.tbra h f) s = .next (s.fault ILLTARGET)) ∧
      ((o.isSome = true → s.leaves f.tofs = false ∧ s.tgt (s.target f.tofs f.tslot) = true) →
        Completes (.tbra h f) s (fun t => Decided s t o ∧ SameRings s t ∧ t.wg.team.map (·.q) = s.wg.team.map (·.q))))) ∧
  (IssuesH s h .teamCommon [{ spec := f.reg }]
      (guardAll h && f.timeout == 0 && isQ f.reg && f.cond == 7 && f.cneg == 0 && f.jofs == 0 && f.jslot == 0 && decide (f.tslot.toNat < 5))
      (s.writer (f.reg.toNat - 320) == 0) = true →
    (∀ o, s.recorded = some o ∨ s.recorded = none ∧ o = (if teamQ s (f.reg.toNat - 320) = 1 then none else some (s.target f.tofs f.tslot)) →
      (o.isSome = true → s.leaves f.tofs = true → exec (.tloop h f) s = .next (s.fault ILLTARGET)) ∧
      ((o.isSome = true → s.leaves f.tofs = false ∧ s.tgt (s.target f.tofs f.tslot) = true) →
        Completes (.tloop h f) s (fun t => Decided s t o ∧ SameRings s t ∧
          ∀ j, t.qNow j = if s.recorded = none ∧ j = f.reg.toNat - 320 then teamQ s j - 1 else s.qNow j)))) ∧
  (IssuesH s h .teamCommon [] (guardAll h && zerosH g false true false false false false false false false false &&
      decide (1 ≤ g.drift.toNat) && decide (g.drift.toNat ≤ 64)) true = true →
    Completes (.drift h g) s (fun t => SameOutside s t ∧ t.m = s.m.movedTo s.m.path.pc.next s.m.r ∧ SameRings s t ∧
      t.wg.team.map (·.q) = s.wg.team.map (·.q) ∧
      t.wg.team.map (·.drift) = s.wg.team.map (fun x => if s.recorded.isSome then x.drift else min g.drift.toNat x.driftMax)))
/-- R239, R244, R245: `qset` writes a team register of its role and `qget` reads one; a `tsync` arrives once its member's older writes are in
place, waits, and goes on when every member left has arrived.
It says when each of these forms completes: `tsync`, `qset`, `qget`. -/
def Obligations.TeamSyncResults : Prop := ∀ (h : Hdr) (f : FH) (s : State),
  (IssuesH s h .team [{ spec := f.sdata, ok511 := true }]
      (zerosH f false false true false true false false false false (f.sdata.toNat == 511) &&
        (isS f.sdata || isSpecial f.sdata || f.sdata.toNat == 511)) (s.writer f.qreg.toNat == h.role.toNat) = true →
    (s.guardLow h = false → Completes (.qset h f) s (Advanced s)) ∧
    (s.guardLow h = true → Completes (.qset h f) s (fun t => SameOutside s t ∧ t.m = s.m.movedTo s.m.path.pc.next s.m.r ∧ SameRings s t ∧
      ∀ j, t.qNow j = if j = f.qreg.toNat then s.rd64 f.sdata f.himm false (lowLane s.active) else s.qNow j))) ∧
  (IssuesH s h .team [{ spec := f.rdst, wr := true }]
      (zerosH f false false true true false false false false false false && (isS f.rdst || isV f.rdst)) true = true →
    Completes (.qget h f) s (fun t => SameBeside s t ∧ t.m = s.m.movedTo s.m.path.pc.next t.m.r ∧
      (∀ n, t.m.r.rs n = if isS f.rdst = true ∧ s.guardLow h = true ∧ n = f.rdst.toNat - 256 then teamQ s f.qreg.toNat else s.m.r.rs n) ∧
      (∀ n l, l < 32 → t.m.r.rv n l =
        if isS f.rdst = false ∧ l ∈ s.guarded h ∧ n = f.rdst.toNat then (teamQ s f.qreg.toNat).setWidth 32 else s.m.r.rv n l) ∧
      t.m.r.p = s.m.r.p ∧ t.m.r.istat = s.m.r.istat ∧ t.m.r.fstat = s.m.r.fstat)) ∧
  (∀ tm, s.wg.team = some tm → IssuesH s h .teamCommon [] (guardAll h && zerosH f false false false false false false false false false false) true = true →
    let lane := lowLane s.active
    let arrived := s.m.tsWait.find? (fun e => e.1 = lane)
    (∀ e, arrived = some e → tm.tsPhase ≤ e.2 → exec (.tsync h f) s = .next s) ∧
    (∀ e, arrived = some e → e.2 < tm.tsPhase → Completes (.tsync h f) s (fun t => SameBeside s t ∧ t.m.r = s.m.r ∧ t.m.wdCount = 0 ∧
      t.m.path = { s.m.path with pc := s.m.path.pc.next } ∧ t.m.tsWait = s.m.tsWait.filter (fun e => e.1 != lane))) ∧
    (arrived = none → (tm.tsync.contains s.m.id || !(s.releaseReady s.ref s.m s.uid 1)) = true → exec (.tsync h f) s = .next s) ∧
    (arrived = none → tm.tsync.contains s.m.id = false → s.releaseReady s.ref s.m s.uid 1 = true →
      ((∃ m ∈ s.team, m.gone = false ∧ m.id ≠ s.m.id ∧ m.id ∉ tm.tsync) →
        Completes (.tsync h f) s (fun t => SameOutside s t ∧ t.m = { s.m with tsWait := s.m.tsWait ++ [(lane, tm.tsPhase)] } ∧
          t.wg.team.map (fun x => (x.tsync, x.tsPhase)) = some (tm.tsync ++ [s.m.id], tm.tsPhase))) ∧
      ((∀ m ∈ s.team, m.gone = false → m.id = s.m.id ∨ m.id ∈ tm.tsync) →
        Completes (.tsync h f) s (fun t => SameOutside s t ∧ t.m.r = s.m.r ∧ t.m.path = { s.m.path with pc := s.m.path.pc.next } ∧
          t.m.tsWait = s.m.tsWait ∧ t.wg.team.map (fun x => (x.tsync, x.tsPhase)) = some ([], tm.tsPhase + 1)))))
/-- R237, R238, R241, R242: the send part of a `hand`, or an `rdone`, arrives in the member's next instance of its ring, waits while that is not
written, and ends; the receive part waits for a stage it has not read, takes its payload unless it is the end marker, says in its
predicate which it was, and counts it as read. RING_STAGE_WRITE writes the next instance, from the lowest-numbered sender's arrival,
once every sender left has arrived and a stage is free.
It says when each of these forms completes: `hand`, `rdone`, `ringStageWrite`. -/
def Obligations.RingResults : Prop := ∀ (h : Hdr) (f : FH) (s : State),
  (IssuesH s h .team (handUses f) (handOk s h f) (handRole s h f) = true →
    (∀ rg, f.sen = 1 → s.sendEntry = none → s.ring f.sring.toNat = some rg →
      Completes (.hand h f) s (fun t => ArrivedIn s t f.sring.toNat rg (s.payload f) false)) ∧
    (∀ e, f.sen = 1 → s.sendEntry = some e → s.written e.2.1 e.2.2 = false → exec (.hand h f) s = .next s) ∧
    (∀ e, f.sen = 1 → f.ren = 0 → s.sendEntry = some e → s.written e.2.1 e.2.2 = true →
      Completes (.hand h f) s (fun t => SameBeside s t ∧ t.m.r = s.m.r ∧ t.m.path = { s.m.path with pc := s.m.path.pc.next } ∧
        t.m.sending = s.m.sending.filter (fun e => e.1 != lowLane s.active) ∧ t.m.wdCount = s.m.wdCount)) ∧
    (∀ rg, f.ren = 1 → (f.sen = 0 ∨ ∃ e, s.sendEntry = some e ∧ s.written e.2.1 e.2.2 = true) → s.ring f.rring.toNat = some rg →
      let ri := smGet 0 s.m.ri f.rring.toNat
      let st := rg.stages.getD (ri % rg.stages.length) {}
      (rg.diff rg.sc ri = 0 → exec (.hand h f) s = .next s) ∧
      (rg.diff rg.sc ri ≠ 0 → Completes (.hand h f) s (fun t => SameOutside s t ∧ t.m.path = { s.m.path with pc := s.m.path.pc.next } ∧
        smGet 0 t.m.ri f.rring.toNat = (ri + 1) % rg.modulus ∧ t.m.wdCount = s.m.wdCount ∧
        t.m.sending = s.m.sending.filter (fun e => e.1 != lowLane s.active) ∧
        (∀ n l, l < 32 → t.m.r.rv n l = if f.rdst.toNat < 256 ∧ st.marker = false ∧ n = f.rdst.toNat ∧ l ∈ lanesOf s.active then
          st.desc.setWidth 32 else s.m.r.rv n l) ∧
        (∀ n, t.m.r.rs n = if isS f.rdst = true ∧ st.marker = false ∧ n = f.rdst.toNat - 256 then st.desc else s.m.r.rs n) ∧
        (∀ j, t.qNow j = if isQ f.rdst = true ∧ st.marker = false ∧ j = f.rdst.toNat - 320 then st.desc else s.qNow j) ∧
        (∀ n l, n < 7 → l < 32 → (t.m.r.rp n).getLsbD l = if bitN f.sub.toNat 3 = true ∧ n = f.sub.toNat % 8 ∧ l ∈ lanesOf s.active then
          !st.marker else (s.m.r.rp n).getLsbD l))))) ∧
  (IssuesH s h .team [] (guardAll h && zerosH f false false false false false false true false true false && f.sen == 1 &&
      decide (f.sring.toNat < s.ringCount))
      (s.ringRole f.sring.toNat true == h.role.toNat) = true →
    (∀ rg, s.sendEntry = none → s.ring f.sring.toNat = some rg → Completes (.rdone h f) s (fun t => ArrivedIn s t f.sring.toNat rg 0 true)) ∧
    (∀ e, s.sendEntry = some e → s.written e.2.1 e.2.2 = false → exec (.rdone h f) s = .next s) ∧
    (∀ e, s.sendEntry = some e → s.written e.2.1 e.2.2 = true →
      Completes (.rdone h f) s (fun t => SameBeside s t ∧ t.m.r = s.m.r ∧ t.m.path = { s.m.path with pc := s.m.path.pc.next } ∧
        t.m.sending = s.m.sending.filter (fun e => e.1 != lowLane s.active) ∧ t.m.wdCount = s.m.wdCount))) ∧
  (∀ k rg, s.ring k = some rg →
    (s.stageReady k rg = false → exec (.ringStageWrite s.wg.wu k) s = .next s) ∧
    (∀ m a, s.stageReady k rg = true → m ∈ s.liveRole rg.srole → (∀ x ∈ s.liveRole rg.srole, m.id ≤ x.id) →
      (rg.arrivals.filter (fun a => a.inst = rg.sc)).find? (fun a => a.mem = m.id) = some a →
      Completes (.ringStageWrite s.wg.wu k) s (fun t => SameOutside s t ∧ t.m = s.m ∧
        t.ring k = some { rg with
          rc := s.ringRc k rg
          sc := (rg.sc + 1) % rg.modulus
          stages := setAt rg.stages (rg.sc % rg.stages.length)
            { desc := a.payload, marker := a.marker, phase := !(rg.stages.getD (rg.sc % rg.stages.length) {}).phase }
          arrivals := rg.arrivals.filter (fun a => a.inst != rg.sc) })))

/-! ### Engine commands (R248 to R276) -/

namespace Sys2Proof.Machine

/-- A command that executes passes its decode checks, nothing named holds it, its sources are clean (R96, R248). -/
def IssuesC (s : State) (h : Hdr) (f : FC) (a b ok : Bool) : Bool :=
  Issues s h (classOk s .eng false h.role.toNat) (engUses f a (b || f.ctgt == 1)) (needs ok) && s.guardLow h &&
  !(s.marked (engUses f a (b || f.ctgt == 1)) [lowLane s.active])
/-- From a state u, a counted command has entered its engine (R252): numbered by the next number; counted among the member's operations,
or, for a target node, in that node's bytes; the path has moved on; all else is as it was. -/
structure EngEntered (u t : State) (f : FC) (fn bytes : Nat) (node : Option (NRef × Nat)) (mk : EngOp → EngOp) : Prop where
  out : SameOutside { u with eng := t.eng, uid := u.uid + 1 } t
  wg : t.wg = u.wg
  m : t.m = { u.m.movedTo u.m.path.pc.next u.m.r with
    outs := if node.isNone then u.m.outs ++ [{ id := u.uid, cls := 2, kind := .engine u.uid }] else u.m.outs }
  eng : t.eng = { u.eng with
    ops := u.eng.ops ++ [mk { (u.engOp f fn) with node := node, expect := 8 * bytes }]
    nodes := match node with
      | none => u.eng.nodes
      | some (r, g) => replaceFirst (fun n => n.ref = r) (fun x => if x.gen = g then { x with bytes := x.bytes + bytes } else x) u.eng.nodes }
/-- A copying command: its slot, its engine, its own CMOD, whether it stages, its rounding. -/
def copyInstr (k : CopyKind) (h : Hdr) (f : FC) : Instr :=
  match k with | .cpy => .cpy h f | .cpyx => .cpyx h f | .cpyr => .cpyr h f | .gath => .gath h f
/-- The CMOD values a copying command allows. -/
def copyCmod (k : CopyKind) (f : FC) : Bool :=
  match k with
  | .cpy => decide (f.cmod.toNat < 2)
  | .cpyx => decide (f.cmod.toNat < 4)
  | .cpyr => bitsN f.cmod.toNat 1 1 == 0 && decide (f.cmod.toNat < 16)
  | .gath => decide (f.cmod.toNat < 2)
/-- `.stage` of a `cpyx`. -/
def copyStage (k : CopyKind) (f : FC) : Bool := k == .cpyx && bitN f.cmod.toNat 1
/-- The rounding of a `cpyr`. -/
def copyRnd (k : CopyKind) (f : FC) : Nat := if k == .cpyr then bitsN f.cmod.toNat 2 3 else 0
/-- The engine of a copying command. -/
def copyFn (k : CopyKind) : Nat := if k == .gath then 2 else 0
/-- The address of a copying command's descriptor. -/
def State.descAddr (s : State) (f : FC) : Nat := if bitN f.cmod.toNat 0 then f.imm.toNat else wrapN 64 (s.engSrc f.srca + f.imm.toInt)
/-- The virtual addresses a copy reaches. -/
def CopyPlan.allVas (p : CopyPlan) (hv : List Nat) : List Nat := hv ++ p.vas ++ (p.reads ++ p.writes).flatMap accessVas
/-- No page that a copy reaches waits for a place in its migration engine once the pages have been touched (R330). -/
def State.migRoomFor (s : State) (vas : List Nat) : Bool := !((pagesOf vas).any ((s.touchAll (pagesOf vas)).1.migWaits s.wg.ctx))
/-- A synchronous command has replied (R248). -/
def Replied (s t : State) (f : FC) (x : Nat) : Prop := if f.noreply = 1 then Advanced s t else FieldRead s t f.reply x
/-- A node has been made in the lowest free slot and its id replied, or, with no slot free, 0 (R270). -/
def NodeMade (u t : State) (f : FC) (n : Node) : Prop :=
  match u.freeSlot u.wg.ctx (dieOf u.wg.core) with
  | none => Replied u t f 0
  | some k => Replied (u.addNode { n with ref := ⟨u.wg.ctx, dieOf u.wg.core, k⟩ }) t f
      (k * 4096 + smGet 0 u.eng.gens (slotKey ⟨u.wg.ctx, dieOf u.wg.core, k⟩))
/-- The node that a `tnode` record describes. -/
def State.recordNode (s : State) (bs : List Byte) : Node :=
  { ref := ⟨0, 0, 0⟩, gen := 0, st := .held, tag := wordAt bs 0 / 2 ^ 32, pred := bitsN (wordAt bs 0) 16 16, kind := wordAt bs 0 % 4
    desc := wordAt bs 1, owner := s.ref, flt := fltBody s.wg s.m s.m.curB s.m.path.pc { code := POISON } false }
/-- A `tnode` record has no field out of order (R270). -/
def nodeRecOk (bs : List Byte) : Bool :=
  bitsN (wordAt bs 0) 2 14 == 0 && wordAt bs 0 % 4 != 3 && !((bs.drop 16).any (· != 0)) && !(wordAt bs 0 % 4 == 0 && wordAt bs 1 != 0)
/-- A run of passes may start (R52, R251): every location passes, no relayout is in the way, no register of the member is in use. -/
def State.rlyReady (s : State) (y : RlySt) : Bool :=
  (firstBad (s.footprint (y.x, y.img) ++ s.entryWrite y.x)).isNone &&
  !((okParts (s.footprint (y.x, y.img))).flatten.any (fun p => s.lyHit none p.2.1 p.2.2)) &&
  !((sliceRegs s.ref (okSlices (s.footprint (y.x, y.img)))).any (fun r => s.busyWrites.contains r || s.busyReads.contains r))
/-- The pages that a run of passes reaches. -/
def State.rlyVas (s : State) (y : RlySt) (vas : List Nat) : List Nat :=
  pagesOf (vas ++ (okParts (s.footprint (y.x, y.img))).flatten.filterMap (·.2.2))
/-- A relayout as its run starts. -/
def State.rlyBegun (s : State) (y : RlySt) : RlySt := { y with locs := okSlices (s.footprint (y.x, y.img)), left := groupNos y.img y.plan y.pass }
/-- The relayout that the plain form of `rly` asks for (R263). -/
def State.rlyAsked (s : State) (f : FC) (tx ty : Tensor) : RlySt :=
  let plan := planOf (lyIdle tx.2) (lyMat ty.2)
  let k := bitsN f.cmod.toNat 0 4
  { x := tx.1, target := ty.1, img := lyIdle tx.2, timg := ty.2, plan, pass := 1, stopAfter := if k < plan.length then k else 0, locs := [], left := []
    entry := s.entryPa (bitN f.imm.toNat 4) (s.engSrc f.srca % 2 ^ 32), nohole := bitN f.cmod.toNat 5 }

end Sys2Proof.Machine

/-- R248, R249, R256 to R262, R330, R331: `cpy`, `cpyx`, `cpyr` and `gath` whose descriptor, layouts and locations pass their checks enter the
engines that serve their locations with their moves and events, counted, with the bytes they write expected; a wrong descriptor raises
ILLOP; while the counter or an engine needed is full the command waits.
It says when each of these forms completes: `cpy`, `cpyx`, `cpyr`, `gath`. -/
def Obligations.CopyIssue : Prop := ∀ (k : CopyKind) (h : Hdr) (f : FC) (s : State),
  IssuesC s h f (!(bitN f.cmod.toNat 0)) false (engOk f (!(bitN f.cmod.toNat 0)) false true (copyCmod k f) true .opt) = true →
  (s.engFull f = true → exec (copyInstr k h f) s = .next s) ∧
  (∀ bs, s.engFull f = false → s.syncOk (bitN f.cmod.toNat 0) 0 (s.descAddr f) 160 32 bs →
    let u := s.syncState (bitN f.cmod.toNat 0) 0 (s.descAddr f) 160
    let d := copyDesc bs
    (copyDescOk k (copyStage k f) bs = false → exec (copyInstr k h f) s = .next (u.fault ILLOP)) ∧
    (∀ ts td lt hv p node, copyDescOk k (copyStage k f) bs = true → u.copyTensors k d = .ok (ts, td, lt, hv) → u.copyFits k d ts.2 td.2 lt.2 = true →
      ((k = .cpyx ∨ k = .gath) → d.lsrc = false → u.busyWrites.contains d.vidx = false) →
      u.planCopy k (copyStage k f) (copyRnd k f) d ts td lt = .ok p → firstBad (p.reads ++ p.writes) = none → u.copyHeld k d p = false →
      u.m.acqPending u.uid = false → u.replyBusy f = false → u.targetNode f = some node →
      (u.unitsFull (u.planUnits k true p) = true → exec (copyInstr k h f) s = .next u) ∧
      (u.unitsFull (u.planUnits k true p) = false → u.migRoomFor (p.allVas hv) = true → (u.reached (p.allVas hv)).targetNode f = some node →
        Completes (copyInstr k h f) s (fun t => EngEntered (u.reached (p.allVas hv)) t f (copyFn k) ((p.points * lyS td.2 + 7) / 8) node
          (fun e => { e with moves := p.moves, events := p.events, value := (p.points * lyS td.2 + 7) / 8
                             units := (u.reached (p.allVas hv)).planUnits k true p, image := bs })))))
/-- R261, R266 to R268, R273, R330: `pgal`, `pgfr`, `pgsw`, `mig` and `tcancel` whose records and addresses pass their checks enter their engine with
the work they ask for; a record with a field out of order raises ILLOP, an unaligned address ALIGN.
It says when each of these forms completes: `pgal`, `pgfr`, `pgsw`, `mig`, `tcancel`. -/
def Obligations.PageCommandIssue : Prop := ∀ (h : Hdr) (f : FC) (s : State),
  (IssuesC s h f true false (engOk f true false true (f.cmod == 0) false .opt) = true → s.engFull f = false →
    ∀ hd, s.syncOk false 0 (s.engAddr f) 8 8 hd →
    let u := s.syncState false 0 (s.engAddr f) 8
    let w := leNat hd
    ((w / 2 ^ 12 ≠ 0 ∨ bitsN w 6 2 ≠ 0 ∨ w % 64 = 0 ∨ 32 < w % 64) → exec (.pgal h f) s = .next (u.fault ILLOP)) ∧
    (∀ bs, w / 2 ^ 12 = 0 → bitsN w 6 2 = 0 → w % 64 ≠ 0 → w % 64 ≤ 32 → u.syncOk false 0 (u.engAddr f) (8 + 16 * (w % 64)) 1 bs →
      let v := u.syncState false 0 (u.engAddr f) (8 + 16 * (w % 64))
      let seqs := (List.range (w % 64)).map (fun k => (wordAt bs (1 + 2 * k), wordAt bs (2 + 2 * k)))
      let as := seqs.map (fun q => v.tableParts q.2 q.1)
      let vas := pagesOf (as.flatten.flatMap accessVas)
      seqs.any (fun q => decide (4096 < q.1) || q.2 % 4 != 0) = false → (smFind v.ctx.pools (bitsN w 8 4)).isSome = true →
      let us := v.copyUnits (dieOf v.wg.core) ((okSlices as.flatten).flatten.map (·.2))
      firstBad as.flatten = none → v.writesBusy as.flatten = false → v.replyBusy f = false → v.unitsFull us = false → v.pagesReady vas = true →
      Completes (.pgal h f) s (fun t => EngEntered (v.reached vas) t f 0 1 none (fun e => { e with
        units := us
        work := .alloc (bitsN w 8 4) ((List.range (w % 64)).map (fun k => ((seqs.getD k (0, 0)).1, okSlices (as.getD k [])))) 0 }))) ∧
    ((w % 256 ≠ 0 ∨ bitsN w 12 20 ≠ 0 ∨ bitsN w 48 16 ≠ 0 ∨ bitsN w 32 16 = 0 ∨ 4096 < bitsN w 32 16) →
      exec (.pgfr h f) s = .next (u.fault ILLOP)) ∧
    (∀ bs, w % 256 = 0 → bitsN w 12 20 = 0 → bitsN w 48 16 = 0 → bitsN w 32 16 ≠ 0 → bitsN w 32 16 ≤ 4096 →
      u.syncOk false 0 (u.engAddr f) (8 + 4 * bitsN w 32 16) 1 bs →
      let v := u.syncState false 0 (u.engAddr f) (8 + 4 * bitsN w 32 16)
      (smFind v.ctx.pools (bitsN w 8 4)).isSome = true → v.replyBusy f = false → v.unitsFull (v.copyUnits (dieOf v.wg.core) []) = false →
      Completes (.pgfr h f) s (fun t => EngEntered v t f 0 1 none (fun e => { e with
        units := v.copyUnits (dieOf v.wg.core) []
        work := .free (bitsN w 8 4) ((List.range (bitsN w 32 16)).map (fun k => leNat ((bs.drop (8 + 4 * k)).take 4))) })))) ∧
  (IssuesC s h f true true (engOk f true true (decide (1 ≤ f.imm.toNat) && decide (f.imm.toNat ≤ 256)) (f.cmod == 0) false .none) = true →
    s.engFull f = false →
    let ta := s.swapTable (s.engSrc f.srca) f.imm.toNat
    let tb := s.swapTable (s.engSrc f.srcb) f.imm.toNat
    let vas := pagesOf ((ta ++ tb).flatMap accessVas)
    let us := s.copyUnits (dieOf s.wg.core) ((okSlices (ta ++ tb)).flatten.map (·.2))
    (s.engSrc f.srca % 4 ≠ 0 → exec (.pgsw h f) s = .next (s.faultAt (ALIGN, 0) (s.engSrc f.srca))) ∧
    (s.engSrc f.srca % 4 = 0 → s.engSrc f.srcb % 4 = 0 → firstBad (ta ++ tb) = none → s.writesBusy (ta ++ tb) = false →
      s.unitsFull us = false → s.pagesReady vas = true →
      Completes (.pgsw h f) s (fun t => EngEntered (s.reached vas) t f 0 1 none (fun e => { e with
        units := us, moves := [{ srcs := okSlices (ta ++ tb), dsts := okSlices (tb ++ ta), xf := .swap }] })))) ∧
  (IssuesC s h f true false (engOk f true false (f.imm.toNat != 0) (decide (f.cmod.toNat < 4) && (bitN f.cmod.toNat 0 || !(bitN f.cmod.toNat 1))) true
      .opt) = true → s.engFull f = false →
    (s.engSrc f.srca % 65536 ≠ 0 → exec (.mig h f) s = .next (s.faultAt (ALIGN, 0) (s.engSrc f.srca))) ∧
    (s.engSrc f.srca % 65536 = 0 → s.migFault (s.engSrc f.srca) f.imm.toNat = none →
      (s.targetNode f = none → exec (.mig h f) s = .next (s.faultAt (PERM, 2) 0)) ∧
      (∀ node, s.targetNode f = some node → Completes (.mig h f) s (fun t => EngEntered s t f 3 (65536 * f.imm.toNat) node (fun e => { e with
        work := .migrate (s.migPages (s.engSrc f.srca) f.imm.toNat) (bitN f.cmod.toNat 0) (bitN f.cmod.toNat 1) s.wg.launch.dev }))))) ∧
  (IssuesC s h f true false (engOk f true false (f.imm == 0) (f.cmod == 0) false .opt) = true → s.engFull f = false →
    Completes (.tcancel h f) s (fun t => EngEntered s t f 4 1 none (fun e => { e with work := .cancel (s.engSrc f.srca) })))
/-- R50, R52 to R54, R208, R251, R263 to R265, R331: `rly` of an idle layout starts its passes, its image pending; with nothing to do it sets the target's image
and completes; `.go` of an idle layout completes at once. `rlyw` replies how far a relayout has come once it has come far
enough. `rlyp` writes the plan's record.
It says when each of these forms completes: `rly`, `rlyw`, `rlyp`. -/
def Obligations.RelayoutCommandResults : Prop := ∀ (h : Hdr) (f : FC) (s : State),
  (let hx := bitN f.imm.toNat 4
   let go := bitN f.cmod.toNat 4
   let hy := bitN f.imm.toNat 12 && !go
   IssuesC s h f hx hy (engOk f hx hy (rlyFields f) true false .opt) = true → s.engFull f = false →
   ∀ tx vx, s.engTensor hx (rlyX f) (s.engSrc f.srca % 2 ^ 32) [18] = .ok (tx, vx) →
   (go = true → (s.eng.ops.any (fun e => match e.rly with | some y => decide (y.x = tx.1) | none => false)) = false → lyPstate tx.2 = 0 →
     Completes (.rly h f) s (fun t => EngEntered s t f 1 1 none (fun e => { e with value := 0 }))) ∧
   (∀ ty vy, go = false → s.engTensor (bitN f.imm.toNat 12) (rlyY f) (s.engSrc f.srcb % 2 ^ 32) [] = .ok (ty, vy) →
     (sameButMatrix tx.2 ty.2 = false → exec (.rly h f) s = .next (s.fault LYSING)) ∧
     (sameButMatrix tx.2 ty.2 = true →
       4 < (touchedLevels (lyIdle tx.2) (changeOf (lyN (lyIdle tx.2)) (lyMat (lyIdle tx.2)) (lyMat ty.2))).length →
       exec (.rly h f) s = .next (s.fault LYDEEP)) ∧
     (sameButMatrix tx.2 ty.2 = true →
       (touchedLevels (lyIdle tx.2) (changeOf (lyN (lyIdle tx.2)) (lyMat (lyIdle tx.2)) (lyMat ty.2))).length ≤ 4 →
       let y := s.rlyAsked f tx ty
       (y.plan = [] → firstBad (s.footprint (tx.1, y.img) ++ s.entryWrite tx.1) = none → (s.busyRef tx.1 tx.2 || s.busyRef ty.1 ty.2) = false →
         Completes (.rly h f) s (fun t => EngEntered (s.setImage tx.1 y.entry (lyFinal y.img ty.2) (some (quadOf s.wg.core))) t f 1 1 none
           (fun e => { e with value := 0 }))) ∧
       (y.plan ≠ [] → (s.busyRef tx.1 tx.2 || s.busyRef ty.1 ty.2) = true → firstBad (s.footprint (tx.1, y.img) ++ s.entryWrite tx.1) = none →
         exec (.rly h f) s = .next (s.fault LYBUSY)) ∧
       (y.plan ≠ [] → (s.busyRef tx.1 tx.2 || s.busyRef ty.1 ty.2) = false → s.rlyReady y = true →
         s.unitsFull (s.rlyUnitsOf (s.footprint (tx.1, y.img))) = false → s.pagesReady (s.rlyVas y (vx ++ vy)) = true →
         Completes (.rly h f) s (fun t => EngEntered
           ((s.reached (s.rlyVas y (vx ++ vy))).noteRly (s.rlyBegun y) 1 1 (some (quadOf (s.reached (s.rlyVas y (vx ++ vy))).wg.core))) t f 1 1 none
           (fun e => { e with rly := some (s.rlyBegun y), value := y.plan.length, units := s.rlyUnitsOf (s.footprint (tx.1, y.img)) })))))) ∧
  (let hx := bitN f.imm.toNat 4
   let k := bitsN f.imm.toNat 8 4
   IssuesC s h f hx false (engOk f hx false
      (bitsN f.imm.toNat 12 20 == 0 && bitsN f.imm.toNat 5 3 == 0 && (!hx || bitsN f.imm.toNat 0 4 == 0) && k != 0) (f.cmod == 0) false .must) = true →
   ∀ tn vs, s.engTensor hx (bitsN f.imm.toNat 0 4) (s.engSrc f.srca % 2 ^ 32) [] = .ok (tn, vs) →
   (s.rlyState tn = none → Completes (.rlyw h f) s (fun t => Replied (s.showLayout tn) t f 16)) ∧
   (∀ d paused, s.rlyState tn = some (d, paused) →
     ((paused = true ∨ k ≤ d) → Completes (.rlyw h f) s (fun t => Replied (s.showLayout tn) t f d)) ∧
     (paused = false → d < k → exec (.rlyw h f) s = .next s))) ∧
  (let img := s.lreg (rlyX f)
   let timg := s.lreg (rlyY f)
   let a := s.engSrc f.srca
   let plan := planOf (lyIdle img) (lyMat timg)
   IssuesC s h f true false (engOk f true false
      (bitsN f.imm.toNat 17 15 == 0 && bitsN f.imm.toNat 12 4 == 0 && bitsN f.imm.toNat 4 4 == 0 && (!(bitN f.imm.toNat 16) || rlyY f == 0))
      (f.cmod == 0) false .opt) = true → s.engFull f = false →
   (lyN img = 0 → exec (.rlyp h f) s = .next (s.fault LYSING)) ∧
   (∀ ps, lyN img ≠ 0 → bitN f.imm.toNat 16 = false → lyN timg ≠ 0 → sameButMatrix (lyIdle img) timg = true →
     (touchedLevels (lyIdle img) (changeOf (lyN (lyIdle img)) (lyMat (lyIdle img)) (lyMat timg))).length ≤ 4 → a % 32 = 0 →
     s.parts 0 a (planRecord (lyN (lyIdle img)) plan).length 2 = .ok ps → ps.any (fun p => s.lyHit none p.2.1 p.2.2) = false →
     s.unitsFull (s.rlyUnits (dieOf s.wg.core) none) = false → s.pagesReady (pagesOf (ps.filterMap (·.2.2))) = true →
     Completes (.rlyp h f) s (fun t => EngEntered (s.reached (pagesOf (ps.filterMap (·.2.2)))) t f 1 1 none (fun e => { e with
       moves := constMoves ps (planRecord (lyN (lyIdle img)) plan), value := plan.length, units := s.rlyUnits (dieOf s.wg.core) none }))))
/-- R110, R269 to R272: `cop` raises ENGFN; `tres` replies what its page's leaf says; `tnode` makes an empty, kernel or copy node;
`tedge` joins two nodes that have not launched; `tlaunch` arms a held one.
It says when each of these forms completes: `tres`, `tnode`, `tedge`, `tlaunch`, `cop`. -/
def Obligations.GraphCommandResults : Prop := ∀ (h : Hdr) (f : FC) (s : State),
  (∀ grp : BitVec 3, h.guard.toNat < 8 → ¬(h.neg = 1 ∧ h.guard = 7) → classOk s .eng false h.role.toNat = true →
    exec (.cop grp h f) s = .next (s.fault ENGFN)) ∧
  (IssuesC s h f true false (engOk f true false (f.imm == 0) (f.cmod == 0) false .must) = true →
    (∀ c, s.walk s.wg.ctx (s.engSrc f.srca) = .error c → Completes (.tres h f) s (fun t => Replied s t f (2 ^ 63))) ∧
    (∀ e large ea, s.walk s.wg.ctx (s.engSrc f.srca) = .ok (e, large, ea) → Completes (.tres h f) s (fun t => Replied s.tick t f (tresWord s e large))) ∧
    (∀ bs, s.syncOk false 0 (s.engSrc f.srca) 64 64 bs →
      let u := s.syncState false 0 (s.engSrc f.srca) 64
      (nodeRecOk bs = false → exec (.tnode h f) s = .next (u.fault ILLOP)) ∧
      (nodeRecOk bs = true → wordAt bs 0 % 4 = 0 → Completes (.tnode h f) s (fun t => NodeMade u t f (u.recordNode bs))) ∧
      (∀ l, nodeRecOk bs = true → wordAt bs 0 % 4 = 1 → wordAt bs 1 % 64 = 0 →
        u.takeLaunch u.wg.ctx (devOf u.ctx.mode (dieOf u.wg.core)) (wordAt bs 1) = .ok l →
        Completes (.tnode h f) s (fun t => NodeMade u t f { (u.recordNode bs) with launch := l })) ∧
      (∀ ds ts td lt hv p, nodeRecOk bs = true → wordAt bs 0 % 4 = 2 → u.syncOk false 0 (wordAt bs 1) 160 32 ds →
        let v := u.syncState false 0 (wordAt bs 1) 160
        let d := copyDesc ds
        copyDescOk .cpy false ds = true → d.sh = true → d.dh = true → v.copyTensors .cpy d = .ok (ts, td, lt, hv) → v.copyFits .cpy d ts.2 td.2 lt.2 = true →
        v.planCopy .cpy false 0 d ts td lt = .ok p → firstBad (p.reads ++ p.writes) = none → v.copyHeld .cpy d p = false →
        v.m.acqPending v.uid = false → v.migRoomFor (p.allVas hv) = true →
        Completes (.tnode h f) s (fun t => NodeMade (v.reached (p.allVas hv)) t f { (u.recordNode bs) with
          engMoves := p.moves, expect := 8 * ((p.points * lyS td.2 + 7) / 8) })))) ∧
  (IssuesC s h f true true (engOk f true true (f.imm == 0) (f.cmod == 0) false .none) = true →
    (s.nodeById (s.engSrc f.srcb) = none → exec (.tedge h f) s = .next (s.faultAt (PERM, 2) 0)) ∧
    (∀ a b, s.nodeById (s.engSrc f.srcb) = some b → b.st ≠ .launched → s.nodeById (s.engSrc f.srca) = some a → a.succs.length < 64 →
      a.ref ≠ b.ref → Completes (.tedge h f) s (fun t => t.m = s.m.movedTo s.m.path.pc.next s.m.r ∧ t.wg = s.wg ∧ t.mem = s.mem ∧
        (∀ x, s.findNode a.ref = some x → t.findNode a.ref = some { x with succs := x.succs ++ [(b.ref, b.gen)] }) ∧
        (∀ x, s.findNode b.ref = some x → t.findNode b.ref = some { x with pred := x.pred + 1 }) ∧
        (∀ r, r ≠ a.ref → r ≠ b.ref → t.findNode r = s.findNode r)))) ∧
  (IssuesC s h f true false (engOk f true false (f.imm == 0) (f.cmod == 0) false .none) = true →
    (s.nodeById (s.engSrc f.srca) = none → Completes (.tlaunch h f) s (Advanced s)) ∧
    (∀ n, s.nodeById (s.engSrc f.srca) = some n → Completes (.tlaunch h f) s (fun t => t.m = s.m.movedTo s.m.path.pc.next s.m.r ∧ t.wg = s.wg ∧
      t.mem = s.mem ∧
      (∀ x, s.findNode n.ref = some x → n.st = .held → t.findNode n.ref = some { x with st := .armed }) ∧
      (∀ r, n.st ≠ .held ∨ r ≠ n.ref → t.findNode r = s.findNode r))))
/-- R48, R274 to R276: `hnew` writes an entry in the lowest free slot of the handle table and replies its handle; `hdel` of a live handle raises its
slot's generation and clears the entry's validity; `hchk` replies what a handle stands for, 0 for a slot outside the table.
It says when each of these forms completes: `hnew`, `hdel`, `hchk`. -/
def Obligations.HandleCommandResults : Prop := ∀ (h : Hdr) (f : FC) (s : State),
  (IssuesC s h f true false (engOk f true false (f.imm == 0) (f.cmod == 0) false .must) = true →
    (∀ bs, s.syncOk false 0 (s.engSrc f.srca) 512 1 bs →
      let u := s.syncState false 0 (s.engSrc f.srca) 512
      (entryZeros bs = false → exec (.hnew h f) s = .next (u.fault ILLOP)) ∧
      (entryZeros bs = true → (lyWellFormed (entryImg bs) = false ∨ lyPstate (entryImg bs) ≠ 0) → exec (.hnew h f) s = .next (u.fault LYSING)) ∧
      (entryZeros bs = true → lyWellFormed (entryImg bs) = true → lyPstate (entryImg bs) = 0 →
        (u.freeHandle (2 ^ 20) 1 = .ok none → Completes (.hnew h f) s (fun t => Replied u t f 0)) ∧
        (∀ k gen ps, u.freeHandle (2 ^ 20) 1 = .ok (some (k, gen)) → u.parts 1 (u.entryVa k) 512 2 = .ok ps →
          u.pagesReady (pagesOf (ps.filterMap (·.2.2))) = true →
          Completes (.hnew h f) s (fun t => Replied ((u.reached (pagesOf (ps.filterMap (·.2.2)))).putTable ps (bs.take 288 ++
            leBytes 8 (putBits (putBits (entryWord bs) 20 6 (partOf u.wg.ctx)) 0 13 (4096 + gen)) ++ bs.drop 296)) t f (k * 4096 + gen))))) ∧
    (let slot := hSlot (s.engSrc f.srca % 2 ^ 32)
     ((slot = 0 ∨ s.ctx.htsize ≤ slot) → Completes (.hchk h f) s (fun t => Replied s t f 0)) ∧
     (∀ p, slot ≠ 0 → slot < s.ctx.htsize → s.peek 1 (s.entryVa slot) 512 = .ok p → p.psn = false →
       let w := entryWord p.bytes
       let live := bitN w 12 && bitsN w 0 12 == hGen (s.engSrc f.srca % 2 ^ 32)
       Completes (.hchk h f) s (fun t => Replied s t f (b2n (lyPstate (entryImg p.bytes) != 0) * 64 + b2n (bitsN w 20 6 == partOf s.wg.ctx) * 32 +
         b2n live * 16 + (if live then bitsN w 16 4 else 0)))))) ∧
  (IssuesC s h f true false (engOk f true false (f.imm == 0) (f.cmod == 0) false .none) = true →
    let hd := s.engSrc f.srca % 2 ^ 32
    (∀ e, s.handle hd [] = .error e → exec (.hdel h f) s = .next (s.faultAt e 0)) ∧
    (∀ p ps, s.handle hd [] = .ok p →
      (s.busyRef (.handle s.wg.ctx (hSlot hd)) (entryImg p.bytes) = true → s.parts 1 (s.entryVa (hSlot hd) + 288) 8 2 = .ok ps →
        exec (.hdel h f) s = .next (s.fault LYBUSY)) ∧
      (s.busyRef (.handle s.wg.ctx (hSlot hd)) (entryImg p.bytes) = false → s.parts 1 (s.entryVa (hSlot hd) + 288) 8 2 = .ok ps →
        s.pagesReady (pagesOf (ps.filterMap (·.2.2))) = true → hGen hd ≠ 4095 →
        Completes (.hdel h f) s (Advanced ((s.reached (pagesOf (ps.filterMap (·.2.2)))).putTable ps
          (leBytes 8 (putBits (entryWord p.bytes) 0 13 (hGen hd + 1))))))))
/-- R50, R52, R53, R251 to R253, R260, R297: a move of a command lands, its value read now, and counts off; a command appends its events, and when
nothing of it is left it retires with its reply and report; a commit moves the contents of one exchange group, the last one of the
last pass leaving the layout with the target's image, the last one before a stop leaving it paused.
It says when each of these forms completes: `engineWriteLand`, `engineCompletion`, `relayoutGroupCommit`. -/
def Obligations.EngineEvents : Prop := ∀ (s : State) (e : EngOp), s.eng.ops.find? (fun x => x.id = e.id) = some e →
  (∀ k mv, e.moves[k]? = some mv → s.mayLand e mv = false → exec (.engineWriteLand e.id k) s = .next s) ∧
  (∀ k mv c a n, e.moves[k]? = some mv → s.mayLand e mv = true → (mv.xf = .copy ∧ mv.srcs.length = 1 ∨ ∃ v, mv.xf = .const v) →
    mv.dsts = [[(0, ⟨.sp c, 8 * a, 8 * n⟩)]] →
    Completes (.engineWriteLand e.id k) s (fun t => t.m = s.m ∧ t.mem.pm = s.mem.pm ∧ t.mem.gm = s.mem.gm ∧ t.mem.qv = s.mem.qv ∧
      (∀ b, memGet (smGet [] t.mem.sp c) b = if a ≤ b ∧ b < a + n then (leBytes n ((s.moveVals mv).getD 0 0)).getD (b - a) 0
        else memGet (smGet [] s.mem.sp c) b) ∧
      (∀ c2, c2 ≠ c → smGet [] t.mem.sp c2 = smGet [] s.mem.sp c2) ∧
      ∃ x, t.eng.ops.find? (fun x => x.id = e.id) = some x ∧ x.moves = e.moves.eraseIdx k ∧ x.begun = true ∧ x.expect = e.expect - 8 * n)) ∧
  (e.events = [] → s.engDone e = false → exec (.engineCompletion e.id) s = .next s) ∧
  (∀ q v rest, e.events = (q, v) :: rest → rest ≠ [] → e.owner.wu = s.wg.wu → s.wg.iqHeld.any (fun x => x.1 = q) = false →
    (smGet [] s.wg.iq q).length < 32 →
    Completes (.engineCompletion e.id) s (fun t => t.m = s.m ∧ t.mem = s.mem ∧
      (∀ k, smGet [] t.wg.iq k = if k = q then smGet [] s.wg.iq k ++ [v] else smGet [] s.wg.iq k) ∧
      t.eng.ops.find? (fun x => x.id = e.id) = some { e with events := rest })) ∧
  (e.events = [] → s.engDone e = true → e.node = none → e.forNode = none → e.owner = s.ref →
    s.m.outs = [{ id := e.id, cls := 2, kind := .engine e.id }] →
    Completes (.engineCompletion e.id) s (fun t => t.m.outs = [] ∧ t.m.reports = s.m.reports ++ e.report.toList ∧ t.mem = s.mem ∧
      t.m.r = (match e.reply with | some d => s.m.r.putAll d (e.value % 2 ^ 64) | none => s.m.r) ∧ t.m.path = s.m.path ∧
      t.eng.ops = s.eng.ops.filter (fun x => x.id != e.id))) ∧
  (∀ y g, e.rly = some y →
    ((y.suspended || !(y.left.contains g) || !(s.mayCommit y (y.group g))) = true → exec (.relayoutGroupCommit e.id g) s = .next s) ∧
    (y.suspended = false → y.left.contains g = true → s.mayCommit y (y.group g) = true →
      (∀ (c : Nat) (a : Nat → Nat), y.nohole = false → y.left.filter (· != g) ≠ [] →
        (∀ k ∈ y.group g, y.locs.getD k [] = [(0, ⟨.sp c, 8 * a k, 8⟩)]) → (∀ k ∈ y.group g, gfVec y.passMat k ∈ y.group g) →
        (∀ k ∈ y.group g, ∀ k2 ∈ y.group g, a (gfVec y.passMat k) = a (gfVec y.passMat k2) → k = k2) →
        Completes (.relayoutGroupCommit e.id g) s (fun t => t.m.r = s.m.r ∧ t.mem.pm = s.mem.pm ∧ t.mem.gm = s.mem.gm ∧ t.wg.lregs = s.wg.lregs ∧
          (∀ k ∈ y.group g, memGet (smGet [] t.mem.sp c) (a (gfVec y.passMat k)) = memGet (smGet [] s.mem.sp c) (a k)) ∧
          (∀ b, (∀ k ∈ y.group g, b ≠ a k) → memGet (smGet [] t.mem.sp c) b = memGet (smGet [] s.mem.sp c) b))) ∧
      (∀ l, y.nohole = false → y.left.filter (· != g) = [] → y.plan.length ≤ y.pass → y.x = .reg s.wg.wu l →
        Completes (.relayoutGroupCommit e.id g) s (fun t => (smGet 0 t.wg.lregs l).toNat = lyFinal y.img y.timg % 2 ^ 2048 ∧
          (t.eng.ops.find? (fun x => x.id = e.id)).bind (·.rly) = none)) ∧
      (∀ l, y.nohole = false → y.left.filter (· != g) = [] → y.pass < y.plan.length → y.stopAfter = y.pass → y.x = .reg s.wg.wu l →
        Completes (.relayoutGroupCommit e.id g) s (fun t => (smGet 0 t.wg.lregs l).toNat = lyPend y.img 2 (y.pass + 1) y.target.target % 2 ^ 2048 ∧
          (t.eng.ops.find? (fun x => x.id = e.id)).bind (·.rly) = none ∧ ∃ z ∈ t.eng.paused, z.x = y.x ∧ z.pass = y.pass + 1))))

/-! ### System instructions, saves and migrations (R277 to R285, R325, R326, R345 to R351) -/

namespace Sys2Proof.Machine

/-- A system slot that executes issues: its checks pass, the guard holds in the lowest lane, its sources are clean. -/
def IssuesS (s : State) (h : Hdr) (uses : List SpecUse) (ok : Bool) : Bool :=
  Issues s h (classOk s .sys false h.role.toNat) uses (needs ok) && s.guardLow h && !(s.marked uses [lowLane s.active])
/-- A system instruction: its slot, its register uses, its fields, its privilege level. -/
structure SRow where
  ctor : Hdr → FS → Instr
  uses : FS → List SpecUse
  ok : FS → Bool
  lvl : FS → Nat
/-- The system instructions (R278 to R284). -/
def systemRows : List SRow :=
  [{ ctor := .csrr, uses := fun f => [{ spec := f.dst, wr := true }]
     ok := fun f => zerosS f false true false true false && isS f.dst && csrKnown f.csr.toNat, lvl := fun f => csrLevel f.csr.toNat },
   { ctor := .csrw, uses := fun f => [{ spec := f.src, ok511 := true }]
     ok := fun f => zerosS f false true true false (f.src == 511) && (isS f.src || isQ f.src || f.src == 511) && csrKnown f.csr.toNat &&
       csrWritable f.csr.toNat
     lvl := fun f => csrLevel f.csr.toNat },
   { ctor := .svc, uses := fun _ => [], ok := fun f => zerosS f false false false false true && decide (f.imm.toNat < 65536), lvl := fun _ => 0 },
   { ctor := .eret, uses := fun _ => [], ok := fun f => zerosS f false false false false false, lvl := fun _ => 1 },
   { ctor := .tlbiAll, uses := fun _ => [], ok := fun f => zerosS f false false false false false, lvl := fun _ => 1 },
   { ctor := .tlbiPage, uses := fun f => [{ spec := f.src }], ok := fun f => zerosS f true false true false false && f.sub == 1 && isS f.src
     lvl := fun _ => 1 },
   { ctor := .halt, uses := fun _ => [], ok := fun f => zerosS f false false false false false, lvl := fun _ => 1 },
   { ctor := .hint, uses := fun _ => [], ok := fun f => zerosS f true false false false false && decide (f.sub.toNat ≤ 2), lvl := fun _ => 0 },
   { ctor := .ctxsv, uses := fun f => [{ spec := f.src }, { spec := BitVec.ofNat 9 (f.imm.toNat % 512) }, { spec := f.dst, wr := true }]
     ok := fun f => zerosS f false false true true true && isS f.src && isS f.dst && isS (BitVec.ofNat 9 (f.imm.toNat % 512)) &&
       decide (f.imm.toNat < 512)
     lvl := fun _ => 1 },
   { ctor := .ctxld, uses := fun f => [{ spec := f.src }, { spec := f.dst, wr := true }]
     ok := fun f => zerosS f false false true true false && isS f.src && isS f.dst, lvl := fun _ => 1 }]
/-- A slot of a row executes at the level it needs. -/
def SRow.runs (r : SRow) (s : State) (h : Hdr) (f : FS) : Bool := IssuesS s h (r.uses f) (r.ok f) && decide (r.lvl f ≤ s.m.level)
/-- The row of an instruction, by its place. -/
def sysRow (k : Nat) : SRow := systemRows.getD k { ctor := .hint, uses := fun _ => [], ok := fun _ => false, lvl := fun _ => 0 }
/-- Only the path and the named registers of the member differ. -/
def SameTlb (s t : State) (drop : TlbEntry → Bool) : Prop :=
  t.m = s.m.movedTo s.m.path.pc.next s.m.r ∧ t.wg = s.wg ∧ t.eng = s.eng ∧ t.wgs = s.wgs ∧ t.ctxs = s.ctxs ∧ t.cores = s.cores ∧ t.host = s.host ∧
  t.plat = s.plat ∧ t.fab = s.fab ∧
  t.mem = { s.mem with tlb := s.mem.tlb.filter (fun x => !(decide (x.ctx = s.wg.ctx) && drop x)) }
/-- R325: a workgroup may migrate to a core: it runs, nothing holds it, and the condition has held on its core for long enough. -/
def State.mayMigrate (s : State) (w : Workgroup) (core : Nat) : Bool :=
  let ws := s.liveGroup w
  let cores := s.moveCores ws core
  decide (w.stop = .running) && decide (dieOf core = dieOf w.core) && decide (cores.length = ws.length) && decide (ws ≠ []) &&
  (ws.all (fun x => decide (x.stop = .running) && (s.membersOf x.wu).all (fun m => m.level == 0) && !(s.quadHandle x)) &&
    cores.all (s.mayMove w) && !(s.heldBack w) && s.mayDepart w)

end Sys2Proof.Machine

/-- R277 to R284: the system instructions, and the way into a handler and back.
R277 to R279, R281, R283, R284: a system instruction needs its level, and raises PRIV below it; with a false guard it only moves on. `csrr` reads
its register into an s register; `csrw` writes it, a status register keeping the bits it defines; `tlbi` drops the translations of the
issuer's context, all or those of one page; `halt` posts its record, once the die can hold it, and stops the workgroup at the next slot;
`hint` only moves on.
R277, R280: `svc` of the whole member at level 0 goes to the handler at `evbase`: it saves the next slot's code pointer and the number, and runs
at level 1; without a handler it is a PROGTRAP, at level 1 PRIV, for a part of the member ILLOP. `eret` goes to the saved code
pointer at level 0.
It says when each of these forms completes: `csrr`, `csrw`, `svc`, `eret`, `tlbiAll`, `tlbiPage`, `halt`, `hint`. -/
def Obligations.SystemResults : Prop :=
  (∀ (h : Hdr) (f : FS) (s : State),
  (∀ r ∈ systemRows, issueFault s h (classOk s .sys false h.role.toNat) (r.uses f) (needs (r.ok f)) = none → s.hazard (r.uses f) = false →
    (s.guardLow h = false → Completes (r.ctor h f) s (Advanced s)) ∧
    (s.guardLow h = true → s.m.level < r.lvl f → exec (r.ctor h f) s = .next (s.fault PRIV))) ∧
  ((sysRow 0).runs s h f = true → Completes (.csrr h f) s (fun t => SameBeside s t ∧ t.m = s.m.movedTo s.m.path.pc.next t.m.r ∧
    (∀ n, t.m.r.rs n = if n = f.dst.toNat - 256 then s.csrRead f.csr.toNat else s.m.r.rs n) ∧ t.m.r.v = s.m.r.v ∧ t.m.r.p = s.m.r.p ∧
    t.m.r.istat = s.m.r.istat ∧ t.m.r.fstat = s.m.r.fstat)) ∧
  ((sysRow 1).runs s h f = true →
    let x := s.rd64 f.src f.imm false (lowLane s.active)
    Completes (.csrw h f) s (fun t => SameBeside s t ∧
      t.m = { s.m.movedTo s.m.path.pc.next t.m.r with
        epc := if f.csr.toNat = 0x100 then x else s.m.epc
        escr := if f.csr.toNat = 0x102 then x else s.m.escr } ∧
      t.m.r = { s.m.r with
        istat := if f.csr.toNat = 1 then x &&& 0x3 else s.m.r.istat
        fstat := if f.csr.toNat = 2 then x &&& 0x3F else s.m.r.fstat })) ∧
  ((sysRow 4).runs s h f = true → Completes (.tlbiAll h f) s (fun t => SameTlb s t (fun _ => true))) ∧
  ((sysRow 5).runs s h f = true → Completes (.tlbiPage h f) s (fun t => SameTlb s t (·.holds (s.rf.rs (f.src.toNat - 256)).toNat))) ∧
  ((sysRow 6).runs s h f = true → s.holdFull (dieOf s.wg.core) = true → exec (.halt h f) s = .next s) ∧
  ((sysRow 6).runs s h f = true → s.holdFull (dieOf s.wg.core) = false → Completes (.halt h f) s (fun t => t.m = s.m.movedTo s.m.path.pc.next s.m.r ∧ t.wg = { s.wg with stop := .halt } ∧
    smGet 0 t.plat.dieSeq (dieOf s.wg.core) = smGet 0 s.plat.dieSeq (dieOf s.wg.core) + 1)) ∧
  ((sysRow 7).runs s h f = true → Completes (.hint h f) s (Advanced s))) ∧
  (∀ (h : Hdr) (f : FS) (s : State),
  ((sysRow 2).runs s h f = true →
    (s.m.level ≠ 0 → exec (.svc h f) s = .next (s.fault PRIV)) ∧
    (s.m.level = 0 → s.m.whole = false → exec (.svc h f) s = .next (s.fault ILLOP)) ∧
    (s.m.level = 0 → s.m.whole = true → s.ctx.evbase = 0 → exec (.svc h f) s =
      .next (s.raise { code := PROGTRAP, detail := f.imm.toNat, lanes := if s.m.scalar then 1 else s.active, flags := 4 })) ∧
    (s.m.level = 0 → s.m.whole = true → s.ctx.evbase ≠ 0 → pcOf s.ctx.evbase = none → exec (.svc h f) s = .next (s.fault ILLTARGET)) ∧
    (∀ p, s.m.level = 0 → s.m.whole = true → s.ctx.evbase ≠ 0 → pcOf s.ctx.evbase = some p → s.tgt p = true →
      Completes (.svc h f) s (fun t => SameBeside s t ∧ t.m = { s.m.movedTo p s.m.r with
        epc := s.m.path.pc.next.word, ecause := BitVec.ofNat 64 f.imm.toNat, level := 1, priv := s.m.priv || s.wg.team.isSome }))) ∧
  ((sysRow 3).runs s h f = true →
    (pcOf s.m.epc = none → exec (.eret h f) s = .next (s.fault ILLTARGET)) ∧
    (∀ p, pcOf s.m.epc = some p → Completes (.eret h f) s (fun t => SameBeside s t ∧ t.m = { s.m.movedTo p s.m.r with level := 0 }))))
/-- R282, R298, R325, R326, R345 to R351: `ctxsv` of a stopped workgroup faults first where its area cannot be written, else stops the rest of its
cluster group, waits until the group is quiet, then writes the group's areas, saves the group away and gives their size; `ctxld` of such areas gives the workgroup a new id and places it again. A pre-empted group that is
quiet leaves, a forwarding entry standing for it; a migrating workgroup is running on its new core afterwards; a sender acknowledges; a
forwarding entry that nobody needs retires.
It says when each of these forms completes: `ctxsv`, `ctxld`, `workgroupMigration`, `senderAck`, `forwardRetire`, `saveComplete`. -/
def Obligations.SaveResults : Prop := ∀ (h : Hdr) (f : FS) (s : State),
  ((sysRow 8).runs s h f = true →
    let a := (s.rf.rs (f.src.toNat - 256)).toNat
    let id := (s.rf.rs (f.imm.toNat - 256)).toNat
    (a % 4096 ≠ 0 → exec (.ctxsv h f) s = .next (s.faultAt (ALIGN, 0) a)) ∧
    (a % 4096 = 0 → s.savable id = none → exec (.ctxsv h f) s = .next (s.faultAt (PERM, 2) a)) ∧
    (∀ w, a % 4096 = 0 → s.savable id = some w →
      let u := s.preemptGroup w
      let v := (u.liveGroup w).foldl (fun t x => t.suspendRly x.wu) u
      let bs := v.groupBytes w
      (∀ e, s.parts 1 a (s.groupBytes w).length 2 = .error e → exec (.ctxsv h f) s = .next ((s.unstopGroup w).faultAt e a)) ∧
      (∀ qs, s.parts 1 a (s.groupBytes w).length 2 = .ok qs → u.mayDepart w = false → exec (.ctxsv h f) s = .next u) ∧
      (∀ ps qs, s.parts 1 a (s.groupBytes w).length 2 = .ok qs → u.mayDepart w = true → v.parts 1 a bs.length 2 = .ok ps →
        ps.any (fun p => v.lyHit none p.2.1 p.2.2) = false → v.pagesReady (pagesOf (ps.filterMap (·.2.2))) = true →
        Completes (.ctxsv h f) s (fun t => t.m.path = { s.m.path with pc := s.m.path.pc.next } ∧
          (∀ n, t.m.r.rs n = if n = f.dst.toNat - 256 then BitVec.ofNat 64 bs.length else s.m.r.rs n) ∧
          ∀ x ∈ u.liveGroup w, ∃ y ∈ t.eng.saves, y.wu = x.wu)))) ∧
  ((sysRow 9).runs s h f = true →
    let a := (s.rf.rs (f.src.toNat - 256)).toNat
    (a % 4096 ≠ 0 → exec (.ctxld h f) s = .next (s.faultAt (ALIGN, 0) a)) ∧
    (∀ hd e, a % 4096 = 0 → s.peek 1 a 512 = .ok hd →
      s.readGroup (bitsN (wordAt hd.bytes 2) 8 2) (wordAt hd.bytes 3) (bitsN (wordAt hd.bytes 2) 8 2 + 1) 0 a = .error e →
      exec (.ctxld h f) s = .next (s.faultAt e a)) ∧
    (∀ hd ws vas, a % 4096 = 0 → s.peek 1 a 512 = .ok hd →
      s.readGroup (bitsN (wordAt hd.bytes 2) 8 2) (wordAt hd.bytes 3) (bitsN (wordAt hd.bytes 2) 8 2 + 1) 0 a = .ok (ws, vas) →
      s.m.acqPending s.uid = false → s.pagesReady (pagesOf vas) = true →
      ((s.reached (pagesOf vas)).loadGroup ws = none → exec (.ctxld h f) s = .next (s.reached (pagesOf vas))) ∧
      (∀ v id, (s.reached (pagesOf vas)).loadGroup ws = some (v, id) →
        Completes (.ctxld h f) s (fun t => t.m.path = { s.m.path with pc := s.m.path.pc.next } ∧
          (∀ n, t.m.r.rs n = if n = f.dst.toNat - 256 then BitVec.ofNat 64 id else s.m.r.rs n) ∧
          ∀ bs, ws = [bs] → areaEnded bs = false → ∃ x ∈ t.wgs,
            x.wu = wuOf s.wg.ctx ((s.reached (pagesOf vas)).nextWgid s.wg.ctx) ∧ x.stop = .running)))) ∧
  (∀ w, s.findWu w.wu = some w →
    (let ok := decide (w.stop = .preempt) && (s.liveGroup w).all (fun x => x.stop != .running) && s.mayDepart w
     (ok = false → exec (.saveComplete w.wu) s = .next s) ∧
     (ok = true → Completes (.saveComplete w.wu) s (fun t => ∀ x ∈ s.liveGroup w, x.wu ≠ 0 → (∃ y ∈ t.eng.saves, y.wu = x.wu) ∧
       ∃ g ∈ t.plat.forwards, g.wu = x.wu ∧ g.core = x.core ∧ g.toCore = none))) ∧
    (∀ core, (s.mayMigrate w core = false → exec (.workgroupMigration w.wu core) s = .next s) ∧
      (s.mayMigrate w core = true → w.group = [w.wu] → s.eng.saves = [] →
        Completes (.workgroupMigration w.wu core) s (fun t => ∃ x ∈ t.wgs, x.wu = w.wu ∧ x.core = core ∧ x.stop = .running)))) ∧
  (∀ fwd sender, Completes (.senderAck fwd sender) s (fun t => t.m = s.m ∧ t.wg = s.wg ∧ t.mem = s.mem ∧ t.plat.forwards =
    s.plat.forwards.map (fun g => if g.id = fwd then { g with senders := g.senders.filter (· != sender) } else g))) ∧
  (∀ fwd, Completes (.forwardRetire fwd) s (fun t => t.m = s.m ∧ t.wg = s.wg ∧ t.mem = s.mem ∧ t.plat.forwards =
    s.plat.forwards.filter (fun g => !(decide (g.id = fwd) && s.mayRetireFwd g))))

/-! ### Schedulers, distributors and fences (R122, R272, R317 to R327, R343, R344, R349, R354, R403) -/

namespace Sys2Proof.Machine

/-- A node has finished: its slot is free at the next generation. -/
def NodeGone (t : State) (n : Node) : Prop := t.findNode n.ref = none ∧ smGet 0 t.eng.gens (slotKey n.ref) = (n.gen + 1) % 4096
/-- A kernel's work is over (R321). -/
def State.kernelOver (s : State) (n : Node) : Bool :=
  n.kind == 1 && decide (n.st = .launched) && n.undealt == 0 && n.dealt == [] && decide (n.launch.gx * n.launch.gy * n.launch.gz ≤ n.ended) &&
  !(s.kernelWrites n)

end Sys2Proof.Machine

/-- R122, R270, R272, R317 to R324, R349: launch queues, nodes, chunks, workgroups and resources.
R319: the head entry of a launch queue is taken once the one before it lets it: an armed node with its launch, or, where R317 rejects it, a
launch-error record; a withdrawn one is passed over. An empty queue, or one whose head must wait, is left alone.
R122, R270, R272, R321 to R324, R349: a ready node launches: an empty one finishes at once, a kernel is ready to deal, a copy node goes to its engine; a
kernel whose work is over finishes; a chunk of cluster groups goes to a die; a dealt group starts on the cores chosen for it, or a
resumed one comes back there; an ended workgroup with nothing outstanding gives up its core. Before that nothing changes.
It says when each of these forms completes: `launchEntryTake`, `nodeLaunch`, `nodeFinish`, `chunkDeal`, `workgroupPlace`, `resourceRelease`. -/
def Obligations.SchedulerEvents : Prop :=
  (∀ (s : State) (ctx q : Nat) (c : Ctx), smFind s.ctxs ctx = some c →
  let lq := smGet {} c.lq q
  let e := s.lqEntry lq lq.head.toNat
  ((4 ≤ q ∨ lq.size = 0 ∨ lq.head = lq.tail) → exec (.launchEntryTake ctx q) s = .next s) ∧
  (q < 4 → lq.size ≠ 0 → lq.head ≠ lq.tail →
    (lq.withdrawn.contains lq.head.toNat = true → Completes (.launchEntryTake ctx q) s (fun t =>
      (smGet {} (smGet {} t.ctxs ctx).lq q).head = lq.head + 1 ∧ t.eng = s.eng ∧ t.m = s.m)) ∧
    (lq.withdrawn.contains lq.head.toNat = false →
      (s.prevDone lq (bitN e.2 0) = false → exec (.launchEntryTake ctx q) s = .next s) ∧
      (s.prevDone lq (bitN e.2 0) = true →
        (∀ l k, s.entryLaunch c ctx q e = .ok l → s.freeSlot ctx (s.queueDie c q) = some k →
          Completes (.launchEntryTake ctx q) s (fun t => t.m = s.m ∧ t.mem = s.mem ∧ (smGet {} (smGet {} t.ctxs ctx).lq q).head = lq.head + 1 ∧
            ∃ n ∈ t.eng.nodes, n.ref = ⟨ctx, s.queueDie c q, k⟩ ∧ n.st = .armed ∧ n.launch = l ∧ n.tag = e.2 / 2 ^ 32 ∧ n.evt = bitN e.2 1 ∧
              n.kind = 1)) ∧
        (∀ r, s.entryLaunch c ctx q e = .error r → Completes (.launchEntryTake ctx q) s (fun t => t.m = s.m ∧ t.eng = s.eng ∧
          (smGet {} (smGet {} t.ctxs ctx).lq q).head = lq.head + 1 ∧
          smGet 0 t.plat.dieSeq (s.queueDie c q) = smGet 0 s.plat.dieSeq (s.queueDie c q) + 1)))))) ∧
  (∀ (s : State),
  (∀ n, s.findNode n.ref = some n →
    (n.ready = false → exec (.nodeLaunch n.ref) s = .next s) ∧
    (n.ready = true → n.kind = 0 → Completes (.nodeLaunch n.ref) s (fun t => t.m = s.m ∧ NodeGone t n ∧
      ∀ r g y, n.succs = [(r, g)] → r ≠ n.ref → s.findNode r = some y → y.gen = g → t.findNode r = some { y with pred := y.pred - 1 })) ∧
    (n.ready = true → n.kind = 1 → Completes (.nodeLaunch n.ref) s (fun t => t.m = s.m ∧ t.mem = s.mem ∧ t.findNode n.ref =
      some { n with st := .launched, seq := s.uid, coResident := decide (n.launch.groups ≤ s.deviceRoom n.ref.ctx n.launch true) })) ∧
    (let us := s.copyUnits n.ref.die (n.engMoves.flatMap (·.locs))
     (n.ready = true → 2 ≤ n.kind → s.unitsFull us = true → exec (.nodeLaunch n.ref) s = .next s) ∧
     (n.ready = true → 2 ≤ n.kind → s.unitsFull us = false → Completes (.nodeLaunch n.ref) s (fun t => t.m = s.m ∧ t.mem = s.mem ∧
       t.findNode n.ref = some { n with st := .launched, engMoves := [] } ∧ t.eng.ops = s.eng.ops ++ [n.copyOp s.uid us]))) ∧
    (s.kernelOver n = false → exec (.nodeFinish n.ref) s = .next s) ∧
    (s.kernelOver n = true → Completes (.nodeFinish n.ref) s (fun t => t.m = s.m ∧ NodeGone t n)) ∧
    (s.mayDeal n = false → exec (.chunkDeal n.ref) s = .next s) ∧
    (∀ d, s.mayDeal n = true → s.dealDie n = some d → Completes (.chunkDeal n.ref) s (fun t => t.m = s.m ∧ t.mem = s.mem ∧
      t.findNode n.ref = some (n.deal d (s.chunkRoom n d))))) ∧
  (∀ die, s.nextSaved die = none →
    (s.nextDealt die = none → exec (.workgroupPlace die) s = .next s) ∧
    (∀ n g, s.nextDealt die = some (n, g) →
      let ranks := codeRanks n.launch g
      (s.choose n.ref.ctx { n.launch with clus := ranks.length } die = none → exec (.workgroupPlace die) s = .next s) ∧
      (∀ cores u, s.choose n.ref.ctx { n.launch with clus := ranks.length } die = some (cores, u) →
        Completes (.workgroupPlace die) s (fun t => t.m = s.m ∧ t.wg = s.wg ∧
          (∀ x, s.findNode n.ref = some x → t.findNode n.ref = some { x with dealt := x.dealt.erase (die, g) }) ∧
          ∀ i, i < ranks.length → ∃ w ∈ t.wgs, w.core = cores.getD i 0 ∧ w.crank = ranks.getD i 0 ∧ w.launch = n.launch ∧ w.ctx = n.ref.ctx ∧
            w.stop = .running)))) ∧
  (∀ die w core u, s.nextSaved die = some [w] → s.chooseFor [w] die = some ([core], u) →
    Completes (.workgroupPlace die) s (fun t => ∃ x ∈ t.wgs, x.wu = w.wu ∧ x.core = core ∧ x.stop = w.stop)) ∧
  (∀ w, s.findWu w.wu = some w → w.wu ≠ 0 →
    (s.spent w = false → exec (.resourceRelease w.wu) s = .next s) ∧
    (s.spent w = true → Completes (.resourceRelease w.wu) s (fun t => t.mem = s.mem ∧
      (s.wg.wu = w.wu → t.wg = { stop := .ended } ∧ t.m = {} ∧ t.wgs = s.wgs) ∧
      (s.wg.wu ≠ w.wu → t.wg = s.wg ∧ t.m = s.m ∧ t.wgs = dropFirst (fun x => x.wu = w.wu) s.wgs)))))
/-- R34, R324, R327, R343, R354, R403, R404: a fence takes a die out of use, and posts its record; a thermal trip sets the core's margin to 0 and fences its die;
a fault that waits for the host and is declared unhandled gets its policy; a droop is recorded; a core's clock stops and starts.
It says when each of these forms completes: `diefence`, `thermalTrip`, `declareUnhandled`, `voltageDroop`, `powerGating`. -/
def Obligations.FenceEvents : Prop := ∀ (s : State) (die cause core : Nat),
  ((cause = 0 ∨ 4 ≤ cause) → exec (.diefence die cause) s = .next s) ∧
  (1 ≤ cause → cause ≤ 3 → (s.plat.fenced.contains die = true ∨ 4 ≤ die) → exec (.diefence die cause) s = .next s) ∧
  (1 ≤ cause → cause ≤ 3 → s.plat.fenced.contains die = false → die < 4 → Completes (.diefence die cause) s (fun t =>
    t.plat.fenced = s.plat.fenced ++ [die] ∧
    (s.ctxs = [] → s.eng.nodes = [] → smGet 0 t.plat.dieSeq 4 = smGet 0 s.plat.dieSeq 4 + 1))) ∧
  (core < 1024 → Completes (.thermalTrip core) s (fun t => (smGet {} t.cores core).margin = 0 ∧
    t.plat.fenced = if s.plat.fenced.contains (dieOf core) then s.plat.fenced else s.plat.fenced ++ [dieOf core])) ∧
  (∀ w, s.findWu w.wu = some w →
    (w.stop ≠ .fault true → exec (.declareUnhandled w.wu) s = .next s) ∧
    (w.stop = .fault true → w.launch.policy = 0 → Completes (.declareUnhandled w.wu) s (fun t =>
      (t.findWu w.wu).map (·.stop) = some .ended ∧ t.m = s.m ∧ t.mem = s.mem))) ∧
  (∀ bin, Completes (.voltageDroop core bin) s (fun t => t.m = s.m ∧ t.wg = s.wg ∧ t.mem = s.mem ∧
    (smGet {} s.cores core).cyc.toNat ∈ (smGet {} t.cores core).droops ∧
    smGet 0 t.plat.almanac.droop (dieOf core * 16 + bin % 16) = min (smGet 0 s.plat.almanac.droop (dieOf core * 16 + bin % 16) + 1) (2 ^ 64 - 1))) ∧
  (∀ stop, Completes (.powerGating core stop) s (fun t => t.m = s.m ∧ t.wg = s.wg ∧ t.mem = s.mem ∧
    smGet {} t.cores core = { smGet {} s.cores core with gated := stop } ∧ ∀ k, k ≠ core → smGet {} t.cores k = smGet {} s.cores k))

/-! ### Links and the fabric (R335, R336, R356 to R384) -/

namespace Sys2Proof.Machine

/-- Only the fabric and, where a record or an almanac count is due, the package and its memory differ: no member and no workgroup. -/
structure SameWork (s t : State) : Prop where
  m : t.m = s.m
  wg : t.wg = s.wg
  wgs : t.wgs = s.wgs
  eng : t.eng = s.eng
  cores : t.cores = s.cores
/-- One optical link changes; every other one is as it was. -/
def LinkChanged (s t : State) (plane : Nat) (l : LinkSt) : Prop :=
  SameWork s t ∧ t.mem = s.mem ∧ ∀ k, t.link k = if k = plane then l else s.link k
/-- The oldest message of a kind is gone from the network, and only the fabric differs. -/
structure Taken (s t : State) : Prop where
  work : SameWork s t
  ctxs : t.ctxs = s.ctxs
  host : t.host = s.host
  plat : t.plat = s.plat
/-- A message of a kind stands in the network to a package about a line. -/
def Sent (t : State) (kind dst line : Nat) : Prop := ∃ x ∈ t.fab.net, x.kind = kind ∧ x.dst = dst ∧ x.line = line
/-- The requests of a package for a line: read shared, read exclusive, upgrade. -/
def requests : List (Instr × Nat) := [(.readShared, 1), (.readExclusive, 2), (.upgrade, 3)]
/-- The message of a kind whose turn it is at the switch: whether it waited there, the message, and the state without it: the first that waited
and need not wait on, else the next that its links bring (R361, R368). -/
def State.turn (s : State) (kind : Nat) : Option (Bool × FabMsg × State) :=
  match s.firstWaiting kind [] s.fab.waiting with
  | some m => some (true, m, { s with fab := { s.fab with waiting := dropFirst (fun x => x == m) s.fab.waiting } })
  | none => (s.takeMsg kind).map (fun r => (false, r.1, r.2))
/-- A message is taken up in its turn: it waited, or nothing of its line stands before it (R368). -/
def State.upNow (u : State) (front : Bool) (line : Nat) : Bool := front || !(u.lineQueued line)
/-- No message is held at its sender. -/
def State.noneHeld (s : State) : Bool := s.fab.net.all (fun m => m.seq.isSome) && s.fab.barNet.all (fun m => m.seq.isSome)
/-- An optical link has changed its windows and counts to those of `l`, and held messages may have left; with none held it is `l`. -/
def LinkPumped (s t : State) (plane : Nat) (l : LinkSt) : Prop :=
  SameWork s t ∧ t.mem = s.mem ∧ (t.link plane).window = l.window ∧ (t.link plane).down = l.down ∧ (t.link plane).fails = l.fails ∧
  (t.link plane).waves = l.waves ∧ (t.link plane).up.acked = l.up.acked ∧ (t.link plane).dn.acked = l.dn.acked ∧
  (s.noneHeld = true → ∀ k, t.link k = if k = plane then l else s.link k)

end Sys2Proof.Machine

/-- R335, R336, R356, R361, R363 to R366, R383, R384, R404: at the end of its period a link's rate steps by its use behind a retraining window; a
window ends in service, or, after three failures in a row, with the link down, for a die link with a die fenced; a control flit
acknowledges or asks for a replay; an acknowledgement that does not come in time replays; a flit with a wrong CRC is counted, and what
follows it is discarded; wavelengths that go, or have shone again for long enough, change the links concerned and leave a record in the
making, which is posted once its links have resumed.
It says when each of these forms completes: `dieLinkRateStep`, `dieLinkRetrain`, `linkControl`, `ackTimeout`, `linkRetrain`, `linkRateStep`,
`wavelengthLoss`, `wavelengthRestore`, `laserloss`, `flitCrcFailure`. -/
def Obligations.LinkEvents : Prop := ∀ (s : State) (k use : Nat) (ok up : Bool),
  ((14 ≤ k ∨ (s.dieLink k).pcyc < 65536) → exec (.dieLinkRateStep k use) s = .next s) ∧
  (k < 14 → 65536 ≤ (s.dieLink k).pcyc → Completes (.dieLinkRateStep k use) s (fun t => SameWork s t ∧ t.mem = s.mem ∧ t.fab = s.fab ∧
    ∀ j, t.dieLink j = if j = k then (s.dieLink k).step use else s.dieLink j)) ∧
  ((14 ≤ k ∨ (s.dieLink k).window = false) → exec (.dieLinkRetrain k ok) s = .next s) ∧
  (k < 14 → (s.dieLink k).window = true → Completes (.dieLinkRetrain k ok) s (fun t => t.dieLink k = (s.dieLink k).retrained ok ∧
    t.plat.fenced = if ((s.dieLink k).retrained ok).down = true ∧ s.plat.fenced.contains (linkVictim k) = false then s.plat.fenced ++ [linkVictim k]
      else s.plat.fenced)) ∧
  (48 ≤ k → exec (.linkRateStep k use) s = .next s ∧ exec (.linkRetrain k ok) s = .next s) ∧
  ((48 ≤ k ∧ k < 64 ∨ 78 ≤ k) → exec (.flitCrcFailure (wayOf k up)) s = .next s) ∧
  (k < 48 → (s.link k).pcyc < 65536 → exec (.linkRateStep k use) s = .next s) ∧
  (k < 48 → 65536 ≤ (s.link k).pcyc → Completes (.linkRateStep k use) s (fun t => LinkChanged s t k (
    if !(s.link k).down && !(s.link k).window && decide ((s.link k).pendUp ≠ 0) then
      { s.link k with waves := (s.link k).waves ||| (s.link k).pendUp, pendUp := 0, pcyc := 0, rate := nextRate (s.link k).rate use
                      window := true, stepped := true, wcyc := 0 }
    else (s.link k).step use))) ∧
  (k < 48 → (s.link k).window = false → exec (.linkRetrain k ok) s = .next s) ∧
  (k < 48 → (s.link k).window = true → Completes (.linkRetrain k ok) s (fun t => LinkPumped s t k ((s.link k).retrained ok) ∧
    smGet 0 t.plat.almanac.retrain (64 + k) = min (smGet 0 s.plat.almanac.retrain (64 + k) + 1) (2 ^ 64 - 1))) ∧
  (k < 48 → Completes (.flitCrcFailure (wayOf k up)) s (fun t => LinkChanged s t k (
      if (s.link k).open && decide (((s.link k).dir up).seq ≠ ((s.link k).dir up).got) then (s.link k).modDir up (fun d => { d with nak := true })
      else s.link k) ∧
    smGet 0 t.plat.almanac.soft (8192 + k) = min (smGet 0 s.plat.almanac.soft (8192 + k) + 1) (2 ^ 64 - 1))) ∧
  (k < 14 → Completes (.flitCrcFailure (wayOf (64 + k) up)) s (fun t => SameWork s t ∧ t.mem = s.mem ∧ t.fab = s.fab ∧
    (∀ j, t.dieLink j = if j = k ∧ (s.dieLink k).open = true then (s.dieLink k).replay up ((s.dieLink k).dir up).acked else s.dieLink j) ∧
    smGet 0 t.plat.almanac.soft (8256 + k) = min (smGet 0 s.plat.almanac.soft (8256 + k) + 1) (2 ^ 64 - 1))) ∧
  (∀ seq, (48 ≤ k ∨ (s.link k).open = false ∨ seq ≠ ((s.link k).dir up).got) → exec (.linkControl (wayOf k up) seq) s = .next s) ∧
  (k < 48 → (s.link k).open = true → Completes (.linkControl (wayOf k up) ((s.link k).dir up).got) s (fun t => LinkPumped s t k (
    if ((s.link k).dir up).nak then ((s.link k).modDir up (fun d => { d.ack with nak := false })).replay up ((s.link k).dir up).got
    else (s.link k).modDir up (·.ack)))) ∧
  ((48 ≤ k ∨ (s.link k).open = false ∨ ((s.link k).dir up).pending = 0 ∨ ((s.link k).dir up).age < ackLimit (widthOf (s.link k).waves)) →
    exec (.ackTimeout (wayOf k up)) s = .next s) ∧
  (k < 48 → (s.link k).open = true → ((s.link k).dir up).pending ≠ 0 → ackLimit (widthOf (s.link k).waves) ≤ ((s.link k).dir up).age →
    Completes (.ackTimeout (wayOf k up)) s (fun t => LinkChanged s t k ((s.link k).replay up ((s.link k).dir up).acked))) ∧
  (∀ die waves links mon,
    let ks := s.lossLinks die waves links mon
    ((2 ≤ die ∨ ks = []) → exec (.wavelengthLoss die waves links mon) s = .next s) ∧
    (die < 2 → ks ≠ [] → Completes (.wavelengthLoss die waves links mon) s (fun t => SameWork s t ∧ t.mem = s.mem ∧
      (∀ j, j < 48 → t.link j = if j / 24 = die ∧ j % 24 ∈ ks then (s.link j).lose waves else s.link j) ∧
      t.fab.laser = addLoss s.fab.laser (fun j => (s.link (24 * die + j)).window)
        { die := die, links := maskPairs ks, wold := s.firstWidth die (maskPairs ks), modules := modulesOf waves, cause := if mon then 0 else 1 }))) ∧
  (∀ die waves links,
    let ks := s.litLinks die waves links
    ((2 ≤ die ∨ ks = []) → exec (.wavelengthRestore die waves links) s = .next s) ∧
    (die < 2 → ks ≠ [] → Completes (.wavelengthRestore die waves links) s (fun t => SameWork s t ∧ t.mem = s.mem ∧
      (∀ j, j < 48 → t.link j = if j / 24 = die ∧ j % 24 ∈ ks then { s.link j with pendUp := (s.link j).pendUp ||| (waves &&& ~~~(s.link j).waves) }
        else s.link j) ∧
      t.fab.laser = s.fab.laser ++
        [{ die := die, links := maskPairs ks, wold := s.firstWidth die (maskPairs ks), modules := modulesOf waves, cause := 2 }]))) ∧
  (∀ die, s.fab.laser.find? (fun r => r.die = die) = none → exec (.laserloss die) s = .next s) ∧
  (∀ die r, s.fab.laser.find? (fun x => x.die = die) = some r → (s.laserDue r = false → exec (.laserloss die) s = .next s) ∧
    (s.laserDue r = true → Completes (.laserloss die) s (fun t => SameWork s t ∧ t.fab.laser = s.fab.laser.erase r ∧
      smGet 0 t.plat.dieSeq (4 + die) = smGet 0 s.plat.dieSeq (4 + die) + 1)))
/-- R368, R369, R371 to R375, R382: a request, a write-back, an eviction or an atomic has its turn at the switch, or waits while its line is in use
there. A read shared, read exclusive or upgrade that no other holder has to answer gives its line the entry of R371 and grants it; one
that others hold asks them; into a full set a read shared is granted uncached and another waits. An atomic or an uncached write of a line
that nobody holds is performed at its home. A write-back and a clean eviction change the entry, and are acknowledged.
It says when each of these forms completes: `readShared`, `readExclusive`, `upgrade`, `writeBack`, `cleanEviction`, `atomic`. -/
def Obligations.RequestEvents : Prop := ∀ (s : State),
  (∀ r ∈ requests ++ [(.writeBack, 4), (.cleanEviction, 5), (.atomic, 6)],
    (s.turn r.2 = none → exec r.1 s = .next s) ∧
    (∀ m u, s.turn r.2 = some (false, m, u) → u.lineQueued m.line = true →
      Completes r.1 s (fun t => Taken s t ∧ t.fab.waiting = u.fab.waiting ++ [m] ∧ t.fab.dir = s.fab.dir ∧ t.mem = s.mem))) ∧
  (∀ r ∈ requests, ∀ w m u, s.turn r.2 = some (w, m, u) → u.upNow w m.line = true →
    (u.setFull m.line = false → (s.entryOf m.line).asks r.2 m.src = [] →
      Completes r.1 s (fun t => Taken s t ∧ t.entryOf m.line = { (s.entryOf m.line).after r.2 m.src with granted := s.fab.grantNo } ∧
        t.fab.trans = s.fab.trans ∧ ∃ x ∈ t.fab.net, x.kind = 12 ∧ x.dst = m.src ∧ x.line = m.line ∧
          x.op = ((s.entryOf m.line).after r.2 m.src).stateOf m.src)) ∧
    (u.setFull m.line = false → (s.entryOf m.line).asks r.2 m.src ≠ [] →
      Completes r.1 s (fun t => Taken s t ∧ t.entryOf m.line = s.entryOf m.line ∧
        t.fab.trans = s.fab.trans ++ [{ line := m.line, req := some m, acks := ((s.entryOf m.line).asks r.2 m.src).map (·.1) }] ∧
        ∀ a ∈ (s.entryOf m.line).asks r.2 m.src, Sent t a.2.1 a.1 m.line)) ∧
    (u.setFull m.line = true → r.2 = 1 → Completes r.1 s (fun t => Taken s t ∧ t.mem = s.mem ∧ Sent t 10 m.src m.line ∧ Sent t 13 m.src m.line)) ∧
    (u.setFull m.line = true → r.2 ≠ 1 → Completes r.1 s (fun t => Taken s t ∧ t.mem = s.mem ∧ m ∈ t.fab.waiting))) ∧
  (∀ w m u, s.turn 6 = some (w, m, u) → u.upNow w m.line = true → (u.entryOf m.line).holders = [] → u.keptOf m = none →
    ((m.data.head?).map (·.1)).getD 0 + m.size ≤ 128 →
    let pa := 128 * m.line + ((m.data.head?).map (·.1)).getD 0
    let old := leNat ((List.range m.size).map (fun i => (u.dropEntry m.line).gmByte (pa + i)))
    Completes .atomic s (fun t => SameWork s t ∧ t.keptOf m = some (BitVec.ofNat 64 old) ∧
      (∃ x ∈ t.fab.net, x.kind = 10 ∧ x.op = 1 ∧ x.dst = m.src ∧ x.opa = BitVec.ofNat 64 old) ∧
      ∀ i, i < m.size → t.gmByte (pa + i) =
        (leBytes m.size (atomStep m.op m.size old { lane := 0, loc := ⟨.glob, 8 * pa, 8 * m.size⟩, a := m.opa, b := m.opb })).getD i 0)) ∧
  (∀ w m u, s.turn 4 = some (w, m, u) → u.upNow w m.line = true →
    (m.op ≠ 1 → (s.entryOf m.line).st = 3 → (s.entryOf m.line).owner = m.src →
      Completes .writeBack s (fun t => Taken s t ∧ t.entryOf m.line = {} ∧ Sent t 11 m.src m.line)) ∧
    (m.op ≠ 1 → ¬(3 ≤ (s.entryOf m.line).st ∧ (s.entryOf m.line).owner = m.src) →
      Completes .writeBack s (fun t => Taken s t ∧ t.mem = s.mem ∧ t.fab.dir = s.fab.dir ∧ Sent t 11 m.src m.line)) ∧
    (m.op = 1 → (s.entryOf m.line).holders = [] →
      Completes .writeBack s (fun t => SameWork s t ∧ t.entryOf m.line = {} ∧ Sent t 11 m.src m.line))) ∧
  (∀ w m u, s.turn 5 = some (w, m, u) → u.upNow w m.line = true →
    Completes .cleanEviction s (fun t => Taken s t ∧ Sent t 11 m.src m.line ∧ m.src ∉ (t.entryOf m.line).sharers ∧
      ¬((t.entryOf m.line).st = 2 ∧ (t.entryOf m.line).owner = m.src)))
/-- R368, R371 to R377, R383: a forward sends the owner's data on and shares or gives up its copy; an invalidate drops the copy; both are
acknowledged; data waits for its grant, which fills PM with it and gives the package its line's state, an uncached grant fills PM alone;
acknowledgements count off, the last one grants. A recall asks every possible holder, who answers with its state; when its window has run
out, and this package owes no answer over a link that is up, it ends, and the interrupted request starts again.
It says when each of these forms completes: `forward`, `invalidate`, `recallReq`, `data`, `acknowledgement`, `grant`, `uncachedGrant`,
`lineRecall`, `recallWindowExpiry`. -/
def Obligations.HolderEvents : Prop := ∀ (s : State),
  (∀ r ∈ [(Instr.forward, 7), (.invalidate, 8), (.recallReq, 9), (.data, 10), (.acknowledgement, 11), (.grant, 12), (.uncachedGrant, 13)],
    s.takeMsg r.2 = none → exec r.1 s = .next s) ∧
  (∀ m u, s.takeMsg 7 = some (m, u) → m.dst = s.plat.pkg → Completes .forward s (fun t => Taken s t ∧ Sent t 10 m.src m.line ∧
    Sent t 11 (pkgOf (128 * m.line)) m.line ∧
    smGet 0 t.fab.peer m.line = (if m.op = 2 then 0 else match smGet 0 s.fab.peer m.line with | 2 => 1 | 3 => 4 | k => k))) ∧
  (∀ m u, s.takeMsg 7 = some (m, u) → m.dst ≠ s.plat.pkg → Completes .forward s (fun t => Taken s t ∧ Sent t 10 m.src m.line ∧
    Sent t 11 (pkgOf (128 * m.line)) m.line ∧ t.fab.peer = s.fab.peer)) ∧
  (∀ m u, s.takeMsg 8 = some (m, u) → Completes .invalidate s (fun t => Taken s t ∧ t.mem = s.mem ∧
    Sent t 11 (pkgOf (128 * m.line)) m.line ∧ (m.dst = s.plat.pkg → t.holding m.line = 0) ∧ (m.dst ≠ s.plat.pkg → t.fab.peer = s.fab.peer))) ∧
  (∀ m u, s.takeMsg 9 = some (m, u) → Completes .recallReq s (fun t => Taken s t ∧ t.mem = s.mem ∧
    ∃ x ∈ t.fab.net, x.kind = 11 ∧ x.op = 3 ∧ x.line = m.line ∧
      x.size = if m.dst = s.plat.pkg then s.holding m.line else (s.entryOf m.line).stateOf m.dst)) ∧
  (∀ m u, s.takeMsg 10 = some (m, u) → Completes .data s (fun t => Taken s t ∧ t.mem = s.mem ∧ t.fab.peer = s.fab.peer ∧
    t.fab.arrived = if m.dst ≠ s.plat.pkg ∨ m.op = 1 then s.fab.arrived else s.fab.arrived.filter (fun x => x.line != m.line) ++ [m])) ∧
  (∀ r ∈ [(Instr.grant, 12), (.uncachedGrant, 13)], ∀ m u, s.takeMsg r.2 = some (m, u) →
    (m.dst ≠ s.plat.pkg → exec r.1 s = .next u) ∧
    (m.dst = s.plat.pkg → Completes r.1 s (fun t => Taken s t ∧
      (∀ k, smGet 0 t.fab.peer k = if r.2 = 12 ∧ k = m.line then m.op else smGet 0 s.fab.peer k) ∧
      (∀ x ∈ t.fab.arrived, x.line ≠ m.line) ∧
      (m.psn = false → s.fab.arrived.find? (fun x => x.line = m.line) = none → t.mem = s.mem) ∧
      (∀ d, s.fab.arrived.find? (fun x => x.line = m.line) = some d → s.mem.writes = [] →
        ∀ i, i < d.data.length → memGet t.mem.pm (128 * m.line + i) = (d.data.map (·.2)).getD i 0)))) ∧
  (∀ m u, s.takeMsg 11 = some (m, u) →
    (m.op = 1 → m.dst = s.plat.pkg → Completes .acknowledgement s (fun t => Taken s t ∧ t.mem = s.mem ∧ smGet 0 t.fab.evict m.line = 0)) ∧
    (m.op = 2 → Completes .acknowledgement s (fun t => Taken s t ∧ t.mem = s.mem ∧ ∀ k ∈ t.fab.kept, ¬(k.1 = m.src ∧ k.2.1 = m.tag))) ∧
    (∀ tr, m.op = 0 → s.findTrans m.line = some tr → tr.acks.erase m.src ≠ [] → Completes .acknowledgement s (fun t => Taken s t ∧ t.mem = s.mem ∧
      t.findTrans m.line = some { tr with acks := tr.acks.erase m.src })) ∧
    (∀ tr q, m.op = 0 → s.findTrans m.line = some tr → tr.acks.erase m.src = [] → tr.recallCause = none → tr.req = some q → q.kind ∈ [1, 2, 3] →
      Completes .acknowledgement s (fun t => Taken s t ∧ Sent t 12 q.src m.line ∧
        t.fab.trans = dropFirst (fun x => x.line = m.line) s.fab.trans ∧
        ((s.entryOf m.line).after q.kind q.src).stateOf q.src = (t.entryOf m.line).stateOf q.src)) ∧
    (∀ tr, 3 ≤ m.op → s.findTrans m.line = some tr → tr.recallCause = none → Completes .acknowledgement s (fun t => Taken s t ∧ t.mem = s.mem ∧
      t.findTrans m.line = some { tr with answers := tr.answers.filter (fun a => a.1 != m.src) ++ [(m.src, m.size)] }))) ∧
  (∀ line cause, ((3 ≤ cause ∨ s.possible line = []) → exec (.lineRecall line cause) s = .next s) ∧
    (cause < 3 → s.possible line ≠ [] → Completes (.lineRecall line cause) s (fun t => Taken s t ∧ t.mem = s.mem ∧
      (∃ tr, t.findTrans line = some tr ∧ tr.recallCause = some cause ∧ tr.age = 0) ∧ ∀ q ∈ s.possible line, Sent t 9 q line))) ∧
  (∀ line, (s.findTrans line).bind (·.recallCause) = none → exec (.recallWindowExpiry line) s = .next s) ∧
  (∀ line tr cause, s.findTrans line = some tr → tr.recallCause = some cause →
    ((tr.age < s.recallLimit (s.planeOf line) ∨ s.owesAnswer line tr = true) → exec (.recallWindowExpiry line) s = .next s) ∧
    (s.recallLimit (s.planeOf line) ≤ tr.age → s.owesAnswer line tr = false → Completes (.recallWindowExpiry line) s (fun t => SameWork s t ∧
      t.fab.trans = dropFirst (fun x => x.line = line) s.fab.trans ∧ t.fab.waiting = tr.req.toList ++ s.fab.waiting)))
/-- R358, R376, R378 to R381: a lost plane is out of use, its peer lines are gone, REMAP names no lost plane for what it held, a record says so; a plane that
comes back is in use again without the package's clean lines of it. An increment counts toward its barrier's phase, and a phase
that is complete sends its completions; a completion ends the phase for the arrivals it counts.
It says when each of these forms completes: `barrierIncrement`, `barrierCompletion`, `planedown`, `planeReadmission`. -/
def Obligations.PlaneAndBarrierEvents : Prop := ∀ (s : State) (plane : Nat),
  (∀ cause pkg,
    let live := s.livePlanes.filter (· != plane)
    let ok := decide (plane < 48) && !(s.fab.lost.contains plane) && decide (live ≠ []) && decide (cause < 3) &&
      !(decide (cause = 1) && !((s.link plane).down))
    (ok = false → exec (.planedown plane cause pkg) s = .next s) ∧
    (ok = true → Completes (.planedown plane cause pkg) s (fun t => SameWork s t ∧ t.fab.lost = s.fab.lost ++ [plane] ∧
      (∀ p ∈ t.fab.peer, s.planeOf p.1 ≠ plane) ∧
      (∀ e, e < 4096 → (s.remapAt e = plane → t.remapAt e ∈ live) ∧ (s.remapAt e ≠ plane → t.remapAt e = s.remapAt e)) ∧
      smGet 0 t.plat.dieSeq (4 + plane / 24) = smGet 0 s.plat.dieSeq (4 + plane / 24) + 1))) ∧
  (∀ pkg, 48 ≤ plane → exec (.planeReadmission pkg plane) s = .next s) ∧
  (plane < 48 → Completes (.planeReadmission s.plat.pkg plane) s (fun t => SameWork s t ∧ t.fab.lost = s.fab.lost.filter (· != plane) ∧
    (t.link plane).down = false ∧ (t.link plane).fails = 0 ∧ ∀ p ∈ t.fab.peer, ¬(s.planeOf p.1 = plane ∧ p.2 ≤ 2))) ∧
  (s.takeBar (fun m => m.op != 1 && s.barRoom m) = none → exec .barrierIncrement s = .next s) ∧
  (∀ m u, s.takeBar (fun m => m.op != 1 && s.barRoom m) = some (m, u) → s.fab.bars.find? (fun b => sameBar b.ident m) = none →
    Completes .barrierIncrement s (fun t => SameWork s t ∧ t.mem = s.mem ∧
      (m.n < m.expect → ∃ b ∈ t.fab.bars, b.ident = m ∧ b.phase = m.phase ∧ b.count = m.n ∧ b.expect = m.expect) ∧
      (0 < m.n → m.n = m.expect → (∀ b ∈ t.fab.bars, sameBar b.ident m = false) ∧
        ∃ x ∈ t.fab.barNet, sameBar x m = true ∧ x.op = 1 ∧ x.dst = m.src ∧ x.expect = 0 ∧ x.phase = m.phase ∧ x.n = m.expect))) ∧
  (s.takeBar (fun m => m.op == 1) = none → exec .barrierCompletion s = .next s) ∧
  (∀ m u, s.takeBar (fun m => m.op == 1) = some (m, u) →
    ((m.dst ≠ s.plat.pkg ∨ (s.wideBar (podKey m)).phase ≠ m.phase) → exec .barrierCompletion s = .next u) ∧
    (m.dst = s.plat.pkg → (s.wideBar (podKey m)).phase = m.phase → Completes .barrierCompletion s (fun t =>
      t.fab.barNet = u.fab.barNet ∧ (t.wideBar (podKey m)).phase = m.phase + 1 ∧
      (t.wideBar (podKey m)).arrived = (s.wideBar (podKey m)).arrived.drop (min m.n (s.wideBar (podKey m)).arrived.length))))

/-! ### The host, the mailbox, SPDM, start and power (R266, R299, R343, R346, R385 to R404) -/

namespace Sys2Proof.Machine

/-- Only the host's side and memory differ: no member, workgroup, engine or core. -/
def HostOnly (s t : State) : Prop := t.m = s.m ∧ t.wg = s.wg ∧ t.wgs = s.wgs ∧ t.eng = s.eng ∧ t.cores = s.cores
/-- The mailbox commands by OP (R392). -/
def mailbox : List (Instr × Nat) :=
  [(.create, 1), (.destroy, 2), (.preempt, 3), (.resume, 4), (.setpool, 5), (.setreserve, 6), (.setremap, 7), (.partnew, 8), (.partfree, 9),
   (.readstart, 10), (.readalm, 11), (.resetctx, 12)]
/-- The head command of the mailbox is of an OP with some words, and the device serves commands. -/
def State.atHead (s : State) (op : Nat) (w : Nat → Nat) : Prop :=
  s.plat.started = true ∧ s.plat.step5 = true ∧ ∃ ws, s.mbHead = some ws ∧ ws.getD 0 0 = op ∧ ∀ i, ws.getD i 0 = w i
/-- The SPDM requests: code, and whether the answer is signed (R395). -/
def spdmRows : List (Instr × Nat × Bool) :=
  [(.getVersion, 0, false), (.getCapabilities, 1, false), (.negotiateAlgorithms, 2, false), (.getDigests, 3, false), (.getCertificate, 4, false),
   (.challenge, 5, true), (.getMeasurements, 6, false)]

end Sys2Proof.Machine

/-- R299, R340, R386 to R388, R391, R398, R400: before stacks 0 to 2 are trained a CXL.mem access waits; a read answers each byte from PM, or as poison where a
byte is not reached, a write changes it; a launch queue's tail never moves back or past the size; features are accepted among those
offered while no context exists; a register write changes the register it names alone; the start record is read out of band.
It says when each of these forms completes: `hostMemAccess`, `lqtail`, `featacc`, `hostRegisterWrite`, `i3cStartRecordRead`. -/
def Obligations.HostAccess : Prop := ∀ (s : State) (v : W64),
  (∀ part off wr len, s.plat.step5 = false → exec (.hostMemAccess part off wr len) s = .next s) ∧
  (∀ part off len, s.plat.step5 = true → Completes (.hostMemAccess part off none len) s (fun t => HostOnly s t ∧ t.mem = s.mem ∧
    t.host.memResp = (List.range len).map (fun i => s.hostByte part (off + i)))) ∧
  (∀ part off b len pa, s.plat.step5 = true → s.hdmPa part off = some pa → s.hdmOk part pa = true → s.fencedByte pa = false →
    Completes (.hostMemAccess part off (some [b]) len) s (fun t => HostOnly s t ∧ t.gmByte pa = b)) ∧
  (∀ ctx q, 4 ≤ q → exec (.lqtail ctx q v) s = .next s) ∧
  (∀ ctx q c, q < 4 → smFind s.ctxs ctx = some c →
    let x := smGet {} c.lq q
    exec (.hostRegisterWrite (some ctx) (0x20 * q + 0x18) v) s = exec (.lqtail ctx q v) s ∧
    Completes (.lqtail ctx q v) s (fun t => HostOnly s t ∧ t.mem = s.mem ∧
      smGet {} (smGet {} t.ctxs ctx).lq q = { x with tail :=
        if x.size.toNat < (v - x.head).toNat ∨ (v - x.head).toNat < (x.tail - x.head).toNat then x.tail else v })) ∧
  (∀ hi, s.ctxs ≠ [] → exec (.featacc hi v) s = .next s) ∧
  (∀ hi, s.ctxs = [] → Completes (.featacc hi v) s (fun t => HostOnly s t ∧ t.mem = s.mem ∧ ∀ i, i < 128 →
    t.host.featacc.getLsbD i = (s.host.featoff.getLsbD i &&
      if hi = decide (64 ≤ i) then v.getLsbD (i % 64) else s.host.featacc.getLsbD i))) ∧
  (∀ ctx c, smFind s.ctxs ctx = some c →
    Completes (.hostRegisterWrite (some ctx) 0xA0 v) s (fun t => HostOnly s t ∧ t.mem = s.mem ∧ t.host = s.host ∧
      (smGet {} t.ctxs ctx).eq = { c.eq with vec := v &&& 0xFFF } ∧ (smGet {} t.ctxs ctx).lq = c.lq)) ∧
  Completes (.hostRegisterWrite none 0x60 v) s (fun t => HostOnly s t ∧ t.mem = s.mem ∧ t.ctxs = s.ctxs ∧
    t.host = { s.host with mb := { s.host.mb with vec := v &&& 0xFFF } }) ∧
  Completes .i3cStartRecordRead s (fun t => HostOnly s t ∧ t.mem = s.mem ∧
    t.host.sideband = ((validCopy s.plat.flash).map StartCopy.bytes).getD [])

/-- R391 to R393: the mailbox: what every command needs, and what each of them does.
R391, R392: a mailbox command that is at the head is completed, whatever it answers: the head moves on by one; before step 4 of the start, with an empty
ring, or with another command at the head nothing changes. A head with no command's OP is completed with error 1. R398: READSTART is served as soon as
step 2 has brought the host port.
R266, R343, R344, R346, R367, R390, R392, R393, R397, R401, R404: what the mailbox commands do: CREATE makes the context its descriptor gives, DESTROY ends one,
PREEMPT stops a running group, RESUME lets a stopped workgroup run, SETPOOL, SETRESERVE and SETREMAP install what they read, PARTNEW and PARTFREE make and
end a partition, RESETCTX lets a stopped context launch again, READSTART and READALM copy a record.
It says when each of these forms completes: `create`, `destroy`, `preempt`, `resume`, `setpool`, `setreserve`, `setremap`, `partnew`,
`partfree`, `readstart`, `readalm`, `resetctx`, `malformedCommand`. -/
def Obligations.MailboxResults : Prop :=
  (∀ (s : State),
  (∀ r ∈ mailbox, ∀ w, s.atHead r.2 w → Completes r.1 s (fun t => t.host.mb = { s.host.mb with head := s.host.mb.head + 1 } ∧
    (bitN s.host.mb.vec.toNat 11 = true → bitsN s.host.mb.vec.toNat 0 11 ∈ t.host.msi))) ∧
  (∀ r ∈ (.malformedCommand, 0) :: mailbox, s.mbHead = none → exec r.1 s = .next s) ∧
  (∀ r ∈ (.malformedCommand, 0) :: mailbox, s.plat.started = false → (r.2 = 10 → s.plat.startStep < 2) → exec r.1 s = .next s) ∧
  (∀ r ∈ mailbox, ∀ ws, s.mbHead = some ws → ws.getD 0 0 ≠ r.2 → exec r.1 s = .next s) ∧
  (∀ ws, s.mbHead = some ws → 1 ≤ ws.getD 0 0 → ws.getD 0 0 ≤ 12 → exec .malformedCommand s = .next s) ∧
  (∀ ws, s.mbHead = some ws → s.plat.started = true → (ws.getD 0 0 = 0 ∨ 12 < ws.getD 0 0) →
    Completes .malformedCommand s (fun t => HostOnly s t ∧ t.host.mb = { s.host.mb with head := s.host.mb.head + 1 } ∧
      t.gmByte (s.host.mb.base.toNat + 64 * (s.host.mb.head.toNat % s.host.mb.size.toNat) + 1) = 1 ∧
      t.gmByte (s.host.mb.base.toNat + 64 * (s.host.mb.head.toNat % s.host.mb.size.toNat) + 7) = 1))) ∧
  (∀ (s : State) (w : Nat → Nat),
  (∀ id, s.atHead 1 w → w 1 < 64 → s.plat.parts.contains (w 1) = true →
    let d (i : Nat) : Nat := s.pmNat (w 2 + 8 * i) 8
    (s.rangePoison (w 2) 64 || s.badCtx (w 1) d) = false → (d 0 % 4 = 0 ∨ s.host.featacc.getLsbD 4 = true) → s.newCtxid (w 1) = some id →
    Completes .create s (fun t => HostOnly s t ∧ smFind t.ctxs (w 1 * 65536 + id) = some (s.makeCtx d))) ∧
  (∀ c, s.atHead 2 w → s.mbCtx (w 1) (w 2) = .ok c → Completes .destroy s (fun t => smFind t.ctxs c = none ∧
    (∀ n ∈ t.eng.nodes, n.ref.ctx ≠ c) ∧ ∀ x ∈ t.mem.tlb, x.ctx ≠ c)) ∧
  (∀ c x, s.atHead 3 w → s.mbCtx (w 1) (w 2) = .ok c → w 3 ≠ 0 → w 3 < 2 ^ 32 → s.liveWu c (w 3) = some x → s.here x.wu = true → x.stop = .running →
    x.group = [x.wu] → Completes .preempt s (fun t => t.m = s.m ∧ (t.findWu x.wu).map (fun y => (y.stop, y.stopCyc)) = some (.preempt, 0))) ∧
  (∀ c x, s.atHead 4 w → s.mbCtx (w 1) (w 2) = .ok c → w 3 < 2 ^ 32 → s.liveWu c (w 3) = some x → s.findWu x.wu = some x →
    (x.stop = .brk ∨ x.stop = .halt ∨ x.stop = .preempt ∨ x.stop = .fault true) →
    Completes .resume s (fun t => t.m = (if s.wg.wu = x.wu ∧ (x.stop = .preempt ∨ x.stop = .fault true) then { s.m with wt := [], early := [] }
      else s.m) ∧ (t.findWu x.wu).map (·.stop) = some .running)) ∧
  (∀ c cx, s.atHead 5 w → s.mbCtx (w 1) (w 2) = .ok c → smFind s.ctxs c = some cx →
    let hd := s.pmNat (w 4) 8
    (decide (w 3 < 16) && bitsN hd 53 11 == 0 && bitsN hd 21 11 == 0 && bitsN hd 32 21 != 0 && decide (bitsN hd 32 21 ≤ 2 ^ 20) &&
      decide (bitsN hd 0 21 ≤ bitsN hd 32 21) && !(s.rangePoison (w 4) (8 + 4 * bitsN hd 0 21))) = true →
    Completes .setpool s (fun t => HostOnly s t ∧ smFind (smGet {} t.ctxs c).pools (w 3) =
      some { cap := bitsN hd 32 21, pages := (List.range (bitsN hd 0 21)).map (fun i => s.pmNat (w 4 + 8 + 4 * i) 4) })) ∧
  (s.atHead 6 w → w 1 < 64 → w 2 < 2 → w 4 ≠ 0 → w 4 ≤ 65536 → s.plat.parts.contains (w 1) = true →
    let fs := (List.range (w 4)).map (fun i => s.pmNat (w 3 + 8 * i) 8)
    (s.rangePoison (w 3) (8 * w 4) || !(fs.all (s.frameOk (w 1) (w 2)))) = false →
    (smGet [] (if w 2 = 0 then s.plat.nearRes else s.plat.farRes) (w 1)).length + w 4 ≤ 65536 →
    Completes .setreserve s (fun t => HostOnly s t ∧
      smGet [] (if w 2 = 0 then t.plat.nearRes else t.plat.farRes) (w 1) = smGet [] (if w 2 = 0 then s.plat.nearRes else s.plat.farRes) (w 1) ++ fs)) ∧
  (s.atHead 7 w → s.ctxs = [] → s.rangePoison (w 1) 4096 = false → (∀ e, e < 4096 → s.pmNat (w 1 + e) 1 ≤ 47) →
    Completes .setremap s (fun t => HostOnly s t ∧ ∀ e, e < 4096 → t.remapAt e = s.pmNat (w 1 + e) 1)) ∧
  (s.atHead 8 w → w 1 < 64 → s.plat.parts.contains (w 1) = false → Completes .partnew s (fun t => HostOnly s t ∧ t.plat.parts = s.plat.parts ++ [w 1] ∧
    smGet 0 t.plat.partKeys (w 1) = smGet 0 s.plat.partKeys (w 1) + 1)) ∧
  (s.atHead 9 w → w 1 < 64 → s.plat.parts.contains (w 1) = true → (s.ctxs.any (fun c => partOf c.1 = w 1)) = false →
    Completes .partfree s (fun t => HostOnly s t ∧ t.plat.parts = s.plat.parts.filter (· != w 1))) ∧
  (∀ c, s.atHead 12 w → s.mbCtx (w 1) (w 2) = .ok c → (smGet {} s.ctxs c).stopped = true → Completes .resetctx s (fun t => t.mem.tlb = s.mem.tlb ∧
    (smGet {} t.ctxs c).stopped = false ∧ t.eng = s.eng)) ∧
  (∀ c ws, s.plat.started = true ∨ (2 ≤ s.plat.startStep ∧ (c.steps.getD 1 {}).outcome = 0) → s.mbHead = some ws → ws.getD 0 0 = 10 →
    validCopy s.plat.flash = some c → Completes .readstart s (fun t => HostOnly s t ∧ t.plat = s.plat ∧
      t.host.mb = { s.host.mb with head := s.host.mb.head + 1 })) ∧
  (s.atHead 11 w → Completes .readalm s (fun t => HostOnly s t ∧ t.uid = s.uid ∧ t.plat = s.plat)))
/-- R395: an SPDM request that waits is answered, and no request waits then; a CHALLENGE is answered with a signature at its end. With none waiting nothing
changes. The answers' bytes are free values (the spec states none of them).
It says when each of these forms completes: `getVersion`, `getCapabilities`, `negotiateAlgorithms`, `getDigests`, `getCertificate`,
`challenge`, `getMeasurements`. -/
def Obligations.SpdmResults : Prop := ∀ (s : State), ∀ r ∈ spdmRows,
  (s.host.doeReq = [] → exec r.1 s = .next s) ∧
  (s.host.doeReq ≠ [] → Completes r.1 s (fun t => HostOnly s t ∧ t.mem = s.mem ∧ t.ctxs = s.ctxs ∧ t.plat = s.plat ∧ t.host.doeReq = [] ∧
    ∃ body, t.host.doeResp = body ++ (if r.2.2 then signature (s.host.doeReq ++ body) else [])))
/-- R394, R396, R397, R399, R400, R402, R404: a start step is taken and its outcome recorded, with what a passed step does: step 4 starts the device at 500 MHz, step
5 says which stacks did not come up, step 10 offers full service; a step that failed, and may not be left out nor has an alternate way, ends the
start. The power cap lowers and raises the clock; the almanac goes to flash; power that goes leaves flash alone.
It says when each of these forms completes: `powerOn`, `powerCap`, `almanacWrite`, `powerDown`, `powerLoss`. -/
def Obligations.StartAndPower : Prop := ∀ (s : State),
  let k := s.plat.startStep + 1
  let r := s.stepRes k
  let way := takeStep k (s.stepRec k) r
  (11 ≤ k → exec .powerOn s = .next s) ∧
  (k ≤ 10 → Completes .powerOn s (fun t => t.m = s.m ∧ t.wg = s.wg ∨ k = 6)) ∧
  (k ≤ 10 → way.2.2.2 = true → Completes .powerOn s (fun t => t.plat.startStep = 11 ∧ t.plat.started = s.plat.started ∧ t.plat.full = s.plat.full ∧
    ∃ c ∈ t.plat.flash, c.valid = true ∧ ((c.steps.getD (k - 1) {}).outcome = way.2.1) ∧ ∀ i, k ≤ i → i < 10 → (c.steps.getD i {}).outcome = 2)) ∧
  (k = 4 → way.2.2.1 = true → Completes .powerOn s (fun t => t.plat.startStep = (if way.2.2.2 then 11 else 4) ∧ t.plat.started = true ∧ t.plat.clockMHz = 500 ∧
    t.host.featoff.getLsbD 0 = true ∧ t.host.featoff.getLsbD 3 = true ∧ t.host.featoff.getLsbD 4 = true)) ∧
  (k = 5 → way.2.2.1 = true → Completes .powerOn s (fun t => t.plat.step5 = true ∧
    ∀ x, x ∈ t.plat.hbmStacks ↔ (x ∈ r.found ∧ 3 ≤ x ∧ x < 12))) ∧
  (k = 10 → way.2.2.1 = true → Completes .powerOn s (fun t => t.plat.full = true ∧ t.plat.clockMHz = 1050 ∧ t.plat.startStep = 11 ∧
    t.host.featoff.getLsbD 0 = false)) ∧
  (39000 < s.plat.powerDW → Completes .powerCap s (fun t => t.plat = { s.plat with clockMHz := max 500 (s.plat.clockMHz - 50) } ∧ t.m = s.m)) ∧
  (s.plat.powerDW < 37000 → Completes .powerCap s (fun t => t.m = s.m ∧
    t.plat = { s.plat with clockMHz := max s.plat.clockMHz (min (if s.plat.full then 1050 else 500) (s.plat.clockMHz + 50)) })) ∧
  (37000 ≤ s.plat.powerDW → s.plat.powerDW ≤ 39000 → exec .powerCap s = .next s) ∧
  Completes .almanacWrite s (fun t => t.plat = { s.plat with almFlash := s.plat.almanac } ∧ t.m = s.m ∧ t.mem = s.mem) ∧
  (Completes .powerDown s (fun t => t.plat.flash = s.plat.flash ∧ t.plat.almFlash = s.plat.almanac ∧ t.plat.almanac = s.plat.almanac ∧ t.m = State.reset.m ∧
    t.wg = State.reset.wg ∧ t.mem = State.reset.mem ∧ t.ctxs = [] ∧ t.plat.startStep = 0 ∧ t.plat.started = false ∧ t.plat.full = false)) ∧
  (Completes (.powerLoss none) s (fun t => t.plat.flash = s.plat.flash ∧ t.plat.almFlash = s.plat.almFlash ∧ t.plat.almanac = s.plat.almFlash ∧
    t.m = State.reset.m ∧ t.wg = State.reset.wg ∧ t.mem = State.reset.mem ∧ t.ctxs = [] ∧ t.plat.startStep = 0)) ∧
  (∀ j a b, s.plat.flash = [a, b] → j < 2 → Completes (.powerLoss (some j)) s (fun t =>
    t.plat.flash = if ([a, b].getD (1 - j) {}).valid then (if j = 0 then [{ a with valid := false }, b] else [a, { b with valid := false }]) else [a, b]))
end

