-- ==== Sys2Proof/Laws/Decode.lean ====
section
/-!
SUPPORT. Decode.lean (laws): a slot's fields are those its encoder put there, format by format (R95, R97 to R105).
-/
namespace Sys2Proof

/-- A field below the seam of two joined vectors lies in the lower one. -/
theorem extract_low {a n lo k : Nat} (x : BitVec a) (y : BitVec n) (h : lo + k ≤ n) : (x ++ y).extractLsb' lo k = y.extractLsb' lo k := by
  apply BitVec.eq_of_getLsbD_eq
  intro i hi
  simp only [BitVec.getLsbD_extractLsb', BitVec.getLsbD_append, hi, decide_true, Bool.true_and]
  rw [if_pos (by omega)]
/-- A field above the seam of two joined vectors lies in the upper one. -/
theorem extract_high {a n lo k : Nat} (x : BitVec a) (y : BitVec n) (h : n ≤ lo) : (x ++ y).extractLsb' lo k = x.extractLsb' (lo - n) k := by
  apply BitVec.eq_of_getLsbD_eq
  intro i hi
  simp only [BitVec.getLsbD_extractLsb', BitVec.getLsbD_append, hi, decide_true, Bool.true_and]
  rw [if_neg (by omega)]
  congr 1
  omega
/-- The field of all bits. -/
theorem extract_all {n : Nat} (x : BitVec n) : x.extractLsb' 0 n = x := by
  apply BitVec.eq_of_getLsbD_eq
  intro i hi
  simp [hi]

theorem hdrOf_asmA (op : BitVec 8) (h : Hdr) (f : FA) : hdrOf (asmA op h f) = h := by
  unfold hdrOf asmA fld
  simp (disch := decide) only [extract_high, extract_low, extract_all, Nat.reduceSub]
theorem fAOf_asmA (op : BitVec 8) (h : Hdr) (f : FA) : fAOf (asmA op h f) = f := by
  unfold fAOf asmA fld
  simp (disch := decide) only [extract_high, extract_low, extract_all, Nat.reduceSub]
theorem op_asmA (op : BitVec 8) (h : Hdr) (f : FA) : fld (asmA op h f) 0 8 = op := by
  unfold asmA fld
  simp (disch := decide) only [extract_low, extract_all]
theorem hdrOf_asmL (op : BitVec 8) (h : Hdr) (f : FL) : hdrOf (asmL op h f) = h := by
  unfold hdrOf asmL fld
  simp (disch := decide) only [extract_high, extract_low, extract_all, Nat.reduceSub]
theorem fLOf_asmL (op : BitVec 8) (h : Hdr) (f : FL) : fLOf (asmL op h f) = f := by
  unfold fLOf asmL fld
  simp (disch := decide) only [extract_high, extract_low, extract_all, Nat.reduceSub]
theorem op_asmL (op : BitVec 8) (h : Hdr) (f : FL) : fld (asmL op h f) 0 8 = op := by
  unfold asmL fld
  simp (disch := decide) only [extract_low, extract_all]
theorem hdrOf_asmM (op : BitVec 8) (h : Hdr) (f : FM) : hdrOf (asmM op h f) = h := by
  unfold hdrOf asmM fld
  simp (disch := decide) only [extract_high, extract_low, extract_all, Nat.reduceSub]
theorem fMOf_asmM (op : BitVec 8) (h : Hdr) (f : FM) : fMOf (asmM op h f) = f := by
  unfold fMOf asmM fld
  simp (disch := decide) only [extract_high, extract_low, extract_all, Nat.reduceSub]
theorem op_asmM (op : BitVec 8) (h : Hdr) (f : FM) : fld (asmM op h f) 0 8 = op := by
  unfold asmM fld
  simp (disch := decide) only [extract_low, extract_all]
theorem hdrOf_asmB (op : BitVec 8) (h : Hdr) (f : FB) : hdrOf (asmB op h f) = h := by
  unfold hdrOf asmB fld
  simp (disch := decide) only [extract_high, extract_low, extract_all, Nat.reduceSub]
theorem fBOf_asmB (op : BitVec 8) (h : Hdr) (f : FB) : fBOf (asmB op h f) = f := by
  unfold fBOf asmB fld
  simp (disch := decide) only [extract_high, extract_low, extract_all, Nat.reduceSub]
theorem op_asmB (op : BitVec 8) (h : Hdr) (f : FB) : fld (asmB op h f) 0 8 = op := by
  unfold asmB fld
  simp (disch := decide) only [extract_low, extract_all]
theorem hdrOf_asmX (op : BitVec 8) (h : Hdr) (f : FX) : hdrOf (asmX op h f) = h := by
  unfold hdrOf asmX fld
  simp (disch := decide) only [extract_high, extract_low, extract_all, Nat.reduceSub]
theorem fXOf_asmX (op : BitVec 8) (h : Hdr) (f : FX) : fXOf (asmX op h f) = f := by
  unfold fXOf asmX fld
  simp (disch := decide) only [extract_high, extract_low, extract_all, Nat.reduceSub]
theorem op_asmX (op : BitVec 8) (h : Hdr) (f : FX) : fld (asmX op h f) 0 8 = op := by
  unfold asmX fld
  simp (disch := decide) only [extract_low, extract_all]
theorem hdrOf_asmC (op : BitVec 8) (h : Hdr) (f : FC) : hdrOf (asmC op h f) = h := by
  unfold hdrOf asmC fld
  simp (disch := decide) only [extract_high, extract_low, extract_all, Nat.reduceSub]
theorem fCOf_asmC (op : BitVec 8) (h : Hdr) (f : FC) : fCOf (asmC op h f) = f := by
  unfold fCOf asmC fld
  simp (disch := decide) only [extract_high, extract_low, extract_all, Nat.reduceSub]
theorem op_asmC (op : BitVec 8) (h : Hdr) (f : FC) : fld (asmC op h f) 0 8 = op := by
  unfold asmC fld
  simp (disch := decide) only [extract_low, extract_all]
theorem hdrOf_asmH (op : BitVec 8) (h : Hdr) (f : FH) : hdrOf (asmH op h f) = h := by
  unfold hdrOf asmH fld
  simp (disch := decide) only [extract_high, extract_low, extract_all, Nat.reduceSub]
theorem fHOf_asmH (op : BitVec 8) (h : Hdr) (f : FH) : fHOf (asmH op h f) = f := by
  unfold fHOf asmH fld
  simp (disch := decide) only [extract_high, extract_low, extract_all, Nat.reduceSub]
theorem op_asmH (op : BitVec 8) (h : Hdr) (f : FH) : fld (asmH op h f) 0 8 = op := by
  unfold asmH fld
  simp (disch := decide) only [extract_low, extract_all]
theorem hdrOf_asmS (op : BitVec 8) (h : Hdr) (f : FS) : hdrOf (asmS op h f) = h := by
  unfold hdrOf asmS fld
  simp (disch := decide) only [extract_high, extract_low, extract_all, Nat.reduceSub]
theorem fSOf_asmS (op : BitVec 8) (h : Hdr) (f : FS) : fSOf (asmS op h f) = f := by
  unfold fSOf asmS fld
  simp (disch := decide) only [extract_high, extract_low, extract_all, Nat.reduceSub]
theorem op_asmS (op : BitVec 8) (h : Hdr) (f : FS) : fld (asmS op h f) 0 8 = op := by
  unfold asmS fld
  simp (disch := decide) only [extract_low, extract_all]
theorem reg_asmB (op : BitVec 8) (h : Hdr) (f : FB) : fld (asmB op h f) 71 9 = f.reg := by
  unfold asmB fld
  simp (disch := decide) only [extract_high, extract_low, extract_all, Nat.reduceSub]
theorem timeout_asmB (op : BitVec 8) (h : Hdr) (f : FB) : fld (asmB op h f) 80 16 = f.timeout := by
  unfold asmB fld
  simp (disch := decide) only [extract_high, extract_low, extract_all, Nat.reduceSub]
theorem sub_asmA (op : BitVec 8) (h : Hdr) (f : FA) : fld (asmA op h f) 56 4 = f.sub := by
  unfold asmA fld
  simp (disch := decide) only [extract_high, extract_low, extract_all, Nat.reduceSub]
theorem wr_asmL (op : BitVec 8) (h : Hdr) (f : FL) : fld (asmL op h f) 56 1 = f.sub.extractLsb' 0 1 := by
  unfold asmL fld
  simp (disch := decide) only [extract_high, extract_low, extract_all, Nat.reduceSub]
theorem fn_asmC (op : BitVec 8) (h : Hdr) (f : FC) : fld (asmC op h f) 34 7 = f.fn := by
  unfold asmC fld
  simp (disch := decide) only [extract_high, extract_low, extract_all, Nat.reduceSub]
theorem group_asmC (op : BitVec 8) (h : Hdr) (f : FC) : fld (asmC op h f) 0 3 = op.extractLsb' 0 3 := by
  unfold asmC fld
  simp (disch := decide) only [extract_high, extract_low, extract_all, Nat.reduceSub]
theorem sub_asmS (op : BitVec 8) (h : Hdr) (f : FS) : fld (asmS op h f) 46 4 = f.sub := by
  unfold asmS fld
  simp (disch := decide) only [extract_high, extract_low, extract_all, Nat.reduceSub]
/-- A slot with an opcode other than 0xFF is not the empty slot. -/
theorem ne_empty {w : Slot96} (h : fld w 0 8 ≠ 255#8) : w ≠ BitVec.allOnes 96 := by
  rintro rfl
  exact h (by decide)
theorem decode_ctl {w : Slot96} : (fld w 0 8).toNat < 32 → decode w = decodeCtl w := by
  intro h
  unfold decode
  rw [if_neg (ne_empty (fun e => by rw [e] at h; exact absurd h (by decide)))]
  dsimp only
  rw [if_pos h]
theorem decode_int {w : Slot96} : 32 ≤ (fld w 0 8).toNat → (fld w 0 8).toNat < 80 → decode w = decodeInt w := by
  intro g h
  unfold decode
  rw [if_neg (ne_empty (fun e => by rw [e] at h; exact absurd h (by decide)))]
  dsimp only
  rw [if_neg (by omega)]; rw [if_pos h]
theorem decode_flt {w : Slot96} : 80 ≤ (fld w 0 8).toNat → (fld w 0 8).toNat < 120 → decode w = decodeFlt w := by
  intro g h
  unfold decode
  rw [if_neg (ne_empty (fun e => by rw [e] at h; exact absurd h (by decide)))]
  dsimp only
  rw [if_neg (by omega)]; rw [if_neg (by omega)]; rw [if_pos h]
theorem decode_mem {w : Slot96} : 120 ≤ (fld w 0 8).toNat → (fld w 0 8).toNat < 152 → decode w = decodeMem w := by
  intro g h
  unfold decode
  rw [if_neg (ne_empty (fun e => by rw [e] at h; exact absurd h (by decide)))]
  dsimp only
  rw [if_neg (by omega)]; rw [if_neg (by omega)]; rw [if_neg (by omega)]; rw [if_pos h]
theorem decode_lay {w : Slot96} : 152 ≤ (fld w 0 8).toNat → (fld w 0 8).toNat < 168 → decode w = decodeLay w := by
  intro g h
  unfold decode
  rw [if_neg (ne_empty (fun e => by rw [e] at h; exact absurd h (by decide)))]
  dsimp only
  rw [if_neg (by omega)]; rw [if_neg (by omega)]; rw [if_neg (by omega)]; rw [if_neg (by omega)]; rw [if_pos h]
theorem decode_mtx {w : Slot96} : 168 ≤ (fld w 0 8).toNat → (fld w 0 8).toNat < 184 → decode w = decodeMtx w := by
  intro g h
  unfold decode
  rw [if_neg (ne_empty (fun e => by rw [e] at h; exact absurd h (by decide)))]
  dsimp only
  rw [if_neg (by omega)]; rw [if_neg (by omega)]; rw [if_neg (by omega)]; rw [if_neg (by omega)]; rw [if_neg (by omega)]; rw [if_pos h]
theorem decode_team {w : Slot96} : 184 ≤ (fld w 0 8).toNat → (fld w 0 8).toNat < 200 → decode w = decodeTeam w := by
  intro g h
  unfold decode
  rw [if_neg (ne_empty (fun e => by rw [e] at h; exact absurd h (by decide)))]
  dsimp only
  rw [if_neg (by omega)]; rw [if_neg (by omega)]; rw [if_neg (by omega)]; rw [if_neg (by omega)]; rw [if_neg (by omega)]; rw [if_neg (by omega)]; rw [if_pos h]
theorem decode_eng {w : Slot96} : 200 ≤ (fld w 0 8).toNat → (fld w 0 8).toNat < 208 → decode w = decodeEng w := by
  intro g h
  unfold decode
  rw [if_neg (ne_empty (fun e => by rw [e] at h; exact absurd h (by decide)))]
  dsimp only
  rw [if_neg (by omega)]; rw [if_neg (by omega)]; rw [if_neg (by omega)]; rw [if_neg (by omega)]; rw [if_neg (by omega)]; rw [if_neg (by omega)]; rw [if_neg (by omega)]; rw [if_pos h]
theorem decode_sys {w : Slot96} : 208 ≤ (fld w 0 8).toNat → (fld w 0 8).toNat < 224 → decode w = decodeSys w := by
  intro g h
  unfold decode
  rw [if_neg (ne_empty (fun e => by rw [e] at h; exact absurd h (by decide)))]
  dsimp only
  rw [if_neg (by omega)]; rw [if_neg (by omega)]; rw [if_neg (by omega)]; rw [if_neg (by omega)]; rw [if_neg (by omega)]; rw [if_neg (by omega)]; rw [if_neg (by omega)]; rw [if_neg (by omega)]; rw [if_pos h]

end Sys2Proof
end

