-- ==== Sys2Proof/Laws/Maps.lean ====
section
/-!
SUPPORT. Maps.lean: sparse maps and memory: read after write, and the canonical form that every write keeps.
-/
namespace Sys2Proof.Machine

variable {V : Type}

/-- Read after an insertion. -/
@[simp] theorem smGet_smIns (d : V) (m : SMap V) (a b : Nat) (x : V) :
    smGet d (smIns m a x) b = if b = a then x else smGet d m b := by
  induction m with
  | nil => simp [smIns, smGet, eq_comm]
  | cons e m ih =>
    obtain ⟨k, v⟩ := e
    simp only [smIns]
    split
    · simp only [smGet]; by_cases h : a = b <;> simp [h, eq_comm]
    · split
      · subst_vars; simp only [smGet]; by_cases h : k = b <;> simp [h, eq_comm]; intro h'; exact absurd h'.symm h
      · simp only [smGet, ih]
        by_cases h : k = b
        · subst h; simp; intro h'; simp_all
        · simp [h]

/-- Read after a removal. -/
@[simp] theorem smGet_smDel (d : V) (m : SMap V) (a b : Nat) : smGet d (smDel m a) b = if b = a then d else smGet d m b := by
  induction m with
  | nil => simp [smDel, smGet]
  | cons e m ih =>
    obtain ⟨k, v⟩ := e
    simp only [smDel]
    split
    · subst_vars
      rw [ih]
      by_cases hb : b = k
      · simp [hb]
      · simp [hb, smGet, Ne.symm hb]
    · rename_i hka
      simp only [smGet, ih]
      by_cases hb : k = b
      · subst hb; simp [hka]
      · simp [hb]

/-- A lower bound may be lowered. -/
theorem keysRise_mono (m : SMap V) (a : Nat) (lo : Option Nat) (h : keysRise (some a) m = true) (hl : ∀ l, lo = some l → l ≤ a) :
    keysRise lo m = true := by
  cases m with
  | nil => rfl
  | cons e m => cases lo <;> simp_all [keysRise]; omega

/-- Keys still rise after a removal. -/
theorem keysRise_smDel (m : SMap V) (lo : Option Nat) (a : Nat) (h : keysRise lo m = true) : keysRise lo (smDel m a) = true := by
  induction m generalizing lo with
  | nil => exact h
  | cons e m ih =>
    obtain ⟨k, v⟩ := e
    simp only [keysRise, Bool.and_eq_true] at h
    simp only [smDel]
    split
    · refine ih _ (keysRise_mono _ _ _ h.2 ?_)
      intro l hl; subst hl; have := h.1; simp at this; omega
    · simp [keysRise, h.1, ih _ h.2]

/-- Keys still rise after an insertion above the bound. -/
theorem keysRise_smIns (m : SMap V) (lo : Option Nat) (a : Nat) (x : V) (h : keysRise lo m = true)
    (ha : ∀ l, lo = some l → l < a) : keysRise lo (smIns m a x) = true := by
  induction m generalizing lo with
  | nil => cases lo <;> simp_all [smIns, keysRise]
  | cons e m ih =>
    obtain ⟨k, v⟩ := e
    simp only [keysRise, Bool.and_eq_true] at h
    simp only [smIns]
    split
    · cases lo <;> simp_all [keysRise]
    · split
      · subst_vars; cases lo <;> simp_all [keysRise]
      · simp only [keysRise, Bool.and_eq_true]
        exact ⟨h.1, ih _ h.2 (by intro l hl; cases hl; omega)⟩

/-- Every entry left by a removal was there. -/
theorem mem_of_mem_smDel (m : SMap V) (a : Nat) (e : Nat × V) (h : e ∈ smDel m a) : e ∈ m := by
  induction m with
  | nil => exact h
  | cons e' m ih =>
    obtain ⟨k, v⟩ := e'
    simp only [smDel] at h
    split at h
    · exact List.mem_cons_of_mem _ (ih h)
    · rcases List.mem_cons.1 h with h | h
      · exact h ▸ List.mem_cons_self
      · exact List.mem_cons_of_mem _ (ih h)

/-- Every entry after an insertion was there or is the new one. -/
theorem mem_of_mem_smIns (m : SMap V) (a : Nat) (x : V) (e : Nat × V) (h : e ∈ smIns m a x) : e ∈ m ∨ e = (a, x) := by
  induction m with
  | nil => simp_all [smIns]
  | cons e' m ih =>
    obtain ⟨k, v⟩ := e'
    simp only [smIns] at h
    split at h
    · simp_all; tauto
    · split at h
      · simp_all; tauto
      · rcases List.mem_cons.1 h with h | h
        · exact .inl (h ▸ List.mem_cons_self)
        · rcases ih h with h | h
          · exact .inl (List.mem_cons_of_mem _ h)
          · exact .inr h

variable [DecidableEq V]

/-- A write keeps the canonical form. -/
theorem smWf_smPut (d : V) (m : SMap V) (a : Nat) (x : V) (h : smWf d m = true) : smWf d (smPut d m a x) = true := by
  simp only [smWf, Bool.and_eq_true, List.all_eq_true, decide_eq_true_eq] at h ⊢
  unfold smPut
  split
  · exact ⟨keysRise_smDel _ _ _ h.1, fun e he => h.2 e (mem_of_mem_smDel _ _ _ he)⟩
  · refine ⟨keysRise_smIns _ _ _ _ h.1 (by simp), fun e he => ?_⟩
    rcases mem_of_mem_smIns _ _ _ _ he with he | rfl
    · exact h.2 e he
    · assumption

/-- Read after a write. -/
@[simp] theorem smGet_smPut (d : V) (m : SMap V) (a b : Nat) (x : V) :
    smGet d (smPut d m a x) b = if b = a then x else smGet d m b := by
  unfold smPut
  split
  · subst_vars; exact smGet_smDel _ _ _ _
  · exact smGet_smIns _ _ _ _ _

/-! ### Memory -/

/-- Writing one byte keeps the canonical form of memory. -/
theorem memPut_wf (m : Memory) (a : Nat) (b : Byte) (h : m.wf = true) : Memory.wf (memPut m a b) = true := smWf_smPut _ _ _ _ h
/-- Writing bytes keeps the canonical form of memory. -/
theorem memPuts_wf (bs : List Byte) (m : Memory) (a : Nat) (h : m.wf = true) : Memory.wf (memPuts m a bs) = true := by
  induction bs generalizing m a with
  | nil => exact h
  | cons b bs ih => exact ih _ _ (memPut_wf _ _ _ h)
/-- Copying a range keeps the canonical form of the memory copied to. -/
theorem memCopy_wf (src dst : Memory) (a n : Nat) (h : dst.wf = true) : Memory.wf (memCopy src dst a n) = true := memPuts_wf _ _ _ h
/-- A byte read after one is written. -/
@[simp] theorem memGet_memPut (m : Memory) (a b : Nat) (x : Byte) :
    memGet (memPut m a x) b = if b = a then x else memGet m b := smGet_smPut _ _ _ _ _
/-- A byte elsewhere, after bytes are written. -/
theorem memGet_memPuts_other (bs : List Byte) (m : Memory) (a b : Nat) (hb : b < a ∨ a + bs.length ≤ b) :
    memGet (memPuts m a bs) b = memGet m b := by
  induction bs generalizing m a with
  | nil => rfl
  | cons x bs ih =>
    simp only [List.length_cons] at hb
    rw [memPuts, ih _ _ (by omega)]
    rw [memGet_memPut, if_neg (by omega)]
/-- The bytes read back after they are written. -/
theorem memGets_memPuts (bs : List Byte) (m : Memory) (a : Nat) : memGets (memPuts m a bs) a bs.length = bs := by
  induction bs generalizing m a with
  | nil => rfl
  | cons x bs ih =>
    simp only [memPuts, List.length_cons, memGets]
    rw [memGet_memPuts_other _ _ _ _ (by omega), memGet_memPut, ih]
    simp

end Sys2Proof.Machine
end

