-- ==== Sys2Proof/Laws/State.lean ====
section
/-!
SUPPORT. State.lean: what each update of the state leaves of each field: one lemma per field per update, true by rfl.
-/
namespace Sys2Proof.Machine

/-! ### modM -/

@[simp] theorem State.modM_m (s : State) (f : Member → Member) : (s.modM f).m = f s.m := rfl
@[simp] theorem State.modM_wg (s : State) (f : Member → Member) : (s.modM f).wg = s.wg := rfl
@[simp] theorem State.modM_pre (s : State) (f : Member → Member) : (s.modM f).pre = s.pre := rfl
@[simp] theorem State.modM_wgs (s : State) (f : Member → Member) : (s.modM f).wgs = s.wgs := rfl
@[simp] theorem State.modM_mem (s : State) (f : Member → Member) : (s.modM f).mem = s.mem := rfl
@[simp] theorem State.modM_cores (s : State) (f : Member → Member) : (s.modM f).cores = s.cores := rfl
@[simp] theorem State.modM_eng (s : State) (f : Member → Member) : (s.modM f).eng = s.eng := rfl
@[simp] theorem State.modM_ctxs (s : State) (f : Member → Member) : (s.modM f).ctxs = s.ctxs := rfl
@[simp] theorem State.modM_host (s : State) (f : Member → Member) : (s.modM f).host = s.host := rfl
@[simp] theorem State.modM_plat (s : State) (f : Member → Member) : (s.modM f).plat = s.plat := rfl
@[simp] theorem State.modM_fab (s : State) (f : Member → Member) : (s.modM f).fab = s.fab := rfl
@[simp] theorem State.modM_sched (s : State) (f : Member → Member) : (s.modM f).sched = s.sched := rfl
@[simp] theorem State.modM_uid (s : State) (f : Member → Member) : (s.modM f).uid = s.uid := rfl

/-! ### modW -/

@[simp] theorem State.modW_m (s : State) (f : Workgroup → Workgroup) : (s.modW f).m = s.m := rfl
@[simp] theorem State.modW_wg (s : State) (f : Workgroup → Workgroup) : (s.modW f).wg = f s.wg := rfl
@[simp] theorem State.modW_pre (s : State) (f : Workgroup → Workgroup) : (s.modW f).pre = s.pre := rfl
@[simp] theorem State.modW_wgs (s : State) (f : Workgroup → Workgroup) : (s.modW f).wgs = s.wgs := rfl
@[simp] theorem State.modW_mem (s : State) (f : Workgroup → Workgroup) : (s.modW f).mem = s.mem := rfl
@[simp] theorem State.modW_cores (s : State) (f : Workgroup → Workgroup) : (s.modW f).cores = s.cores := rfl
@[simp] theorem State.modW_eng (s : State) (f : Workgroup → Workgroup) : (s.modW f).eng = s.eng := rfl
@[simp] theorem State.modW_ctxs (s : State) (f : Workgroup → Workgroup) : (s.modW f).ctxs = s.ctxs := rfl
@[simp] theorem State.modW_host (s : State) (f : Workgroup → Workgroup) : (s.modW f).host = s.host := rfl
@[simp] theorem State.modW_plat (s : State) (f : Workgroup → Workgroup) : (s.modW f).plat = s.plat := rfl
@[simp] theorem State.modW_fab (s : State) (f : Workgroup → Workgroup) : (s.modW f).fab = s.fab := rfl
@[simp] theorem State.modW_sched (s : State) (f : Workgroup → Workgroup) : (s.modW f).sched = s.sched := rfl
@[simp] theorem State.modW_uid (s : State) (f : Workgroup → Workgroup) : (s.modW f).uid = s.uid := rfl

/-! ### modR -/

@[simp] theorem State.modR_m (s : State) (f : RegFile → RegFile) : (s.modR f).m = { s.m with r := f s.m.r } := rfl
@[simp] theorem State.modR_wg (s : State) (f : RegFile → RegFile) : (s.modR f).wg = s.wg := rfl
@[simp] theorem State.modR_pre (s : State) (f : RegFile → RegFile) : (s.modR f).pre = s.pre := rfl
@[simp] theorem State.modR_wgs (s : State) (f : RegFile → RegFile) : (s.modR f).wgs = s.wgs := rfl
@[simp] theorem State.modR_mem (s : State) (f : RegFile → RegFile) : (s.modR f).mem = s.mem := rfl
@[simp] theorem State.modR_cores (s : State) (f : RegFile → RegFile) : (s.modR f).cores = s.cores := rfl
@[simp] theorem State.modR_eng (s : State) (f : RegFile → RegFile) : (s.modR f).eng = s.eng := rfl
@[simp] theorem State.modR_ctxs (s : State) (f : RegFile → RegFile) : (s.modR f).ctxs = s.ctxs := rfl
@[simp] theorem State.modR_host (s : State) (f : RegFile → RegFile) : (s.modR f).host = s.host := rfl
@[simp] theorem State.modR_plat (s : State) (f : RegFile → RegFile) : (s.modR f).plat = s.plat := rfl
@[simp] theorem State.modR_fab (s : State) (f : RegFile → RegFile) : (s.modR f).fab = s.fab := rfl
@[simp] theorem State.modR_sched (s : State) (f : RegFile → RegFile) : (s.modR f).sched = s.sched := rfl
@[simp] theorem State.modR_uid (s : State) (f : RegFile → RegFile) : (s.modR f).uid = s.uid := rfl

/-! ### setPc -/

@[simp] theorem State.setPc_m (s : State) (p : Pc) : (s.setPc p).m = s.m.setPath (some { s.m.path with pc := p }) := rfl
@[simp] theorem State.setPc_wg (s : State) (p : Pc) : (s.setPc p).wg = s.wg := rfl
@[simp] theorem State.setPc_pre (s : State) (p : Pc) : (s.setPc p).pre = s.pre := rfl
@[simp] theorem State.setPc_wgs (s : State) (p : Pc) : (s.setPc p).wgs = s.wgs := rfl
@[simp] theorem State.setPc_mem (s : State) (p : Pc) : (s.setPc p).mem = s.mem := rfl
@[simp] theorem State.setPc_cores (s : State) (p : Pc) : (s.setPc p).cores = s.cores := rfl
@[simp] theorem State.setPc_eng (s : State) (p : Pc) : (s.setPc p).eng = s.eng := rfl
@[simp] theorem State.setPc_ctxs (s : State) (p : Pc) : (s.setPc p).ctxs = s.ctxs := rfl
@[simp] theorem State.setPc_host (s : State) (p : Pc) : (s.setPc p).host = s.host := rfl
@[simp] theorem State.setPc_plat (s : State) (p : Pc) : (s.setPc p).plat = s.plat := rfl
@[simp] theorem State.setPc_fab (s : State) (p : Pc) : (s.setPc p).fab = s.fab := rfl
@[simp] theorem State.setPc_sched (s : State) (p : Pc) : (s.setPc p).sched = s.sched := rfl
@[simp] theorem State.setPc_uid (s : State) (p : Pc) : (s.setPc p).uid = s.uid := rfl

/-! ### advance -/

@[simp] theorem State.advance_m (s : State) : (s.advance).m = s.m.setPath (some { s.m.path with pc := s.m.path.pc.next }) := rfl
@[simp] theorem State.advance_wg (s : State) : (s.advance).wg = s.wg := rfl
@[simp] theorem State.advance_pre (s : State) : (s.advance).pre = s.pre := rfl
@[simp] theorem State.advance_wgs (s : State) : (s.advance).wgs = s.wgs := rfl
@[simp] theorem State.advance_mem (s : State) : (s.advance).mem = s.mem := rfl
@[simp] theorem State.advance_cores (s : State) : (s.advance).cores = s.cores := rfl
@[simp] theorem State.advance_eng (s : State) : (s.advance).eng = s.eng := rfl
@[simp] theorem State.advance_ctxs (s : State) : (s.advance).ctxs = s.ctxs := rfl
@[simp] theorem State.advance_host (s : State) : (s.advance).host = s.host := rfl
@[simp] theorem State.advance_plat (s : State) : (s.advance).plat = s.plat := rfl
@[simp] theorem State.advance_fab (s : State) : (s.advance).fab = s.fab := rfl
@[simp] theorem State.advance_sched (s : State) : (s.advance).sched = s.sched := rfl
@[simp] theorem State.advance_uid (s : State) : (s.advance).uid = s.uid := rfl

/-! ### tick -/

@[simp] theorem State.tick_m (s : State) : (s.tick).m = s.m := rfl
@[simp] theorem State.tick_wg (s : State) : (s.tick).wg = s.wg := rfl
@[simp] theorem State.tick_pre (s : State) : (s.tick).pre = s.pre := rfl
@[simp] theorem State.tick_wgs (s : State) : (s.tick).wgs = s.wgs := rfl
@[simp] theorem State.tick_mem (s : State) : (s.tick).mem = s.mem := rfl
@[simp] theorem State.tick_cores (s : State) : (s.tick).cores = s.cores := rfl
@[simp] theorem State.tick_eng (s : State) : (s.tick).eng = s.eng := rfl
@[simp] theorem State.tick_ctxs (s : State) : (s.tick).ctxs = s.ctxs := rfl
@[simp] theorem State.tick_host (s : State) : (s.tick).host = s.host := rfl
@[simp] theorem State.tick_plat (s : State) : (s.tick).plat = s.plat := rfl
@[simp] theorem State.tick_fab (s : State) : (s.tick).fab = s.fab := rfl
@[simp] theorem State.tick_sched (s : State) : (s.tick).sched = s.sched := rfl
@[simp] theorem State.tick_uid (s : State) : (s.tick).uid = s.uid + 1 := rfl

/-! ### addOut -/

@[simp] theorem State.addOut_m (s : State) (o : OutOp) : (s.addOut o).m = { s.m with outs := s.m.outs ++ [o] } := rfl
@[simp] theorem State.addOut_wg (s : State) (o : OutOp) : (s.addOut o).wg = s.wg := rfl
@[simp] theorem State.addOut_pre (s : State) (o : OutOp) : (s.addOut o).pre = s.pre := rfl
@[simp] theorem State.addOut_wgs (s : State) (o : OutOp) : (s.addOut o).wgs = s.wgs := rfl
@[simp] theorem State.addOut_mem (s : State) (o : OutOp) : (s.addOut o).mem = s.mem := rfl
@[simp] theorem State.addOut_cores (s : State) (o : OutOp) : (s.addOut o).cores = s.cores := rfl
@[simp] theorem State.addOut_eng (s : State) (o : OutOp) : (s.addOut o).eng = s.eng := rfl
@[simp] theorem State.addOut_ctxs (s : State) (o : OutOp) : (s.addOut o).ctxs = s.ctxs := rfl
@[simp] theorem State.addOut_host (s : State) (o : OutOp) : (s.addOut o).host = s.host := rfl
@[simp] theorem State.addOut_plat (s : State) (o : OutOp) : (s.addOut o).plat = s.plat := rfl
@[simp] theorem State.addOut_fab (s : State) (o : OutOp) : (s.addOut o).fab = s.fab := rfl
@[simp] theorem State.addOut_sched (s : State) (o : OutOp) : (s.addOut o).sched = s.sched := rfl
@[simp] theorem State.addOut_uid (s : State) (o : OutOp) : (s.addOut o).uid = s.uid := rfl

/-! ### iqPop -/

@[simp] theorem State.iqPop_m (s : State) (k : Nat) : (s.iqPop k).m = s.m := rfl
@[simp] theorem State.iqPop_wg (s : State) (k : Nat) : (s.iqPop k).wg = { s.wg with iq := smPut [] s.wg.iq k ((smGet [] s.wg.iq k).drop 1) } := rfl
@[simp] theorem State.iqPop_pre (s : State) (k : Nat) : (s.iqPop k).pre = s.pre := rfl
@[simp] theorem State.iqPop_wgs (s : State) (k : Nat) : (s.iqPop k).wgs = s.wgs := rfl
@[simp] theorem State.iqPop_mem (s : State) (k : Nat) : (s.iqPop k).mem = s.mem := rfl
@[simp] theorem State.iqPop_cores (s : State) (k : Nat) : (s.iqPop k).cores = s.cores := rfl
@[simp] theorem State.iqPop_eng (s : State) (k : Nat) : (s.iqPop k).eng = s.eng := rfl
@[simp] theorem State.iqPop_ctxs (s : State) (k : Nat) : (s.iqPop k).ctxs = s.ctxs := rfl
@[simp] theorem State.iqPop_host (s : State) (k : Nat) : (s.iqPop k).host = s.host := rfl
@[simp] theorem State.iqPop_plat (s : State) (k : Nat) : (s.iqPop k).plat = s.plat := rfl
@[simp] theorem State.iqPop_fab (s : State) (k : Nat) : (s.iqPop k).fab = s.fab := rfl
@[simp] theorem State.iqPop_sched (s : State) (k : Nat) : (s.iqPop k).sched = s.sched := rfl
@[simp] theorem State.iqPop_uid (s : State) (k : Nat) : (s.iqPop k).uid = s.uid := rfl

/-! ### wrQ -/

@[simp] theorem State.wrQ_m (s : State) (k : Nat) (x : W64) : (s.wrQ k x).m = s.m := rfl
@[simp] theorem State.wrQ_wg (s : State) (k : Nat) (x : W64) : (s.wrQ k x).wg = { s.wg with team := s.wg.team.map (fun t => { t with q := smPut 0 t.q k x }) } := rfl
@[simp] theorem State.wrQ_pre (s : State) (k : Nat) (x : W64) : (s.wrQ k x).pre = s.pre := rfl
@[simp] theorem State.wrQ_wgs (s : State) (k : Nat) (x : W64) : (s.wrQ k x).wgs = s.wgs := rfl
@[simp] theorem State.wrQ_mem (s : State) (k : Nat) (x : W64) : (s.wrQ k x).mem = s.mem := rfl
@[simp] theorem State.wrQ_cores (s : State) (k : Nat) (x : W64) : (s.wrQ k x).cores = s.cores := rfl
@[simp] theorem State.wrQ_eng (s : State) (k : Nat) (x : W64) : (s.wrQ k x).eng = s.eng := rfl
@[simp] theorem State.wrQ_ctxs (s : State) (k : Nat) (x : W64) : (s.wrQ k x).ctxs = s.ctxs := rfl
@[simp] theorem State.wrQ_host (s : State) (k : Nat) (x : W64) : (s.wrQ k x).host = s.host := rfl
@[simp] theorem State.wrQ_plat (s : State) (k : Nat) (x : W64) : (s.wrQ k x).plat = s.plat := rfl
@[simp] theorem State.wrQ_fab (s : State) (k : Nat) (x : W64) : (s.wrQ k x).fab = s.fab := rfl
@[simp] theorem State.wrQ_sched (s : State) (k : Nat) (x : W64) : (s.wrQ k x).sched = s.sched := rfl
@[simp] theorem State.wrQ_uid (s : State) (k : Nat) (x : W64) : (s.wrQ k x).uid = s.uid := rfl

/-! ### modCtx -/

@[simp] theorem State.modCtx_m (s : State) (c : Nat) (f : Ctx → Ctx) : (s.modCtx c f).m = s.m := by unfold State.modCtx; split <;> rfl
@[simp] theorem State.modCtx_wg (s : State) (c : Nat) (f : Ctx → Ctx) : (s.modCtx c f).wg = s.wg := by unfold State.modCtx; split <;> rfl
@[simp] theorem State.modCtx_pre (s : State) (c : Nat) (f : Ctx → Ctx) : (s.modCtx c f).pre = s.pre := by unfold State.modCtx; split <;> rfl
@[simp] theorem State.modCtx_wgs (s : State) (c : Nat) (f : Ctx → Ctx) : (s.modCtx c f).wgs = s.wgs := by unfold State.modCtx; split <;> rfl
@[simp] theorem State.modCtx_mem (s : State) (c : Nat) (f : Ctx → Ctx) : (s.modCtx c f).mem = s.mem := by unfold State.modCtx; split <;> rfl
@[simp] theorem State.modCtx_cores (s : State) (c : Nat) (f : Ctx → Ctx) : (s.modCtx c f).cores = s.cores := by unfold State.modCtx; split <;> rfl
@[simp] theorem State.modCtx_eng (s : State) (c : Nat) (f : Ctx → Ctx) : (s.modCtx c f).eng = s.eng := by unfold State.modCtx; split <;> rfl
@[simp] theorem State.modCtx_host (s : State) (c : Nat) (f : Ctx → Ctx) : (s.modCtx c f).host = s.host := by unfold State.modCtx; split <;> rfl
@[simp] theorem State.modCtx_plat (s : State) (c : Nat) (f : Ctx → Ctx) : (s.modCtx c f).plat = s.plat := by unfold State.modCtx; split <;> rfl
@[simp] theorem State.modCtx_fab (s : State) (c : Nat) (f : Ctx → Ctx) : (s.modCtx c f).fab = s.fab := by unfold State.modCtx; split <;> rfl
@[simp] theorem State.modCtx_sched (s : State) (c : Nat) (f : Ctx → Ctx) : (s.modCtx c f).sched = s.sched := by unfold State.modCtx; split <;> rfl
@[simp] theorem State.modCtx_uid (s : State) (c : Nat) (f : Ctx → Ctx) : (s.modCtx c f).uid = s.uid := by unfold State.modCtx; split <;> rfl

/-! ### wrScalar -/

@[simp] theorem State.wrScalar_pre (s : State) (n : Nat) (x : W64) : (s.wrScalar n x).pre = s.pre := by unfold State.wrScalar; (repeat' split) <;> rfl
@[simp] theorem State.wrScalar_wgs (s : State) (n : Nat) (x : W64) : (s.wrScalar n x).wgs = s.wgs := by unfold State.wrScalar; (repeat' split) <;> rfl
@[simp] theorem State.wrScalar_mem (s : State) (n : Nat) (x : W64) : (s.wrScalar n x).mem = s.mem := by unfold State.wrScalar; (repeat' split) <;> rfl
@[simp] theorem State.wrScalar_cores (s : State) (n : Nat) (x : W64) : (s.wrScalar n x).cores = s.cores := by unfold State.wrScalar; (repeat' split) <;> rfl
@[simp] theorem State.wrScalar_eng (s : State) (n : Nat) (x : W64) : (s.wrScalar n x).eng = s.eng := by unfold State.wrScalar; (repeat' split) <;> rfl
@[simp] theorem State.wrScalar_ctxs (s : State) (n : Nat) (x : W64) : (s.wrScalar n x).ctxs = s.ctxs := by unfold State.wrScalar; (repeat' split) <;> rfl
@[simp] theorem State.wrScalar_host (s : State) (n : Nat) (x : W64) : (s.wrScalar n x).host = s.host := by unfold State.wrScalar; (repeat' split) <;> rfl
@[simp] theorem State.wrScalar_plat (s : State) (n : Nat) (x : W64) : (s.wrScalar n x).plat = s.plat := by unfold State.wrScalar; (repeat' split) <;> rfl
@[simp] theorem State.wrScalar_fab (s : State) (n : Nat) (x : W64) : (s.wrScalar n x).fab = s.fab := by unfold State.wrScalar; (repeat' split) <;> rfl
@[simp] theorem State.wrScalar_sched (s : State) (n : Nat) (x : W64) : (s.wrScalar n x).sched = s.sched := by unfold State.wrScalar; (repeat' split) <;> rfl
@[simp] theorem State.wrScalar_uid (s : State) (n : Nat) (x : W64) : (s.wrScalar n x).uid = s.uid := by unfold State.wrScalar; (repeat' split) <;> rfl

/-! ### sticky -/

@[simp] theorem State.sticky_m (s : State) (i f : W64) : (s.sticky i f).m = { s.m with r := { s.m.r with istat := s.m.r.istat ||| i, fstat := s.m.r.fstat ||| f } } := rfl
@[simp] theorem State.sticky_wg (s : State) (i f : W64) : (s.sticky i f).wg = s.wg := rfl
@[simp] theorem State.sticky_pre (s : State) (i f : W64) : (s.sticky i f).pre = s.pre := rfl
@[simp] theorem State.sticky_wgs (s : State) (i f : W64) : (s.sticky i f).wgs = s.wgs := rfl
@[simp] theorem State.sticky_mem (s : State) (i f : W64) : (s.sticky i f).mem = s.mem := rfl
@[simp] theorem State.sticky_cores (s : State) (i f : W64) : (s.sticky i f).cores = s.cores := rfl
@[simp] theorem State.sticky_eng (s : State) (i f : W64) : (s.sticky i f).eng = s.eng := rfl
@[simp] theorem State.sticky_ctxs (s : State) (i f : W64) : (s.sticky i f).ctxs = s.ctxs := rfl
@[simp] theorem State.sticky_host (s : State) (i f : W64) : (s.sticky i f).host = s.host := rfl
@[simp] theorem State.sticky_plat (s : State) (i f : W64) : (s.sticky i f).plat = s.plat := rfl
@[simp] theorem State.sticky_fab (s : State) (i f : W64) : (s.sticky i f).fab = s.fab := rfl
@[simp] theorem State.sticky_sched (s : State) (i f : W64) : (s.sticky i f).sched = s.sched := rfl
@[simp] theorem State.sticky_uid (s : State) (i f : W64) : (s.sticky i f).uid = s.uid := rfl

/-! ### setPath -/

@[simp] theorem Member.setPath_id (m : Member) (p : Option Path) : (m.setPath p).id = m.id := by unfold Member.setPath; split <;> rfl
@[simp] theorem Member.setPath_kind (m : Member) (p : Option Path) : (m.setPath p).kind = m.kind := by unfold Member.setPath; split <;> rfl
@[simp] theorem Member.setPath_role (m : Member) (p : Option Path) : (m.setPath p).role = m.role := by unfold Member.setPath; split <;> rfl
@[simp] theorem Member.setPath_r (m : Member) (p : Option Path) : (m.setPath p).r = m.r := by unfold Member.setPath; split <;> rfl
@[simp] theorem Member.setPath_curB (m : Member) (p : Option Path) : (m.setPath p).curB = m.curB := by unfold Member.setPath; split <;> rfl
@[simp] theorem Member.setPath_pool (m : Member) (p : Option Path) : (m.setPath p).pool = m.pool := by unfold Member.setPath; split <;> rfl
@[simp] theorem Member.setPath_parked (m : Member) (p : Option Path) : (m.setPath p).parked = m.parked := by unfold Member.setPath; split <;> rfl
@[simp] theorem Member.setPath_exited (m : Member) (p : Option Path) : (m.setPath p).exited = m.exited := by unfold Member.setPath; split <;> rfl
@[simp] theorem Member.setPath_outs (m : Member) (p : Option Path) : (m.setPath p).outs = m.outs := by unfold Member.setPath; split <;> rfl
@[simp] theorem Member.setPath_reports (m : Member) (p : Option Path) : (m.setPath p).reports = m.reports := by unfold Member.setPath; split <;> rfl
@[simp] theorem Member.setPath_wdBudget (m : Member) (p : Option Path) : (m.setPath p).wdBudget = m.wdBudget := by unfold Member.setPath; split <;> rfl
@[simp] theorem Member.setPath_wdCount (m : Member) (p : Option Path) : (m.setPath p).wdCount = m.wdCount := by unfold Member.setPath; split <;> rfl
@[simp] theorem Member.setPath_level (m : Member) (p : Option Path) : (m.setPath p).level = m.level := by unfold Member.setPath; split <;> rfl
@[simp] theorem Member.setPath_epc (m : Member) (p : Option Path) : (m.setPath p).epc = m.epc := by unfold Member.setPath; split <;> rfl
@[simp] theorem Member.setPath_ecause (m : Member) (p : Option Path) : (m.setPath p).ecause = m.ecause := by unfold Member.setPath; split <;> rfl
@[simp] theorem Member.setPath_escr (m : Member) (p : Option Path) : (m.setPath p).escr = m.escr := by unfold Member.setPath; split <;> rfl
@[simp] theorem Member.setPath_wt (m : Member) (p : Option Path) : (m.setPath p).wt = m.wt := by unfold Member.setPath; split <;> rfl
@[simp] theorem Member.setPath_bars (m : Member) (p : Option Path) : (m.setPath p).bars = m.bars := by unfold Member.setPath; split <;> rfl
@[simp] theorem Member.setPath_pos (m : Member) (p : Option Path) : (m.setPath p).pos = m.pos := by unfold Member.setPath; split <;> rfl
@[simp] theorem Member.setPath_priv (m : Member) (p : Option Path) : (m.setPath p).priv = m.priv := by unfold Member.setPath; split <;> rfl
@[simp] theorem Member.setPath_syncOp (m : Member) (p : Option Path) : (m.setPath p).syncOp = m.syncOp := by unfold Member.setPath; split <;> rfl
@[simp] theorem Member.setPath_probe (m : Member) (p : Option Path) : (m.setPath p).probe = m.probe := by unfold Member.setPath; split <;> rfl
@[simp] theorem Member.setPath_early (m : Member) (p : Option Path) : (m.setPath p).early = m.early := by unfold Member.setPath; split <;> rfl
@[simp] theorem Member.setPath_earlyB (m : Member) (p : Option Path) : (m.setPath p).earlyB = m.earlyB := by unfold Member.setPath; split <;> rfl
@[simp] theorem Member.setPath_sent (m : Member) (p : Option Path) : (m.setPath p).sent = m.sent := by unfold Member.setPath; split <;> rfl
@[simp] theorem Member.setPath_ri (m : Member) (p : Option Path) : (m.setPath p).ri = m.ri := by unfold Member.setPath; split <;> rfl
@[simp] theorem Member.setPath_sending (m : Member) (p : Option Path) : (m.setPath p).sending = m.sending := by unfold Member.setPath; split <;> rfl
@[simp] theorem Member.setPath_tsWait (m : Member) (p : Option Path) : (m.setPath p).tsWait = m.tsWait := by unfold Member.setPath; split <;> rfl
@[simp] theorem Member.setPath_moving (m : Member) (p : Option Path) : (m.setPath p).moving = m.moving := by unfold Member.setPath; split <;> rfl
@[simp] theorem Member.setPath_home (m : Member) (p : Option Path) : (m.setPath p).home = m.home := by unfold Member.setPath; split <;> rfl
@[simp] theorem Member.setPath_lastIssue (m : Member) (p : Option Path) : (m.setPath p).lastIssue = m.lastIssue := by unfold Member.setPath; split <;> rfl
@[simp] theorem Member.setPath_run (m : Member) (p : Option Path) : (m.setPath p).run = m.run := by unfold Member.setPath; split <;> rfl
@[simp] theorem Member.setPath_yielded (m : Member) (p : Option Path) : (m.setPath p).yielded = m.yielded := by unfold Member.setPath; split <;> rfl
@[simp] theorem Member.setPath_issued (m : Member) (p : Option Path) : (m.setPath p).issued = m.issued := by unfold Member.setPath; split <;> rfl
@[simp] theorem Member.setPath_made (m : Member) (p : Option Path) : (m.setPath p).made = m.made := by unfold Member.setPath; split <;> rfl
@[simp] theorem Member.setPath_waitA (m : Member) (p : Option Path) : (m.setPath p).waitA = m.waitA := by unfold Member.setPath; split <;> rfl
@[simp] theorem Member.setPath_waitB (m : Member) (p : Option Path) : (m.setPath p).waitB = m.waitB := by unfold Member.setPath; split <;> rfl
@[simp] theorem Member.setPath_mxreset (m : Member) (p : Option Path) : (m.setPath p).mxreset = m.mxreset := by unfold Member.setPath; split <;> rfl
@[simp] theorem Member.setPath_path (m : Member) (p : Path) : (m.setPath (some p)).path = p := by
  unfold Member.setPath Member.path; split <;> simp_all
@[simp] theorem Member.setPath_setPath (m : Member) (p q : Option Path) : (m.setPath p).setPath q = m.setPath q := by
  unfold Member.setPath; split <;> simp_all

end Sys2Proof.Machine
end

