-- ==== Sys2Proof/Laws/Operands.lean ====
section
/-!
SUPPORT. Operands.lean: what the shared operations of a slot do: registers read after they are written, the results that a format A
slot leaves (`wrote_putLanes`), and when a slot runs (`runSlot_go`).
-/
namespace Sys2Proof.Machine

/-! ### Register files -/

@[simp] theorem RegFile.rv_wv (r : RegFile) (n k l j : Nat) (x : W32) (hl : l < 32) (hj : j < 32) :
    (r.wv n l x).rv k j = if k = n ∧ j = l then x else r.rv k j := by
  simp only [RegFile.wv, RegFile.rv, smGet_smPut]
  by_cases h : k = n ∧ j = l
  · rw [if_pos h, if_pos (by omega)]
  · rw [if_neg h, if_neg (by omega)]
@[simp] theorem RegFile.rs_wv (r : RegFile) (n l k : Nat) (x : W32) : (r.wv n l x).rs k = r.rs k := rfl
@[simp] theorem RegFile.rp_wv (r : RegFile) (n l k : Nat) (x : W32) : (r.wv n l x).rp k = r.rp k := rfl
@[simp] theorem RegFile.istat_wv (r : RegFile) (n l : Nat) (x : W32) : (r.wv n l x).istat = r.istat := rfl
@[simp] theorem RegFile.fstat_wv (r : RegFile) (n l : Nat) (x : W32) : (r.wv n l x).fstat = r.fstat := rfl
@[simp] theorem RegFile.rs_ws (r : RegFile) (n k : Nat) (x : W64) : (r.ws n x).rs k = if k = n then x else r.rs k := by
  simp [RegFile.ws, RegFile.rs]
@[simp] theorem RegFile.rv_ws (r : RegFile) (n k l : Nat) (x : W64) : (r.ws n x).rv k l = r.rv k l := rfl
@[simp] theorem RegFile.rp_ws (r : RegFile) (n k : Nat) (x : W64) : (r.ws n x).rp k = r.rp k := rfl
@[simp] theorem RegFile.istat_ws (r : RegFile) (n : Nat) (x : W64) : (r.ws n x).istat = r.istat := rfl
@[simp] theorem RegFile.fstat_ws (r : RegFile) (n : Nat) (x : W64) : (r.ws n x).fstat = r.fstat := rfl
@[simp] theorem RegFile.rv_wp (r : RegFile) (n l k j : Nat) (x : Bool) : (r.wp n l x).rv k j = r.rv k j := rfl
@[simp] theorem RegFile.rs_wp (r : RegFile) (n l k : Nat) (x : Bool) : (r.wp n l x).rs k = r.rs k := rfl
@[simp] theorem RegFile.istat_wp (r : RegFile) (n l : Nat) (x : Bool) : (r.wp n l x).istat = r.istat := rfl
@[simp] theorem RegFile.fstat_wp (r : RegFile) (n l : Nat) (x : Bool) : (r.wp n l x).fstat = r.fstat := rfl
/-- One lane of a predicate after one lane is written. -/
theorem RegFile.rp_wp (r : RegFile) (n l k j : Nat) (x : Bool) (hl : l < 32) (hj : j < 32) :
    ((r.wp n l x).rp k).getLsbD j = if k = n ∧ j = l then x else (r.rp k).getLsbD j := by
  simp only [RegFile.wp, RegFile.rp, smGet_smPut]
  by_cases hk : k = n
  · subst hk
    cases x <;> simp [hj] <;> by_cases h : j = l
    · subst h; simp
    · simp [h]; intro h1; have : ¬ (j - l = 0) ∨ j < l := by omega
      rcases this with h2 | h2 <;> simp [h2]
    · subst h; simp
    · simp [h]; intro h1 h2; omega
  · simp [hk]

/-! ### Lanes -/

theorem mem_lanesOf {m : Mask} {l : Nat} (h : l ∈ lanesOf m) : l < 32 := by
  have := (List.mem_filter.1 h).1; exact List.mem_range.1 this
theorem lowLane_lt (m : Mask) : lowLane m < 32 := by
  unfold lowLane
  cases h : lanesOf m with
  | nil => simp
  | cons x xs => exact mem_lanesOf (m := m) (by simp [h])
theorem execLanes_lt {s : State} {h : Hdr} {d : Spec} {l : Nat} (hl : l ∈ s.execLanes h d) : l < 32 := by
  unfold State.execLanes at hl
  split at hl
  · split at hl
    · simp at hl; subst hl; exact lowLane_lt _
    · simp at hl
  · exact mem_lanesOf (List.mem_filter.1 hl).1

/-! ### One lane's result written -/

theorem putDst_out (s : State) (dst : Spec) (wide sgn : Bool) (l : Nat) (x : W64) : SameOutside s (s.putDst dst wide sgn l x) := by
  unfold State.putDst; cases wide <;> simp only [Bool.false_eq_true, ↓reduceIte] <;> (repeat' split) <;> constructor <;> simp
theorem putDst_m (s : State) (dst : Spec) (wide sgn : Bool) (l : Nat) (x : W64) :
    (s.putDst dst wide sgn l x).m = { s.m with r := (s.putDst dst wide sgn l x).m.r } := by
  unfold State.putDst State.wrScalar; cases wide <;> simp only [Bool.false_eq_true, ↓reduceIte] <;> (repeat' split) <;> rfl
theorem putDst_wg (s : State) (dst : Spec) (wide sgn : Bool) (l : Nat) (x : W64) :
    (s.putDst dst wide sgn l x).wg = { s.wg with sq := (s.putDst dst wide sgn l x).wg.sq } := by
  unfold State.putDst State.wrScalar; cases wide <;> simp only [Bool.false_eq_true, ↓reduceIte] <;> (repeat' split) <;> rfl
theorem putDst_vec (s : State) (dst : Spec) (wide sgn : Bool) (l : Nat) (x : W64) (n j : Nat) (hl : l < 32) (hj : j < 32) :
    (s.putDst dst wide sgn l x).m.r.rv n j =
      if dst.toNat < 256 ∧ j = l ∧ n = dst.toNat then x.setWidth 32
      else if dst.toNat < 256 ∧ wide = true ∧ j = l ∧ n = dst.toNat + 1 then (x >>> 32).setWidth 32
      else s.m.r.rv n j := by
  unfold State.putDst State.wrScalar
  cases wide <;> simp only [Bool.false_eq_true, ↓reduceIte] <;> (repeat' split) <;> first | rfl | omega | (simp_all; done) | (simp_all; (repeat' split) <;> first | omega | simp_all)
theorem putDst_scal (s : State) (dst : Spec) (wide sgn : Bool) (l : Nat) (x : W64) (n : Nat) :
    (s.putDst dst wide sgn l x).m.r.rs n =
      if 256 ≤ dst.toNat ∧ dst.toNat < 320 ∧ n = dst.toNat - 256 then scalarImage wide sgn x else s.m.r.rs n := by
  unfold State.putDst State.wrScalar scalarImage
  cases wide <;> simp only [Bool.false_eq_true, ↓reduceIte] <;> (repeat' split) <;> first | rfl | omega | (simp_all; done)
theorem putDst_pred (s : State) (dst : Spec) (wide sgn : Bool) (l : Nat) (x : W64) (n j : Nat) (hn : n < 7) (hl : l < 32) (hj : j < 32) :
    ((s.putDst dst wide sgn l x).m.r.rp n).getLsbD j =
      if dst.toNat = 344 + n ∧ j = l then x != 0 else (s.m.r.rp n).getLsbD j := by
  unfold State.putDst State.wrScalar
  have := RegFile.rp_wp s.m.r (dst.toNat - 344) l n j (x != 0) hl hj
  cases wide <;> simp only [Bool.false_eq_true, ↓reduceIte] <;> (repeat' split) <;> first | rfl | omega | (simp_all; done)
theorem putDst_send (s : State) (dst : Spec) (wide sgn : Bool) (l : Nat) (x : W64) (k : Nat) (hq : ¬ (320 ≤ dst.toNat ∧ dst.toNat < 336)) :
    smGet 0 (s.putDst dst wide sgn l x).wg.sq k =
      if 336 ≤ dst.toNat ∧ dst.toNat < 340 ∧ k = dst.toNat - 336 then scalarImage wide sgn x else smGet 0 s.wg.sq k := by
  unfold State.putDst State.wrScalar scalarImage
  cases wide <;> simp only [Bool.false_eq_true, ↓reduceIte] <;> (repeat' split) <;> first | rfl | omega | (simp_all; done)
theorem putDst_iq (s : State) (dst : Spec) (wide sgn : Bool) (l : Nat) (x : W64) : (s.putDst dst wide sgn l x).wg.iq = s.wg.iq := by
  rw [putDst_wg]
theorem putDst_istat (s : State) (dst : Spec) (wide sgn : Bool) (l : Nat) (x : W64) :
    (s.putDst dst wide sgn l x).m.r.istat = if dst.toNat = 393 then scalarImage wide sgn x &&& 0x3 else s.m.r.istat := by
  unfold State.putDst State.wrScalar scalarImage
  cases wide <;> simp only [Bool.false_eq_true, ↓reduceIte] <;> (repeat' split) <;> first | rfl | omega
theorem putDst_fstat (s : State) (dst : Spec) (wide sgn : Bool) (l : Nat) (x : W64) :
    (s.putDst dst wide sgn l x).m.r.fstat = if dst.toNat = 394 then scalarImage wide sgn x &&& 0x3F else s.m.r.fstat := by
  unfold State.putDst State.wrScalar scalarImage
  cases wide <;> simp only [Bool.false_eq_true, ↓reduceIte] <;> (repeat' split) <;> first | rfl | omega

/-! ### Every executing lane's result written -/

/-- One lane's result and status bits. -/
theorem putLanes_cons (s : State) (dst : Spec) (wide sgn : Bool) (l : Nat) (ls : List Nat) (res : Nat → LaneRes) :
    s.putLanes dst wide sgn ((l :: ls).map (fun l => (l, res l))) =
      ((s.putDst dst wide sgn l (res l).val).sticky (res l).istat (res l).fstat).putLanes dst wide sgn (ls.map (fun l => (l, res l))) := rfl
theorem putLanes_nil (s : State) (dst : Spec) (wide sgn : Bool) : s.putLanes dst wide sgn [] = s := rfl

theorem SameOutside.refl (s : State) : SameOutside s s := ⟨rfl, rfl, rfl, rfl, rfl, rfl, rfl, rfl, rfl, rfl, rfl⟩
theorem SameOutside.trans {s t u : State} (h : SameOutside s t) (k : SameOutside t u) : SameOutside s u :=
  ⟨k.mem.trans h.mem, k.eng.trans h.eng, k.wgs.trans h.wgs, k.ctxs.trans h.ctxs, k.cores.trans h.cores, k.host.trans h.host,
   k.plat.trans h.plat, k.fab.trans h.fab, k.pre.trans h.pre, k.sched.trans h.sched, k.uid.trans h.uid⟩

theorem sticky_out (s : State) (i f : W64) : SameOutside s (s.sticky i f) := ⟨rfl, rfl, rfl, rfl, rfl, rfl, rfl, rfl, rfl, rfl, rfl⟩

variable (dst : Spec) (wide sgn : Bool) (res : Nat → LaneRes)

theorem putLanes_out (ls : List Nat) (s : State) : SameOutside s (s.putLanes dst wide sgn (ls.map (fun l => (l, res l)))) := by
  induction ls generalizing s with
  | nil => exact .refl _
  | cons l ls ih =>
    rw [putLanes_cons]
    exact ((putDst_out s dst wide sgn l (res l).val).trans (sticky_out _ _ _)).trans (ih _)
theorem putLanes_m (ls : List Nat) (s : State) : (s.putLanes dst wide sgn (ls.map (fun l => (l, res l)))).m =
    { s.m with r := (s.putLanes dst wide sgn (ls.map (fun l => (l, res l)))).m.r } := by
  induction ls generalizing s with
  | nil => rfl
  | cons l ls ih => rw [putLanes_cons, ih]; simp only [State.sticky_m]; rw [putDst_m]
theorem putLanes_wg (ls : List Nat) (s : State) : (s.putLanes dst wide sgn (ls.map (fun l => (l, res l)))).wg =
    { s.wg with sq := (s.putLanes dst wide sgn (ls.map (fun l => (l, res l)))).wg.sq } := by
  induction ls generalizing s with
  | nil => rfl
  | cons l ls ih => rw [putLanes_cons, ih]; simp only [State.sticky_wg]; rw [putDst_wg]
theorem putLanes_vec (ls : List Nat) (s : State) (n j : Nat) (hl : ∀ l ∈ ls, l < 32) (hj : j < 32) :
    (s.putLanes dst wide sgn (ls.map (fun l => (l, res l)))).m.r.rv n j =
      if dst.toNat < 256 ∧ j ∈ ls ∧ n = dst.toNat then (res j).val.setWidth 32
      else if dst.toNat < 256 ∧ wide = true ∧ j ∈ ls ∧ n = dst.toNat + 1 then ((res j).val >>> 32).setWidth 32
      else s.m.r.rv n j := by
  induction ls generalizing s with
  | nil => simp [putLanes_nil]
  | cons l ls ih =>
    rw [putLanes_cons, ih _ (fun k hk => hl k (List.mem_cons_of_mem _ hk))]
    have hv : ∀ t : State, ∀ a b, (t.sticky a b).m.r.rv n j = t.m.r.rv n j := fun _ _ _ => rfl
    rw [hv, putDst_vec _ _ _ _ _ _ _ _ (hl l List.mem_cons_self) hj]
    by_cases h : j = l
    · subst h; simp only [List.mem_cons, true_or, true_and]
      (repeat' split) <;> simp_all
    · simp only [List.mem_cons, h, false_or, false_and, and_false, if_false]
theorem putLanes_scal (ls : List Nat) (s : State) (n : Nat) :
    (s.putLanes dst wide sgn (ls.map (fun l => (l, res l)))).m.r.rs n =
      if 256 ≤ dst.toNat ∧ dst.toNat < 320 ∧ n = dst.toNat - 256 then
        ((ls.getLast?).map (fun l => scalarImage wide sgn (res l).val)).getD (s.m.r.rs n)
      else s.m.r.rs n := by
  induction ls generalizing s with
  | nil => simp [putLanes_nil]
  | cons l ls ih =>
    rw [putLanes_cons, ih]
    have hv : ∀ t : State, ∀ a b, (t.sticky a b).m.r.rs n = t.m.r.rs n := fun _ _ _ => rfl
    rw [hv, putDst_scal]
    split
    · cases ls <;> simp [List.getLast?_cons]
    · rfl
theorem putLanes_pred (ls : List Nat) (s : State) (n j : Nat) (hn : n < 7) (hl : ∀ l ∈ ls, l < 32) (hj : j < 32) :
    ((s.putLanes dst wide sgn (ls.map (fun l => (l, res l)))).m.r.rp n).getLsbD j =
      if dst.toNat = 344 + n ∧ j ∈ ls then (res j).val != 0 else (s.m.r.rp n).getLsbD j := by
  induction ls generalizing s with
  | nil => simp [putLanes_nil]
  | cons l ls ih =>
    rw [putLanes_cons, ih _ (fun k hk => hl k (List.mem_cons_of_mem _ hk))]
    have hv : ∀ t : State, ∀ a b, (t.sticky a b).m.r.rp n = t.m.r.rp n := fun _ _ _ => rfl
    rw [hv, putDst_pred _ _ _ _ _ _ _ _ hn (hl l List.mem_cons_self) hj]
    by_cases h : j = l
    · subst h; simp only [List.mem_cons, true_or]
      (repeat' split) <;> simp_all
    · simp only [List.mem_cons, h, false_or, and_false, if_false]
theorem putLanes_send (ls : List Nat) (s : State) (k : Nat) (hq : ¬ (320 ≤ dst.toNat ∧ dst.toNat < 336)) :
    smGet 0 (s.putLanes dst wide sgn (ls.map (fun l => (l, res l)))).wg.sq k =
      if 336 ≤ dst.toNat ∧ dst.toNat < 340 ∧ k = dst.toNat - 336 then
        ((ls.getLast?).map (fun l => scalarImage wide sgn (res l).val)).getD (smGet 0 s.wg.sq k)
      else smGet 0 s.wg.sq k := by
  induction ls generalizing s with
  | nil => simp [putLanes_nil]
  | cons l ls ih =>
    rw [putLanes_cons, ih]
    simp only [State.sticky_wg]
    rw [putDst_send _ _ _ _ _ _ _ hq]
    split
    · cases ls <;> simp [List.getLast?_cons]
    · rfl
theorem putLanes_istat (ls : List Nat) (s : State) : (s.putLanes dst wide sgn (ls.map (fun l => (l, res l)))).m.r.istat =
    ls.foldl (fun a l => (if dst.toNat = 393 then scalarImage wide sgn (res l).val &&& 0x3 else a) ||| (res l).istat) s.m.r.istat := by
  induction ls generalizing s with
  | nil => rfl
  | cons l ls ih => rw [putLanes_cons, ih, List.foldl_cons]; simp only [State.sticky_m]; rw [putDst_istat]
theorem putLanes_fstat (ls : List Nat) (s : State) : (s.putLanes dst wide sgn (ls.map (fun l => (l, res l)))).m.r.fstat =
    ls.foldl (fun a l => (if dst.toNat = 394 then scalarImage wide sgn (res l).val &&& 0x3F else a) ||| (res l).fstat) s.m.r.fstat := by
  induction ls generalizing s with
  | nil => rfl
  | cons l ls ih => rw [putLanes_cons, ih, List.foldl_cons]; simp only [State.sticky_m]; rw [putDst_fstat]

/-! ### Receive queues popped -/

theorem popFold_eq (c : Nat → Bool) (ks : List Nat) (s : State) : ks.foldl (fun t k => if c k then t.iqPop k else t) s =
    { s with wg := { s.wg with iq := (ks.foldl (fun t k => if c k then t.iqPop k else t) s).wg.iq } } := by
  induction ks generalizing s with
  | nil => rfl
  | cons k ks ih => rw [List.foldl_cons, ih]; split <;> rfl
theorem popFold_iq (c : Nat → Bool) (ks : List Nat) (hk : ks.Nodup) (s : State) (k : Nat) :
    smGet [] (ks.foldl (fun t k => if c k then t.iqPop k else t) s).wg.iq k =
      if k ∈ ks ∧ c k = true then (smGet [] s.wg.iq k).drop 1 else smGet [] s.wg.iq k := by
  induction ks generalizing s with
  | nil => simp
  | cons j ks ih =>
    have hj := List.nodup_cons.1 hk
    rw [List.foldl_cons, ih hj.2]
    by_cases h : k = j
    · subst h; simp only [hj.1, false_and, if_false, List.mem_cons, true_or, true_and]; split <;> simp
    · simp only [List.mem_cons, h, false_or]
      have : smGet [] (if c j then s.iqPop j else s).wg.iq k = smGet [] s.wg.iq k := by split <;> simp [h]
      rw [this]
theorem popIqs_eq (s : State) (uses : List SpecUse) : s.popIqs uses = { s with wg := { s.wg with iq := (s.popIqs uses).wg.iq } } :=
  popFold_eq (fun k => uses.any (fun u => !u.wr && u.spec.toNat == 340 + k)) (List.range 4) s
theorem popIqs_iq (s : State) (uses : List SpecUse) (k : Nat) (hk : k < 4) : smGet [] (s.popIqs uses).wg.iq k =
    if uses.any (fun u => !u.wr && u.spec.toNat == 340 + k) = true then (smGet [] s.wg.iq k).drop 1 else smGet [] s.wg.iq k := by
  have := popFold_iq (fun k => uses.any (fun u => !u.wr && u.spec.toNat == 340 + k)) (List.range 4) (by decide) s k
  simp only [List.mem_range, hk, true_and] at this
  exact this

/-! ### A slot's effect -/

/-- What a format A slot leaves once its executing lanes have computed: the registers of `Wrote`. -/
theorem wrote_putLanes (s : State) (uses : List SpecUse) (ls : List Nat) (hl : ∀ l ∈ ls, l < 32) (hne : ls ≠ [])
    (hq : ¬ (320 ≤ dst.toNat ∧ dst.toNat < 336)) :
    Wrote s ((s.putLanes dst wide sgn (ls.map (fun l => (l, res l)))).popIqs uses).advance uses dst wide sgn ls res := by
  have hm := putLanes_m dst wide sgn res ls s
  have hw := putLanes_wg dst wide sgn res ls s
  have hp := popIqs_eq (s.putLanes dst wide sgn (ls.map (fun l => (l, res l)))) uses
  have ho := putLanes_out dst wide sgn res ls s
  generalize ht : s.putLanes dst wide sgn (ls.map (fun l => (l, res l))) = t at *
  have hr : (t.popIqs uses).advance.m.r = t.m.r := by rw [hp]; simp
  have hpm : (t.popIqs uses).m = t.m := by rw [hp]
  have hpath : t.m.path = s.m.path := by rw [hm]; rfl
  refine ⟨?_, ?_, ?_, ?_, ?_, ?_, ?_, ?_, ?_, ?_⟩
  · rw [hp]; exact ho.trans ⟨rfl, rfl, rfl, rfl, rfl, rfl, rfl, rfl, rfl, rfl, rfl⟩
  · rw [hr, State.advance_m, hpm, hpath, Member.movedTo]
    conv => lhs; rw [hm]
    unfold Member.setPath; dsimp only; split <;> rfl
  · simp only [State.advance_wg]; rw [hp, hw]
  · intro n j hj; rw [hr, ← ht, putLanes_vec _ _ _ _ _ _ _ _ hl hj]
  · intro n; rw [hr, ← ht, putLanes_scal]
  · intro n j hn hj; rw [hr, ← ht, putLanes_pred _ _ _ _ _ _ _ _ hn hl hj]
  · intro k; simp only [State.advance_wg]; rw [hp, ← ht, putLanes_send _ _ _ _ _ _ _ hq]
  · intro k hk; simp only [State.advance_wg]; rw [popIqs_iq _ _ _ hk]; simp only [hne, ne_eq, not_false_eq_true, true_and]; rw [hw]
  · rw [hr, ← ht, putLanes_istat]
  · rw [hr, ← ht, putLanes_fstat]
/-- What a format A slot leaves when no lane executes. -/
theorem wrote_nil (s : State) (uses : List SpecUse) : Wrote s s.advance uses dst wide sgn [] res := by
  refine ⟨⟨rfl, rfl, rfl, rfl, rfl, rfl, rfl, rfl, rfl, rfl, rfl⟩, ?_, rfl, ?_, ?_, ?_, ?_, ?_, ?_, ?_⟩
  · simp only [State.advance_m, Member.setPath_r, Member.movedTo]; unfold Member.setPath; split <;> rfl
  all_goals simp
/-- The effect of a format A slot whose sources are readable. -/
theorem wrote_effectA (s : State) (uses : List SpecUse) (ls : List Nat) (hl : ∀ l ∈ ls, l < 32)
    (hq : ¬ (320 ≤ dst.toNat ∧ dst.toNat < 336)) (hc : s.marked uses ls = false) :
    Wrote s (s.effectA uses dst wide sgn ls res) uses dst wide sgn ls res := by
  unfold State.effectA
  split
  · subst_vars; exact wrote_nil _ _ _ _ _ _
  · rw [if_neg (by simp [hc])]; exact wrote_putLanes _ _ _ _ _ _ _ hl ‹_› hq

/-! ### Slots -/

/-- A slot whose checks pass and that nothing holds back has its entry's effect. -/
theorem runSlot_go {s : State} {bad : Option Nat} {stall : Bool} {go : State → State} (hb : bad = none) (hs : stall = false) :
    runSlot s bad stall go = .next (go s) := by subst hb hs; rfl
/-- A slot always answers a next state. -/
theorem runSlot_next (s : State) (bad : Option Nat) (stall : Bool) (go : State → State) : ∃ t, runSlot s bad stall go = .next t := by
  unfold runSlot; (repeat' split) <;> exact ⟨_, rfl⟩
/-- A slot whose checks fail takes the fault they find. -/
theorem runSlot_bad {s : State} {c : Nat} {stall : Bool} {go : State → State} : runSlot s (some c) stall go = .next (s.fault c) := rfl

/-- What `Issues` says. -/
theorem issues_iff {s : State} {h : Hdr} {c : Bool} {uses : List SpecUse} {field : Option Nat} :
    Issues s h c uses field = true ↔ issueFault s h c uses field = none ∧ s.hazard uses = false := by
  simp [Issues, Bool.and_eq_true]
/-- What `Readable` says. -/
theorem readable_iff {s : State} {uses : List SpecUse} {ls : List Nat} :
    Readable s uses ls = true ↔ (ls = [] ∨ s.iqEmpty uses = false) ∧ s.marked uses ls = false := by
  simp [Readable, Bool.and_eq_true, Bool.or_eq_true]
/-- A slot that issues has passed its entry's field check. -/
theorem issueFault_field {s : State} {h : Hdr} {c : Bool} {uses : List SpecUse} {field : Option Nat}
    (hi : issueFault s h c uses field = none) : field = none := by
  unfold issueFault at hi
  (repeat' split at hi) <;> simp_all
/-- No entry's field check accepts a team register as a destination (R136). -/
theorem dstField_ok {k : DKind} {d : Spec} (h : k.fieldOk d = true) : ¬ (320 ≤ d.toNat ∧ d.toNat < 336) := by
  intro hd
  cases k <;> simp [DKind.fieldOk] at h <;> omega
theorem field_dst {sh : AShape} {f : FA} {sc : Bool} (h : sh.field f sc = none) : ¬ (320 ≤ f.dst.toNat ∧ f.dst.toNat < 336) := by
  unfold AShape.field at h
  have hk : sh.dk.fieldOk f.dst = true := by
    by_contra hc
    (repeat' split at h) <;> simp_all
  exact dstField_ok hk
/-- The one shape of a format A slot: it issues, its sources are readable, so its results are written. -/
theorem effectA_completes {s : State} {h : Hdr} {c : Bool} {uses : List SpecUse} {field : Option Nat} {dst : Spec} {ls : List Nat}
    {wide sgn : Bool} {res : Nat → LaneRes} (hi : Issues s h c uses field = true) (hr : Readable s uses ls = true)
    (hl : ∀ l ∈ ls, l < 32) (hq : ¬ (320 ≤ dst.toNat ∧ dst.toNat < 336)) :
    Goes (runSlot s (issueFault s h c uses field) (s.hazard uses || (ls != [] && s.iqEmpty uses))
      (fun s => s.effectA uses dst wide sgn ls res)) (fun t => Wrote s t uses dst wide sgn ls res) := by
  obtain ⟨hf, hh⟩ := issues_iff.1 hi
  obtain ⟨hq', hm⟩ := readable_iff.1 hr
  refine ⟨_, runSlot_go hf ?_, wrote_effectA _ _ _ _ _ _ _ hl hq hm⟩
  rcases hq' with rfl | hq'
  · simp [hh]
  · simp [hh, hq']

end Sys2Proof.Machine
end

