-- ==== Sys2Proof/Laws/Ops.lean ====
section
/-!
SUPPORT. Ops.lean (laws): what the shared operations on memory and records leave alone.
-/
namespace Sys2Proof.Machine

/-- Nothing but memory, contexts, the host's side, the package and the fabric differs: members, workgroups, engines, cores and the
schedule stand. -/
structure SameRun (s t : State) : Prop where
  m : t.m = s.m
  wg : t.wg = s.wg
  wgs : t.wgs = s.wgs
  eng : t.eng = s.eng
  cores : t.cores = s.cores
  pre : t.pre = s.pre
  sched : t.sched = s.sched
theorem SameRun.refl (s : State) : SameRun s s := ⟨rfl, rfl, rfl, rfl, rfl, rfl, rfl⟩
theorem SameRun.trans {s t u : State} (h : SameRun s t) (k : SameRun t u) : SameRun s u :=
  ⟨k.m.trans h.m, k.wg.trans h.wg, k.wgs.trans h.wgs, k.eng.trans h.eng, k.cores.trans h.cores, k.pre.trans h.pre, k.sched.trans h.sched⟩
theorem SameRun.after {s t u : State} (k : SameRun t u) (h : SameRun s t) : SameRun s u := h.trans k

theorem pmPut_run (s : State) (pa : Nat) (b : Byte) : SameRun s (s.pmPut pa b) := ⟨rfl, rfl, rfl, rfl, rfl, rfl, rfl⟩
theorem homePut_run (s : State) (pa : Nat) (b : Byte) : SameRun s (s.homePut pa b) := by
  unfold State.homePut
  split
  · exact pmPut_run s pa b
  · dsimp only; split <;> exact ⟨rfl, rfl, rfl, rfl, rfl, rfl, rfl⟩
theorem homePuts_run (s : State) (pa : Nat) (bs : List Byte) : SameRun s (s.homePuts pa bs) := by
  induction bs generalizing s pa with
  | nil => exact .refl s
  | cons b bs ih => exact (homePut_run s pa b).trans (ih _ _)
theorem spPuts_run (s : State) (c a : Nat) (bs : List Byte) : SameRun s (s.spPuts c a bs) := by
  induction bs generalizing s a with
  | nil => exact .refl s
  | cons b bs ih =>
    unfold State.spPuts
    exact (ih _ _).after ⟨rfl, rfl, rfl, rfl, rfl, rfl, rfl⟩
theorem ringPost_run {s t : State} {r r' : HostRing} {bs : List Byte} (h : ringPost s r bs = some (t, r')) : SameRun s t := by
  unfold ringPost at h
  split at h
  · cases h
  · dsimp only at h
    cases h
    have k := homePuts_run s (r.base.toNat + 64 * (r.tail.toNat % r.size.toNat)) bs
    split
    · exact k.trans ⟨rfl, rfl, rfl, rfl, rfl, rfl, rfl⟩
    · exact k
theorem deliver_run (s : State) (r : HeldRec) : SameRun s (deliver s r).1 := by
  unfold deliver
  split
  · split
    · next h => exact (ringPost_run h).trans ⟨rfl, rfl, rfl, rfl, rfl, rfl, rfl⟩
    · exact .refl s
  · split
    · exact .refl s
    · split
      · next h => exact (ringPost_run h).trans ⟨rfl, rfl, rfl, rfl, rfl, rfl, rfl⟩
      · exact .refl s
theorem deliverHeld_run (s : State) (rs kept : List HeldRec) : SameRun s (deliverHeld s rs kept) := by
  induction rs generalizing s kept with
  | nil => exact ⟨rfl, rfl, rfl, rfl, rfl, rfl, rfl⟩
  | cons r rs ih =>
    unfold deliverHeld
    split
    · exact ih s _
    · have := deliver_run s r
      split <;> (next e => rw [e] at this; exact this.trans (ih _ _))
/-- Posting a record changes no member and no workgroup (R340). -/
theorem post_run (s : State) (die kind hdie : Nat) (ctx : Option Nat) (part ctxid : Nat) (body : List Nat) :
    SameRun s (s.post die kind hdie ctx part ctxid body) :=
  SameRun.after (deliverHeld_run _ _ _) ⟨rfl, rfl, rfl, rfl, rfl, rfl, rfl⟩
theorem postCtx_run (s : State) (die kind ctx : Nat) (body : List Nat) : SameRun s (s.postCtx die kind ctx body) := post_run _ _ _ _ _ _ _ _

/-! ### Pages (R310, R311) -/

theorem reserveEmpty_run (s : State) (ctx va : Nat) (far : Bool) (die : Nat) : SameRun s (s.reserveEmpty ctx va far die) := by
  unfold State.reserveEmpty
  dsimp only
  split
  · exact .refl s
  · exact (post_run s _ _ _ _ _ _ _).trans ⟨rfl, rfl, rfl, rfl, rfl, rfl, rfl⟩
theorem startMove_run (s : State) (ctx va ea e : Nat) (far mot large : Bool) (dev : Nat) (op : Option Nat) :
    SameRun s (s.startMove ctx va ea e far mot large dev op) := by
  unfold State.startMove
  dsimp only
  split
  · exact reserveEmpty_run _ _ _ _ _
  · split
    · exact .refl s
    · generalize hx : (State.homePuts _ ea (leBytes 8 (e ||| 2 ^ 11))) = x
      have k := hx ▸ homePuts_run _ ea (leBytes 8 (e ||| 2 ^ 11))
      exact ⟨k.m, k.wg, k.wgs, k.eng, k.cores, k.pre, k.sched⟩
theorem touch_run (s : State) (ctx va : Nat) : SameRun s (s.touch ctx va).1 := by
  unfold State.touch
  split
  · exact .refl s
  · split
    · exact .refl s
    · split
      · split
        · exact .refl s
        · exact startMove_run _ _ _ _ _ _ _ _ _ _
      · exact .refl s
/-- Keeping a translation changes the TLB alone (R310). -/
theorem tlbFill_eq (s : State) (core ctx va : Nat) : ∃ t, s.tlbFill core ctx va = { s with mem := { s.mem with tlb := t } } := by
  unfold State.tlbFill
  dsimp only
  split
  · exact ⟨s.mem.tlb, rfl⟩
  · exact ⟨_, rfl⟩
  · split
    · exact ⟨s.mem.tlb, rfl⟩
    · exact ⟨_, rfl⟩
  · exact ⟨s.mem.tlb, rfl⟩

end Sys2Proof.Machine
end

