-- ==== Sys2Proof/Laws/PerInstr.lean ====
section
/-!
SUPPORT. PerInstr.lean: the family `Encoding`: what is said of every instruction as syntax, one lemma for each constructor.
-/
namespace Sys2Proof.Laws.Encoding
set_option Elab.async false

/-- R95 to R110: the slot of a well-formed instruction decodes to it. -/
def Statement (i : Instr) : Prop := wellFormed i = true → ∀ w, encode i = some w → decode w = i

theorem trapIll (h : Hdr) (f : FB) : Statement (.trapIll h f) := by
  intro hf w hw
  cases hw
  rw [decode_ctl (by rw [op_asmB]; decide)]
  unfold decodeCtl
  rw [op_asmB, hdrOf_asmB, fBOf_asmB]
  rfl
theorem bra (h : Hdr) (f : FB) : Statement (.bra h f) := by
  intro hf w hw
  cases hw
  rw [decode_ctl (by rw [op_asmB]; decide)]
  unfold decodeCtl
  rw [op_asmB, hdrOf_asmB, fBOf_asmB]
  rfl
theorem bru (h : Hdr) (f : FB) : Statement (.bru h f) := by
  intro hf w hw
  cases hw
  rw [decode_ctl (by rw [op_asmB]; decide)]
  unfold decodeCtl
  rw [op_asmB, hdrOf_asmB, fBOf_asmB]
  rfl
theorem brx (h : Hdr) (f : FB) : Statement (.brx h f) := by
  intro hf w hw
  cases hw
  rw [decode_ctl (by rw [op_asmB]; decide)]
  unfold decodeCtl
  rw [op_asmB, hdrOf_asmB, fBOf_asmB]
  rfl
theorem call (h : Hdr) (f : FB) : Statement (.call h f) := by
  intro hf w hw
  cases hw
  rw [decode_ctl (by rw [op_asmB]; decide)]
  unfold decodeCtl
  rw [op_asmB, hdrOf_asmB, fBOf_asmB]
  rfl
theorem calli (h : Hdr) (f : FB) : Statement (.calli h f) := by
  intro hf w hw
  cases hw
  rw [decode_ctl (by rw [op_asmB]; decide)]
  unfold decodeCtl
  rw [op_asmB, hdrOf_asmB, fBOf_asmB]
  rfl
theorem ret (h : Hdr) (f : FB) : Statement (.ret h f) := by
  intro hf w hw
  cases hw
  rw [decode_ctl (by rw [op_asmB]; decide)]
  unfold decodeCtl
  rw [op_asmB, hdrOf_asmB, fBOf_asmB]
  rfl
theorem iexit (h : Hdr) (f : FB) : Statement (.iexit h f) := by
  intro hf w hw
  cases hw
  rw [decode_ctl (by rw [op_asmB]; decide)]
  unfold decodeCtl
  rw [op_asmB, hdrOf_asmB, fBOf_asmB]
  rfl
theorem ijoin (h : Hdr) (f : FB) : Statement (.ijoin h f) := by
  intro hf w hw
  cases hw
  rw [decode_ctl (by rw [op_asmB]; decide)]
  unfold decodeCtl
  rw [op_asmB, hdrOf_asmB, fBOf_asmB]
  rfl
theorem fuse (h : Hdr) (f : FB) : Statement (.fuse h f) := by
  intro hf w hw
  cases hw
  rw [decode_ctl (by rw [op_asmB]; decide)]
  unfold decodeCtl
  rw [op_asmB, hdrOf_asmB, fBOf_asmB]
  rfl
theorem iloop (h : Hdr) (f : FB) : Statement (.iloop h f) := by
  intro hf w hw
  cases hw
  rw [decode_ctl (by rw [op_asmB]; decide)]
  unfold decodeCtl
  rw [op_asmB, hdrOf_asmB, fBOf_asmB]
  rfl
theorem yield (h : Hdr) (f : FB) : Statement (.yield h f) := by
  intro hf w hw
  cases hw
  rw [decode_ctl (by rw [op_asmB]; decide)]
  unfold decodeCtl
  rw [op_asmB, hdrOf_asmB, fBOf_asmB]
  rfl
theorem nop (h : Hdr) (f : FB) : Statement (.nop h f) := by
  intro hf w hw
  cases hw
  rw [decode_ctl (by rw [op_asmB]; decide)]
  unfold decodeCtl
  rw [op_asmB, hdrOf_asmB, fBOf_asmB]
  simp only [wellFormed, bne_iff_ne] at hf
  simp only [reg_asmB, hf, ↓reduceIte]
  rfl
theorem fnHeader (h : Hdr) (f : FB) : Statement (.fnHeader h f) := by
  intro hf w hw
  cases hw
  rw [decode_ctl (by rw [op_asmB]; decide)]
  unfold decodeCtl
  rw [op_asmB, hdrOf_asmB, fBOf_asmB]
  simp only [wellFormed, beq_iff_eq] at hf
  simp only [reg_asmB, hf, ↓reduceIte]
  rfl
theorem trap (h : Hdr) (f : FB) : Statement (.trap h f) := by
  intro hf w hw
  cases hw
  rw [decode_ctl (by rw [op_asmB]; decide)]
  unfold decodeCtl
  rw [op_asmB, hdrOf_asmB, fBOf_asmB]
  rfl
theorem brk (h : Hdr) (f : FB) : Statement (.brk h f) := by
  intro hf w hw
  cases hw
  rw [decode_ctl (by rw [op_asmB]; decide)]
  unfold decodeCtl
  rw [op_asmB, hdrOf_asmB, fBOf_asmB]
  rfl
theorem wdogRd (h : Hdr) (f : FB) : Statement (.wdogRd h f) := by
  intro hf w hw
  cases hw
  rw [decode_ctl (by rw [op_asmB]; decide)]
  unfold decodeCtl
  rw [op_asmB, hdrOf_asmB, fBOf_asmB]
  simp only [wellFormed, bne_iff_ne, Bool.and_eq_true] at hf
  simp only [timeout_asmB, hf, ↓reduceIte]
  rfl
theorem wdogKick (h : Hdr) (f : FB) : Statement (.wdogKick h f) := by
  intro hf w hw
  cases hw
  rw [decode_ctl (by rw [op_asmB]; decide)]
  unfold decodeCtl
  rw [op_asmB, hdrOf_asmB, fBOf_asmB]
  simp only [wellFormed, beq_iff_eq] at hf
  simp only [timeout_asmB, hf, ↓reduceIte]
  rfl
theorem wdogLim (h : Hdr) (f : FB) : Statement (.wdogLim h f) := by
  intro hf w hw
  cases hw
  rw [decode_ctl (by rw [op_asmB]; decide)]
  unfold decodeCtl
  rw [op_asmB, hdrOf_asmB, fBOf_asmB]
  simp only [wellFormed, beq_iff_eq] at hf
  simp only [timeout_asmB, hf, ↓reduceIte]
  rfl
theorem iadd (h : Hdr) (f : FA) : Statement (.iadd h f) := by
  intro hf w hw
  cases hw
  rw [decode_int (by rw [op_asmA]; decide) (by rw [op_asmA]; decide)]
  unfold decodeInt
  rw [op_asmA, hdrOf_asmA, fAOf_asmA]
  rfl
theorem iadd3 (h : Hdr) (f : FA) : Statement (.iadd3 h f) := by
  intro hf w hw
  cases hw
  rw [decode_int (by rw [op_asmA]; decide) (by rw [op_asmA]; decide)]
  unfold decodeInt
  rw [op_asmA, hdrOf_asmA, fAOf_asmA]
  rfl
theorem iadc (h : Hdr) (f : FA) : Statement (.iadc h f) := by
  intro hf w hw
  cases hw
  rw [decode_int (by rw [op_asmA]; decide) (by rw [op_asmA]; decide)]
  unfold decodeInt
  rw [op_asmA, hdrOf_asmA, fAOf_asmA]
  rfl
theorem isub (h : Hdr) (f : FA) : Statement (.isub h f) := by
  intro hf w hw
  cases hw
  rw [decode_int (by rw [op_asmA]; decide) (by rw [op_asmA]; decide)]
  unfold decodeInt
  rw [op_asmA, hdrOf_asmA, fAOf_asmA]
  rfl
theorem imul (h : Hdr) (f : FA) : Statement (.imul h f) := by
  intro hf w hw
  cases hw
  rw [decode_int (by rw [op_asmA]; decide) (by rw [op_asmA]; decide)]
  unfold decodeInt
  rw [op_asmA, hdrOf_asmA, fAOf_asmA]
  rfl
theorem imulh (h : Hdr) (f : FA) : Statement (.imulh h f) := by
  intro hf w hw
  cases hw
  rw [decode_int (by rw [op_asmA]; decide) (by rw [op_asmA]; decide)]
  unfold decodeInt
  rw [op_asmA, hdrOf_asmA, fAOf_asmA]
  rfl
theorem imad (h : Hdr) (f : FA) : Statement (.imad h f) := by
  intro hf w hw
  cases hw
  rw [decode_int (by rw [op_asmA]; decide) (by rw [op_asmA]; decide)]
  unfold decodeInt
  rw [op_asmA, hdrOf_asmA, fAOf_asmA]
  rfl
theorem imadw (h : Hdr) (f : FA) : Statement (.imadw h f) := by
  intro hf w hw
  cases hw
  rw [decode_int (by rw [op_asmA]; decide) (by rw [op_asmA]; decide)]
  unfold decodeInt
  rw [op_asmA, hdrOf_asmA, fAOf_asmA]
  rfl
theorem idiv (h : Hdr) (f : FA) : Statement (.idiv h f) := by
  intro hf w hw
  cases hw
  rw [decode_int (by rw [op_asmA]; decide) (by rw [op_asmA]; decide)]
  unfold decodeInt
  rw [op_asmA, hdrOf_asmA, fAOf_asmA]
  rfl
theorem irem (h : Hdr) (f : FA) : Statement (.irem h f) := by
  intro hf w hw
  cases hw
  rw [decode_int (by rw [op_asmA]; decide) (by rw [op_asmA]; decide)]
  unfold decodeInt
  rw [op_asmA, hdrOf_asmA, fAOf_asmA]
  rfl
theorem ineg (h : Hdr) (f : FA) : Statement (.ineg h f) := by
  intro hf w hw
  cases hw
  rw [decode_int (by rw [op_asmA]; decide) (by rw [op_asmA]; decide)]
  unfold decodeInt
  rw [op_asmA, hdrOf_asmA, fAOf_asmA]
  rfl
theorem iabs (h : Hdr) (f : FA) : Statement (.iabs h f) := by
  intro hf w hw
  cases hw
  rw [decode_int (by rw [op_asmA]; decide) (by rw [op_asmA]; decide)]
  unfold decodeInt
  rw [op_asmA, hdrOf_asmA, fAOf_asmA]
  rfl
theorem imin (h : Hdr) (f : FA) : Statement (.imin h f) := by
  intro hf w hw
  cases hw
  rw [decode_int (by rw [op_asmA]; decide) (by rw [op_asmA]; decide)]
  unfold decodeInt
  rw [op_asmA, hdrOf_asmA, fAOf_asmA]
  rfl
theorem imax (h : Hdr) (f : FA) : Statement (.imax h f) := by
  intro hf w hw
  cases hw
  rw [decode_int (by rw [op_asmA]; decide) (by rw [op_asmA]; decide)]
  unfold decodeInt
  rw [op_asmA, hdrOf_asmA, fAOf_asmA]
  rfl
theorem iand (h : Hdr) (f : FA) : Statement (.iand h f) := by
  intro hf w hw
  cases hw
  rw [decode_int (by rw [op_asmA]; decide) (by rw [op_asmA]; decide)]
  unfold decodeInt
  rw [op_asmA, hdrOf_asmA, fAOf_asmA]
  rfl
theorem ior (h : Hdr) (f : FA) : Statement (.ior h f) := by
  intro hf w hw
  cases hw
  rw [decode_int (by rw [op_asmA]; decide) (by rw [op_asmA]; decide)]
  unfold decodeInt
  rw [op_asmA, hdrOf_asmA, fAOf_asmA]
  rfl
theorem ixor (h : Hdr) (f : FA) : Statement (.ixor h f) := by
  intro hf w hw
  cases hw
  rw [decode_int (by rw [op_asmA]; decide) (by rw [op_asmA]; decide)]
  unfold decodeInt
  rw [op_asmA, hdrOf_asmA, fAOf_asmA]
  rfl
theorem andn (h : Hdr) (f : FA) : Statement (.andn h f) := by
  intro hf w hw
  cases hw
  rw [decode_int (by rw [op_asmA]; decide) (by rw [op_asmA]; decide)]
  unfold decodeInt
  rw [op_asmA, hdrOf_asmA, fAOf_asmA]
  rfl
theorem inot (h : Hdr) (f : FA) : Statement (.inot h f) := by
  intro hf w hw
  cases hw
  rw [decode_int (by rw [op_asmA]; decide) (by rw [op_asmA]; decide)]
  unfold decodeInt
  rw [op_asmA, hdrOf_asmA, fAOf_asmA]
  rfl
theorem lgc3 (h : Hdr) (f : FA) : Statement (.lgc3 h f) := by
  intro hf w hw
  cases hw
  rw [decode_int (by rw [op_asmA]; decide) (by rw [op_asmA]; decide)]
  unfold decodeInt
  rw [op_asmA, hdrOf_asmA, fAOf_asmA]
  rfl
theorem shl (h : Hdr) (f : FA) : Statement (.shl h f) := by
  intro hf w hw
  cases hw
  rw [decode_int (by rw [op_asmA]; decide) (by rw [op_asmA]; decide)]
  unfold decodeInt
  rw [op_asmA, hdrOf_asmA, fAOf_asmA]
  rfl
theorem shr (h : Hdr) (f : FA) : Statement (.shr h f) := by
  intro hf w hw
  cases hw
  rw [decode_int (by rw [op_asmA]; decide) (by rw [op_asmA]; decide)]
  unfold decodeInt
  rw [op_asmA, hdrOf_asmA, fAOf_asmA]
  rfl
theorem sar (h : Hdr) (f : FA) : Statement (.sar h f) := by
  intro hf w hw
  cases hw
  rw [decode_int (by rw [op_asmA]; decide) (by rw [op_asmA]; decide)]
  unfold decodeInt
  rw [op_asmA, hdrOf_asmA, fAOf_asmA]
  rfl
theorem rol (h : Hdr) (f : FA) : Statement (.rol h f) := by
  intro hf w hw
  cases hw
  rw [decode_int (by rw [op_asmA]; decide) (by rw [op_asmA]; decide)]
  unfold decodeInt
  rw [op_asmA, hdrOf_asmA, fAOf_asmA]
  rfl
theorem ror (h : Hdr) (f : FA) : Statement (.ror h f) := by
  intro hf w hw
  cases hw
  rw [decode_int (by rw [op_asmA]; decide) (by rw [op_asmA]; decide)]
  unfold decodeInt
  rw [op_asmA, hdrOf_asmA, fAOf_asmA]
  rfl
theorem bfe (h : Hdr) (f : FA) : Statement (.bfe h f) := by
  intro hf w hw
  cases hw
  rw [decode_int (by rw [op_asmA]; decide) (by rw [op_asmA]; decide)]
  unfold decodeInt
  rw [op_asmA, hdrOf_asmA, fAOf_asmA]
  rfl
theorem bfi (h : Hdr) (f : FA) : Statement (.bfi h f) := by
  intro hf w hw
  cases hw
  rw [decode_int (by rw [op_asmA]; decide) (by rw [op_asmA]; decide)]
  unfold decodeInt
  rw [op_asmA, hdrOf_asmA, fAOf_asmA]
  rfl
theorem brev (h : Hdr) (f : FA) : Statement (.brev h f) := by
  intro hf w hw
  cases hw
  rw [decode_int (by rw [op_asmA]; decide) (by rw [op_asmA]; decide)]
  unfold decodeInt
  rw [op_asmA, hdrOf_asmA, fAOf_asmA]
  rfl
theorem popc (h : Hdr) (f : FA) : Statement (.popc h f) := by
  intro hf w hw
  cases hw
  rw [decode_int (by rw [op_asmA]; decide) (by rw [op_asmA]; decide)]
  unfold decodeInt
  rw [op_asmA, hdrOf_asmA, fAOf_asmA]
  rfl
theorem clz (h : Hdr) (f : FA) : Statement (.clz h f) := by
  intro hf w hw
  cases hw
  rw [decode_int (by rw [op_asmA]; decide) (by rw [op_asmA]; decide)]
  unfold decodeInt
  rw [op_asmA, hdrOf_asmA, fAOf_asmA]
  rfl
theorem ctz (h : Hdr) (f : FA) : Statement (.ctz h f) := by
  intro hf w hw
  cases hw
  rw [decode_int (by rw [op_asmA]; decide) (by rw [op_asmA]; decide)]
  unfold decodeInt
  rw [op_asmA, hdrOf_asmA, fAOf_asmA]
  rfl
theorem bytx (h : Hdr) (f : FA) : Statement (.bytx h f) := by
  intro hf w hw
  cases hw
  rw [decode_int (by rw [op_asmA]; decide) (by rw [op_asmA]; decide)]
  unfold decodeInt
  rw [op_asmA, hdrOf_asmA, fAOf_asmA]
  rfl
theorem lea (h : Hdr) (f : FA) : Statement (.lea h f) := by
  intro hf w hw
  cases hw
  rw [decode_int (by rw [op_asmA]; decide) (by rw [op_asmA]; decide)]
  unfold decodeInt
  rw [op_asmA, hdrOf_asmA, fAOf_asmA]
  rfl
theorem icmp (h : Hdr) (f : FA) : Statement (.icmp h f) := by
  intro hf w hw
  cases hw
  rw [decode_int (by rw [op_asmA]; decide) (by rw [op_asmA]; decide)]
  unfold decodeInt
  rw [op_asmA, hdrOf_asmA, fAOf_asmA]
  rfl
theorem sel (h : Hdr) (f : FA) : Statement (.sel h f) := by
  intro hf w hw
  cases hw
  rw [decode_int (by rw [op_asmA]; decide) (by rw [op_asmA]; decide)]
  unfold decodeInt
  rw [op_asmA, hdrOf_asmA, fAOf_asmA]
  rfl
theorem pand (h : Hdr) (f : FA) : Statement (.pand h f) := by
  intro hf w hw
  cases hw
  rw [decode_int (by rw [op_asmA]; decide) (by rw [op_asmA]; decide)]
  unfold decodeInt
  rw [op_asmA, hdrOf_asmA, fAOf_asmA]
  simp only [wellFormed, bne_iff_ne, Bool.and_eq_true] at hf
  simp only [sub_asmA, hf, ↓reduceIte]
  rfl
theorem por (h : Hdr) (f : FA) : Statement (.por h f) := by
  intro hf w hw
  cases hw
  rw [decode_int (by rw [op_asmA]; decide) (by rw [op_asmA]; decide)]
  unfold decodeInt
  rw [op_asmA, hdrOf_asmA, fAOf_asmA]
  simp only [wellFormed, beq_iff_eq] at hf
  simp only [sub_asmA, hf, ↓reduceIte]
  rfl
theorem pxor (h : Hdr) (f : FA) : Statement (.pxor h f) := by
  intro hf w hw
  cases hw
  rw [decode_int (by rw [op_asmA]; decide) (by rw [op_asmA]; decide)]
  unfold decodeInt
  rw [op_asmA, hdrOf_asmA, fAOf_asmA]
  simp only [wellFormed, beq_iff_eq] at hf
  simp only [sub_asmA, hf, ↓reduceIte]
  rfl
theorem pnot (h : Hdr) (f : FA) : Statement (.pnot h f) := by
  intro hf w hw
  cases hw
  rw [decode_int (by rw [op_asmA]; decide) (by rw [op_asmA]; decide)]
  unfold decodeInt
  rw [op_asmA, hdrOf_asmA, fAOf_asmA]
  simp only [wellFormed, beq_iff_eq] at hf
  simp only [sub_asmA, hf, ↓reduceIte]
  rfl
theorem mov (h : Hdr) (f : FA) : Statement (.mov h f) := by
  intro hf w hw
  cases hw
  rw [decode_int (by rw [op_asmA]; decide) (by rw [op_asmA]; decide)]
  unfold decodeInt
  rw [op_asmA, hdrOf_asmA, fAOf_asmA]
  rfl
theorem movi (h : Hdr) (f : FA) : Statement (.movi h f) := by
  intro hf w hw
  cases hw
  rw [decode_int (by rw [op_asmA]; decide) (by rw [op_asmA]; decide)]
  unfold decodeInt
  rw [op_asmA, hdrOf_asmA, fAOf_asmA]
  rfl
theorem movs (h : Hdr) (f : FA) : Statement (.movs h f) := by
  intro hf w hw
  cases hw
  rw [decode_int (by rw [op_asmA]; decide) (by rw [op_asmA]; decide)]
  unfold decodeInt
  rw [op_asmA, hdrOf_asmA, fAOf_asmA]
  rfl
theorem lxch (h : Hdr) (f : FA) : Statement (.lxch h f) := by
  intro hf w hw
  cases hw
  rw [decode_int (by rw [op_asmA]; decide) (by rw [op_asmA]; decide)]
  unfold decodeInt
  rw [op_asmA, hdrOf_asmA, fAOf_asmA]
  rfl
theorem bcast (h : Hdr) (f : FA) : Statement (.bcast h f) := by
  intro hf w hw
  cases hw
  rw [decode_int (by rw [op_asmA]; decide) (by rw [op_asmA]; decide)]
  unfold decodeInt
  rw [op_asmA, hdrOf_asmA, fAOf_asmA]
  rfl
theorem vote (h : Hdr) (f : FA) : Statement (.vote h f) := by
  intro hf w hw
  cases hw
  rw [decode_int (by rw [op_asmA]; decide) (by rw [op_asmA]; decide)]
  unfold decodeInt
  rw [op_asmA, hdrOf_asmA, fAOf_asmA]
  rfl
theorem ballot (h : Hdr) (f : FA) : Statement (.ballot h f) := by
  intro hf w hw
  cases hw
  rw [decode_int (by rw [op_asmA]; decide) (by rw [op_asmA]; decide)]
  unfold decodeInt
  rw [op_asmA, hdrOf_asmA, fAOf_asmA]
  rfl
theorem imatch (h : Hdr) (f : FA) : Statement (.imatch h f) := by
  intro hf w hw
  cases hw
  rw [decode_int (by rw [op_asmA]; decide) (by rw [op_asmA]; decide)]
  unfold decodeInt
  rw [op_asmA, hdrOf_asmA, fAOf_asmA]
  rfl
theorem perm4 (h : Hdr) (f : FA) : Statement (.perm4 h f) := by
  intro hf w hw
  cases hw
  rw [decode_int (by rw [op_asmA]; decide) (by rw [op_asmA]; decide)]
  unfold decodeInt
  rw [op_asmA, hdrOf_asmA, fAOf_asmA]
  rfl
theorem icvt (h : Hdr) (f : FA) : Statement (.icvt h f) := by
  intro hf w hw
  cases hw
  rw [decode_int (by rw [op_asmA]; decide) (by rw [op_asmA]; decide)]
  unfold decodeInt
  rw [op_asmA, hdrOf_asmA, fAOf_asmA]
  rfl
theorem fadd (h : Hdr) (f : FA) : Statement (.fadd h f) := by
  intro hf w hw
  cases hw
  rw [decode_flt (by rw [op_asmA]; decide) (by rw [op_asmA]; decide)]
  unfold decodeFlt
  rw [op_asmA, hdrOf_asmA, fAOf_asmA]
  rfl
theorem fsub (h : Hdr) (f : FA) : Statement (.fsub h f) := by
  intro hf w hw
  cases hw
  rw [decode_flt (by rw [op_asmA]; decide) (by rw [op_asmA]; decide)]
  unfold decodeFlt
  rw [op_asmA, hdrOf_asmA, fAOf_asmA]
  rfl
theorem fmul (h : Hdr) (f : FA) : Statement (.fmul h f) := by
  intro hf w hw
  cases hw
  rw [decode_flt (by rw [op_asmA]; decide) (by rw [op_asmA]; decide)]
  unfold decodeFlt
  rw [op_asmA, hdrOf_asmA, fAOf_asmA]
  rfl
theorem ffma (h : Hdr) (f : FA) : Statement (.ffma h f) := by
  intro hf w hw
  cases hw
  rw [decode_flt (by rw [op_asmA]; decide) (by rw [op_asmA]; decide)]
  unfold decodeFlt
  rw [op_asmA, hdrOf_asmA, fAOf_asmA]
  rfl
theorem fmin (h : Hdr) (f : FA) : Statement (.fmin h f) := by
  intro hf w hw
  cases hw
  rw [decode_flt (by rw [op_asmA]; decide) (by rw [op_asmA]; decide)]
  unfold decodeFlt
  rw [op_asmA, hdrOf_asmA, fAOf_asmA]
  rfl
theorem fmax (h : Hdr) (f : FA) : Statement (.fmax h f) := by
  intro hf w hw
  cases hw
  rw [decode_flt (by rw [op_asmA]; decide) (by rw [op_asmA]; decide)]
  unfold decodeFlt
  rw [op_asmA, hdrOf_asmA, fAOf_asmA]
  rfl
theorem fminn (h : Hdr) (f : FA) : Statement (.fminn h f) := by
  intro hf w hw
  cases hw
  rw [decode_flt (by rw [op_asmA]; decide) (by rw [op_asmA]; decide)]
  unfold decodeFlt
  rw [op_asmA, hdrOf_asmA, fAOf_asmA]
  rfl
theorem fmaxn (h : Hdr) (f : FA) : Statement (.fmaxn h f) := by
  intro hf w hw
  cases hw
  rw [decode_flt (by rw [op_asmA]; decide) (by rw [op_asmA]; decide)]
  unfold decodeFlt
  rw [op_asmA, hdrOf_asmA, fAOf_asmA]
  rfl
theorem fabs (h : Hdr) (f : FA) : Statement (.fabs h f) := by
  intro hf w hw
  cases hw
  rw [decode_flt (by rw [op_asmA]; decide) (by rw [op_asmA]; decide)]
  unfold decodeFlt
  rw [op_asmA, hdrOf_asmA, fAOf_asmA]
  rfl
theorem fneg (h : Hdr) (f : FA) : Statement (.fneg h f) := by
  intro hf w hw
  cases hw
  rw [decode_flt (by rw [op_asmA]; decide) (by rw [op_asmA]; decide)]
  unfold decodeFlt
  rw [op_asmA, hdrOf_asmA, fAOf_asmA]
  rfl
theorem fcmp (h : Hdr) (f : FA) : Statement (.fcmp h f) := by
  intro hf w hw
  cases hw
  rw [decode_flt (by rw [op_asmA]; decide) (by rw [op_asmA]; decide)]
  unfold decodeFlt
  rw [op_asmA, hdrOf_asmA, fAOf_asmA]
  rfl
theorem fdiv (h : Hdr) (f : FA) : Statement (.fdiv h f) := by
  intro hf w hw
  cases hw
  rw [decode_flt (by rw [op_asmA]; decide) (by rw [op_asmA]; decide)]
  unfold decodeFlt
  rw [op_asmA, hdrOf_asmA, fAOf_asmA]
  rfl
theorem fsqrt (h : Hdr) (f : FA) : Statement (.fsqrt h f) := by
  intro hf w hw
  cases hw
  rw [decode_flt (by rw [op_asmA]; decide) (by rw [op_asmA]; decide)]
  unfold decodeFlt
  rw [op_asmA, hdrOf_asmA, fAOf_asmA]
  rfl
theorem frcp (h : Hdr) (f : FA) : Statement (.frcp h f) := by
  intro hf w hw
  cases hw
  rw [decode_flt (by rw [op_asmA]; decide) (by rw [op_asmA]; decide)]
  unfold decodeFlt
  rw [op_asmA, hdrOf_asmA, fAOf_asmA]
  rfl
theorem frsq (h : Hdr) (f : FA) : Statement (.frsq h f) := by
  intro hf w hw
  cases hw
  rw [decode_flt (by rw [op_asmA]; decide) (by rw [op_asmA]; decide)]
  unfold decodeFlt
  rw [op_asmA, hdrOf_asmA, fAOf_asmA]
  rfl
theorem fex2 (h : Hdr) (f : FA) : Statement (.fex2 h f) := by
  intro hf w hw
  cases hw
  rw [decode_flt (by rw [op_asmA]; decide) (by rw [op_asmA]; decide)]
  unfold decodeFlt
  rw [op_asmA, hdrOf_asmA, fAOf_asmA]
  rfl
theorem flg2 (h : Hdr) (f : FA) : Statement (.flg2 h f) := by
  intro hf w hw
  cases hw
  rw [decode_flt (by rw [op_asmA]; decide) (by rw [op_asmA]; decide)]
  unfold decodeFlt
  rw [op_asmA, hdrOf_asmA, fAOf_asmA]
  rfl
theorem fsin (h : Hdr) (f : FA) : Statement (.fsin h f) := by
  intro hf w hw
  cases hw
  rw [decode_flt (by rw [op_asmA]; decide) (by rw [op_asmA]; decide)]
  unfold decodeFlt
  rw [op_asmA, hdrOf_asmA, fAOf_asmA]
  rfl
theorem fcos (h : Hdr) (f : FA) : Statement (.fcos h f) := by
  intro hf w hw
  cases hw
  rw [decode_flt (by rw [op_asmA]; decide) (by rw [op_asmA]; decide)]
  unfold decodeFlt
  rw [op_asmA, hdrOf_asmA, fAOf_asmA]
  rfl
theorem ftanh (h : Hdr) (f : FA) : Statement (.ftanh h f) := by
  intro hf w hw
  cases hw
  rw [decode_flt (by rw [op_asmA]; decide) (by rw [op_asmA]; decide)]
  unfold decodeFlt
  rw [op_asmA, hdrOf_asmA, fAOf_asmA]
  rfl
theorem frnd (h : Hdr) (f : FA) : Statement (.frnd h f) := by
  intro hf w hw
  cases hw
  rw [decode_flt (by rw [op_asmA]; decide) (by rw [op_asmA]; decide)]
  unfold decodeFlt
  rw [op_asmA, hdrOf_asmA, fAOf_asmA]
  rfl
theorem fscl (h : Hdr) (f : FA) : Statement (.fscl h f) := by
  intro hf w hw
  cases hw
  rw [decode_flt (by rw [op_asmA]; decide) (by rw [op_asmA]; decide)]
  unfold decodeFlt
  rw [op_asmA, hdrOf_asmA, fAOf_asmA]
  rfl
theorem fcls (h : Hdr) (f : FA) : Statement (.fcls h f) := by
  intro hf w hw
  cases hw
  rw [decode_flt (by rw [op_asmA]; decide) (by rw [op_asmA]; decide)]
  unfold decodeFlt
  rw [op_asmA, hdrOf_asmA, fAOf_asmA]
  rfl
theorem fcvt (h : Hdr) (f : FA) : Statement (.fcvt h f) := by
  intro hf w hw
  cases hw
  rw [decode_flt (by rw [op_asmA]; decide) (by rw [op_asmA]; decide)]
  unfold decodeFlt
  rw [op_asmA, hdrOf_asmA, fAOf_asmA]
  rfl
theorem f2i (h : Hdr) (f : FA) : Statement (.f2i h f) := by
  intro hf w hw
  cases hw
  rw [decode_flt (by rw [op_asmA]; decide) (by rw [op_asmA]; decide)]
  unfold decodeFlt
  rw [op_asmA, hdrOf_asmA, fAOf_asmA]
  rfl
theorem i2f (h : Hdr) (f : FA) : Statement (.i2f h f) := by
  intro hf w hw
  cases hw
  rw [decode_flt (by rw [op_asmA]; decide) (by rw [op_asmA]; decide)]
  unfold decodeFlt
  rw [op_asmA, hdrOf_asmA, fAOf_asmA]
  rfl
theorem pack (h : Hdr) (f : FA) : Statement (.pack h f) := by
  intro hf w hw
  cases hw
  rw [decode_flt (by rw [op_asmA]; decide) (by rw [op_asmA]; decide)]
  unfold decodeFlt
  rw [op_asmA, hdrOf_asmA, fAOf_asmA]
  rfl
theorem unpk (h : Hdr) (f : FA) : Statement (.unpk h f) := by
  intro hf w hw
  cases hw
  rw [decode_flt (by rw [op_asmA]; decide) (by rw [op_asmA]; decide)]
  unfold decodeFlt
  rw [op_asmA, hdrOf_asmA, fAOf_asmA]
  rfl
theorem dot2 (h : Hdr) (f : FA) : Statement (.dot2 h f) := by
  intro hf w hw
  cases hw
  rw [decode_flt (by rw [op_asmA]; decide) (by rw [op_asmA]; decide)]
  unfold decodeFlt
  rw [op_asmA, hdrOf_asmA, fAOf_asmA]
  rfl
theorem hqt (h : Hdr) (f : FL) : Statement (.hqt h f) := by
  intro hf w hw
  cases hw
  rw [decode_flt (by rw [op_asmL]; decide) (by rw [op_asmL]; decide)]
  unfold decodeFlt
  rw [op_asmL, hdrOf_asmL, fLOf_asmL]
  rfl
theorem qfp8 (h : Hdr) (f : FL) : Statement (.qfp8 h f) := by
  intro hf w hw
  cases hw
  rw [decode_flt (by rw [op_asmL]; decide) (by rw [op_asmL]; decide)]
  unfold decodeFlt
  rw [op_asmL, hdrOf_asmL, fLOf_asmL]
  rfl
theorem qcb4 (h : Hdr) (f : FL) : Statement (.qcb4 h f) := by
  intro hf w hw
  cases hw
  rw [decode_flt (by rw [op_asmL]; decide) (by rw [op_asmL]; decide)]
  unfold decodeFlt
  rw [op_asmL, hdrOf_asmL, fLOf_asmL]
  rfl
theorem dqcb4 (h : Hdr) (f : FL) : Statement (.dqcb4 h f) := by
  intro hf w hw
  cases hw
  rw [decode_flt (by rw [op_asmL]; decide) (by rw [op_asmL]; decide)]
  unfold decodeFlt
  rw [op_asmL, hdrOf_asmL, fLOf_asmL]
  rfl
theorem rope (h : Hdr) (f : FL) : Statement (.rope h f) := by
  intro hf w hw
  cases hw
  rw [decode_flt (by rw [op_asmL]; decide) (by rw [op_asmL]; decide)]
  unfold decodeFlt
  rw [op_asmL, hdrOf_asmL, fLOf_asmL]
  rfl
theorem red (h : Hdr) (f : FA) : Statement (.red h f) := by
  intro hf w hw
  cases hw
  rw [decode_flt (by rw [op_asmA]; decide) (by rw [op_asmA]; decide)]
  unfold decodeFlt
  rw [op_asmA, hdrOf_asmA, fAOf_asmA]
  rfl
theorem scan (h : Hdr) (f : FA) : Statement (.scan h f) := by
  intro hf w hw
  cases hw
  rw [decode_flt (by rw [op_asmA]; decide) (by rw [op_asmA]; decide)]
  unfold decodeFlt
  rw [op_asmA, hdrOf_asmA, fAOf_asmA]
  rfl
theorem ld (h : Hdr) (f : FM) : Statement (.ld h f) := by
  intro hf w hw
  cases hw
  rw [decode_mem (by rw [op_asmM]; decide) (by rw [op_asmM]; decide)]
  unfold decodeMem
  rw [op_asmM, hdrOf_asmM, fMOf_asmM]
  rfl
theorem st (h : Hdr) (f : FM) : Statement (.st h f) := by
  intro hf w hw
  cases hw
  rw [decode_mem (by rw [op_asmM]; decide) (by rw [op_asmM]; decide)]
  unfold decodeMem
  rw [op_asmM, hdrOf_asmM, fMOf_asmM]
  rfl
theorem ldx (h : Hdr) (f : FM) : Statement (.ldx h f) := by
  intro hf w hw
  cases hw
  rw [decode_mem (by rw [op_asmM]; decide) (by rw [op_asmM]; decide)]
  unfold decodeMem
  rw [op_asmM, hdrOf_asmM, fMOf_asmM]
  rfl
theorem stx (h : Hdr) (f : FM) : Statement (.stx h f) := by
  intro hf w hw
  cases hw
  rw [decode_mem (by rw [op_asmM]; decide) (by rw [op_asmM]; decide)]
  unfold decodeMem
  rw [op_asmM, hdrOf_asmM, fMOf_asmM]
  rfl
theorem lds (h : Hdr) (f : FM) : Statement (.lds h f) := by
  intro hf w hw
  cases hw
  rw [decode_mem (by rw [op_asmM]; decide) (by rw [op_asmM]; decide)]
  unfold decodeMem
  rw [op_asmM, hdrOf_asmM, fMOf_asmM]
  rfl
theorem sts (h : Hdr) (f : FM) : Statement (.sts h f) := by
  intro hf w hw
  cases hw
  rw [decode_mem (by rw [op_asmM]; decide) (by rw [op_asmM]; decide)]
  unfold decodeMem
  rw [op_asmM, hdrOf_asmM, fMOf_asmM]
  rfl
theorem ldk (h : Hdr) (f : FM) : Statement (.ldk h f) := by
  intro hf w hw
  cases hw
  rw [decode_mem (by rw [op_asmM]; decide) (by rw [op_asmM]; decide)]
  unfold decodeMem
  rw [op_asmM, hdrOf_asmM, fMOf_asmM]
  rfl
theorem pref (h : Hdr) (f : FM) : Statement (.pref h f) := by
  intro hf w hw
  cases hw
  rw [decode_mem (by rw [op_asmM]; decide) (by rw [op_asmM]; decide)]
  unfold decodeMem
  rw [op_asmM, hdrOf_asmM, fMOf_asmM]
  rfl
theorem atom (h : Hdr) (f : FM) : Statement (.atom h f) := by
  intro hf w hw
  cases hw
  rw [decode_mem (by rw [op_asmM]; decide) (by rw [op_asmM]; decide)]
  unfold decodeMem
  rw [op_asmM, hdrOf_asmM, fMOf_asmM]
  rfl
theorem ared (h : Hdr) (f : FM) : Statement (.ared h f) := by
  intro hf w hw
  cases hw
  rw [decode_mem (by rw [op_asmM]; decide) (by rw [op_asmM]; decide)]
  unfold decodeMem
  rw [op_asmM, hdrOf_asmM, fMOf_asmM]
  rfl
theorem fence (h : Hdr) (f : FM) : Statement (.fence h f) := by
  intro hf w hw
  cases hw
  rw [decode_mem (by rw [op_asmM]; decide) (by rw [op_asmM]; decide)]
  unfold decodeMem
  rw [op_asmM, hdrOf_asmM, fMOf_asmM]
  rfl
theorem cflush (h : Hdr) (f : FM) : Statement (.cflush h f) := by
  intro hf w hw
  cases hw
  rw [decode_mem (by rw [op_asmM]; decide) (by rw [op_asmM]; decide)]
  unfold decodeMem
  rw [op_asmM, hdrOf_asmM, fMOf_asmM]
  rfl
theorem cinv (h : Hdr) (f : FM) : Statement (.cinv h f) := by
  intro hf w hw
  cases hw
  rw [decode_mem (by rw [op_asmM]; decide) (by rw [op_asmM]; decide)]
  unfold decodeMem
  rw [op_asmM, hdrOf_asmM, fMOf_asmM]
  rfl
theorem wcnt (h : Hdr) (f : FM) : Statement (.wcnt h f) := by
  intro hf w hw
  cases hw
  rw [decode_mem (by rw [op_asmM]; decide) (by rw [op_asmM]; decide)]
  unfold decodeMem
  rw [op_asmM, hdrOf_asmM, fMOf_asmM]
  rfl
theorem wtval (h : Hdr) (f : FM) : Statement (.wtval h f) := by
  intro hf w hw
  cases hw
  rw [decode_mem (by rw [op_asmM]; decide) (by rw [op_asmM]; decide)]
  unfold decodeMem
  rw [op_asmM, hdrOf_asmM, fMOf_asmM]
  rfl
theorem bar (h : Hdr) (f : FM) : Statement (.bar h f) := by
  intro hf w hw
  cases hw
  rw [decode_mem (by rw [op_asmM]; decide) (by rw [op_asmM]; decide)]
  unfold decodeMem
  rw [op_asmM, hdrOf_asmM, fMOf_asmM]
  rfl
theorem snd (h : Hdr) (f : FM) : Statement (.snd h f) := by
  intro hf w hw
  cases hw
  rw [decode_mem (by rw [op_asmM]; decide) (by rw [op_asmM]; decide)]
  unfold decodeMem
  rw [op_asmM, hdrOf_asmM, fMOf_asmM]
  rfl
theorem rcv (h : Hdr) (f : FM) : Statement (.rcv h f) := by
  intro hf w hw
  cases hw
  rw [decode_mem (by rw [op_asmM]; decide) (by rw [op_asmM]; decide)]
  unfold decodeMem
  rw [op_asmM, hdrOf_asmM, fMOf_asmM]
  rfl
theorem lyld (h : Hdr) (f : FL) : Statement (.lyld h f) := by
  intro hf w hw
  cases hw
  rw [decode_lay (by rw [op_asmL]; decide) (by rw [op_asmL]; decide)]
  unfold decodeLay
  rw [op_asmL, hdrOf_asmL, fLOf_asmL]
  rfl
theorem lyst (h : Hdr) (f : FL) : Statement (.lyst h f) := by
  intro hf w hw
  cases hw
  rw [decode_lay (by rw [op_asmL]; decide) (by rw [op_asmL]; decide)]
  unfold decodeLay
  rw [op_asmL, hdrOf_asmL, fLOf_asmL]
  rfl
theorem lyset (h : Hdr) (f : FL) : Statement (.lyset h f) := by
  intro hf w hw
  cases hw
  rw [decode_lay (by rw [op_asmL]; decide) (by rw [op_asmL]; decide)]
  unfold decodeLay
  rw [op_asmL, hdrOf_asmL, fLOf_asmL]
  rfl
theorem lyget (h : Hdr) (f : FL) : Statement (.lyget h f) := by
  intro hf w hw
  cases hw
  rw [decode_lay (by rw [op_asmL]; decide) (by rw [op_asmL]; decide)]
  unfold decodeLay
  rw [op_asmL, hdrOf_asmL, fLOf_asmL]
  rfl
theorem lycolRd (h : Hdr) (f : FL) : Statement (.lycolRd h f) := by
  intro hf w hw
  cases hw
  rw [decode_lay (by rw [op_asmL]; decide) (by rw [op_asmL]; decide)]
  unfold decodeLay
  rw [op_asmL, hdrOf_asmL, fLOf_asmL]
  have e : f.sub.extractLsb' 0 1 = 0 := by
    revert hf; simp only [wellFormed]; generalize f.sub = x; revert x; decide
  simp only [wr_asmL, e]
  rfl
theorem lycolWr (h : Hdr) (f : FL) : Statement (.lycolWr h f) := by
  intro hf w hw
  cases hw
  rw [decode_lay (by rw [op_asmL]; decide) (by rw [op_asmL]; decide)]
  unfold decodeLay
  rw [op_asmL, hdrOf_asmL, fLOf_asmL]
  have e : f.sub.extractLsb' 0 1 = 1 := by
    revert hf; simp only [wellFormed]; generalize f.sub = x; revert x; decide
  simp only [wr_asmL, e]
  rfl
theorem lychk (h : Hdr) (f : FL) : Statement (.lychk h f) := by
  intro hf w hw
  cases hw
  rw [decode_lay (by rw [op_asmL]; decide) (by rw [op_asmL]; decide)]
  unfold decodeLay
  rw [op_asmL, hdrOf_asmL, fLOf_asmL]
  rfl
theorem lycp (h : Hdr) (f : FL) : Statement (.lycp h f) := by
  intro hf w hw
  cases hw
  rw [decode_lay (by rw [op_asmL]; decide) (by rw [op_asmL]; decide)]
  unfold decodeLay
  rw [op_asmL, hdrOf_asmL, fLOf_asmL]
  rfl
theorem lyh (h : Hdr) (f : FL) : Statement (.lyh h f) := by
  intro hf w hw
  cases hw
  rw [decode_lay (by rw [op_asmL]; decide) (by rw [op_asmL]; decide)]
  unfold decodeLay
  rw [op_asmL, hdrOf_asmL, fLOf_asmL]
  rfl
theorem lyloc (h : Hdr) (f : FL) : Statement (.lyloc h f) := by
  intro hf w hw
  cases hw
  rw [decode_lay (by rw [op_asmL]; decide) (by rw [op_asmL]; decide)]
  unfold decodeLay
  rw [op_asmL, hdrOf_asmL, fLOf_asmL]
  rfl
theorem lyidx (h : Hdr) (f : FL) : Statement (.lyidx h f) := by
  intro hf w hw
  cases hw
  rw [decode_lay (by rw [op_asmL]; decide) (by rw [op_asmL]; decide)]
  unfold decodeLay
  rw [op_asmL, hdrOf_asmL, fLOf_asmL]
  rfl
theorem cbld (h : Hdr) (f : FL) : Statement (.cbld h f) := by
  intro hf w hw
  cases hw
  rw [decode_lay (by rw [op_asmL]; decide) (by rw [op_asmL]; decide)]
  unfold decodeLay
  rw [op_asmL, hdrOf_asmL, fLOf_asmL]
  rfl
theorem mma (h : Hdr) (f : FX) : Statement (.mma h f) := by
  intro hf w hw
  cases hw
  rw [decode_mtx (by rw [op_asmX]; decide) (by rw [op_asmX]; decide)]
  unfold decodeMtx
  rw [op_asmX, hdrOf_asmX, fXOf_asmX]
  rfl
theorem mmag (h : Hdr) (f : FX) : Statement (.mmag h f) := by
  intro hf w hw
  cases hw
  rw [decode_mtx (by rw [op_asmX]; decide) (by rw [op_asmX]; decide)]
  unfold decodeMtx
  rw [op_asmX, hdrOf_asmX, fXOf_asmX]
  rfl
theorem mmld (h : Hdr) (f : FX) : Statement (.mmld h f) := by
  intro hf w hw
  cases hw
  rw [decode_mtx (by rw [op_asmX]; decide) (by rw [op_asmX]; decide)]
  unfold decodeMtx
  rw [op_asmX, hdrOf_asmX, fXOf_asmX]
  rfl
theorem mmst (h : Hdr) (f : FX) : Statement (.mmst h f) := by
  intro hf w hw
  cases hw
  rw [decode_mtx (by rw [op_asmX]; decide) (by rw [op_asmX]; decide)]
  unfold decodeMtx
  rw [op_asmX, hdrOf_asmX, fXOf_asmX]
  rfl
theorem mmz (h : Hdr) (f : FX) : Statement (.mmz h f) := by
  intro hf w hw
  cases hw
  rw [decode_mtx (by rw [op_asmX]; decide) (by rw [op_asmX]; decide)]
  unfold decodeMtx
  rw [op_asmX, hdrOf_asmX, fXOf_asmX]
  rfl
theorem mmdr (h : Hdr) (f : FX) : Statement (.mmdr h f) := by
  intro hf w hw
  cases hw
  rw [decode_mtx (by rw [op_asmX]; decide) (by rw [op_asmX]; decide)]
  unfold decodeMtx
  rw [op_asmX, hdrOf_asmX, fXOf_asmX]
  rfl
theorem mmfl (h : Hdr) (f : FX) : Statement (.mmfl h f) := by
  intro hf w hw
  cases hw
  rw [decode_mtx (by rw [op_asmX]; decide) (by rw [op_asmX]; decide)]
  unfold decodeMtx
  rw [op_asmX, hdrOf_asmX, fXOf_asmX]
  rfl
theorem mmia (h : Hdr) (f : FX) : Statement (.mmia h f) := by
  intro hf w hw
  cases hw
  rw [decode_mtx (by rw [op_asmX]; decide) (by rw [op_asmX]; decide)]
  unfold decodeMtx
  rw [op_asmX, hdrOf_asmX, fXOf_asmX]
  rfl
theorem mmscl (h : Hdr) (f : FX) : Statement (.mmscl h f) := by
  intro hf w hw
  cases hw
  rw [decode_mtx (by rw [op_asmX]; decide) (by rw [op_asmX]; decide)]
  unfold decodeMtx
  rw [op_asmX, hdrOf_asmX, fXOf_asmX]
  rfl
theorem mmcb (h : Hdr) (f : FX) : Statement (.mmcb h f) := by
  intro hf w hw
  cases hw
  rw [decode_mtx (by rw [op_asmX]; decide) (by rw [op_asmX]; decide)]
  unfold decodeMtx
  rw [op_asmX, hdrOf_asmX, fXOf_asmX]
  rfl
theorem mmsl (h : Hdr) (f : FX) : Statement (.mmsl h f) := by
  intro hf w hw
  cases hw
  rw [decode_mtx (by rw [op_asmX]; decide) (by rw [op_asmX]; decide)]
  unfold decodeMtx
  rw [op_asmX, hdrOf_asmX, fXOf_asmX]
  rfl
theorem hand (h : Hdr) (f : FH) : Statement (.hand h f) := by
  intro hf w hw
  cases hw
  rw [decode_team (by rw [op_asmH]; decide) (by rw [op_asmH]; decide)]
  unfold decodeTeam
  rw [op_asmH, hdrOf_asmH, fHOf_asmH]
  rfl
theorem tbra (h : Hdr) (f : FB) : Statement (.tbra h f) := by
  intro hf w hw
  cases hw
  rw [decode_team (by rw [op_asmB]; decide) (by rw [op_asmB]; decide)]
  unfold decodeTeam
  rw [op_asmB, hdrOf_asmB, fBOf_asmB]
  rfl
theorem tloop (h : Hdr) (f : FB) : Statement (.tloop h f) := by
  intro hf w hw
  cases hw
  rw [decode_team (by rw [op_asmB]; decide) (by rw [op_asmB]; decide)]
  unfold decodeTeam
  rw [op_asmB, hdrOf_asmB, fBOf_asmB]
  rfl
theorem tsync (h : Hdr) (f : FH) : Statement (.tsync h f) := by
  intro hf w hw
  cases hw
  rw [decode_team (by rw [op_asmH]; decide) (by rw [op_asmH]; decide)]
  unfold decodeTeam
  rw [op_asmH, hdrOf_asmH, fHOf_asmH]
  rfl
theorem qset (h : Hdr) (f : FH) : Statement (.qset h f) := by
  intro hf w hw
  cases hw
  rw [decode_team (by rw [op_asmH]; decide) (by rw [op_asmH]; decide)]
  unfold decodeTeam
  rw [op_asmH, hdrOf_asmH, fHOf_asmH]
  rfl
theorem qget (h : Hdr) (f : FH) : Statement (.qget h f) := by
  intro hf w hw
  cases hw
  rw [decode_team (by rw [op_asmH]; decide) (by rw [op_asmH]; decide)]
  unfold decodeTeam
  rw [op_asmH, hdrOf_asmH, fHOf_asmH]
  rfl
theorem drift (h : Hdr) (f : FH) : Statement (.drift h f) := by
  intro hf w hw
  cases hw
  rw [decode_team (by rw [op_asmH]; decide) (by rw [op_asmH]; decide)]
  unfold decodeTeam
  rw [op_asmH, hdrOf_asmH, fHOf_asmH]
  rfl
theorem rdone (h : Hdr) (f : FH) : Statement (.rdone h f) := by
  intro hf w hw
  cases hw
  rw [decode_team (by rw [op_asmH]; decide) (by rw [op_asmH]; decide)]
  unfold decodeTeam
  rw [op_asmH, hdrOf_asmH, fHOf_asmH]
  rfl
theorem cpy (h : Hdr) (f : FC) : Statement (.cpy h f) := by
  intro hf w hw
  cases hw
  rw [decode_eng (by rw [op_asmC]; decide) (by rw [op_asmC]; decide)]
  unfold decodeEng
  rw [group_asmC, fn_asmC, hdrOf_asmC, fCOf_asmC]
  simp only [wellFormed, beq_iff_eq] at hf
  rw [hf]
  rfl
theorem cpyx (h : Hdr) (f : FC) : Statement (.cpyx h f) := by
  intro hf w hw
  cases hw
  rw [decode_eng (by rw [op_asmC]; decide) (by rw [op_asmC]; decide)]
  unfold decodeEng
  rw [group_asmC, fn_asmC, hdrOf_asmC, fCOf_asmC]
  simp only [wellFormed, beq_iff_eq] at hf
  rw [hf]
  rfl
theorem cpyr (h : Hdr) (f : FC) : Statement (.cpyr h f) := by
  intro hf w hw
  cases hw
  rw [decode_eng (by rw [op_asmC]; decide) (by rw [op_asmC]; decide)]
  unfold decodeEng
  rw [group_asmC, fn_asmC, hdrOf_asmC, fCOf_asmC]
  simp only [wellFormed, beq_iff_eq] at hf
  rw [hf]
  rfl
theorem rly (h : Hdr) (f : FC) : Statement (.rly h f) := by
  intro hf w hw
  cases hw
  rw [decode_eng (by rw [op_asmC]; decide) (by rw [op_asmC]; decide)]
  unfold decodeEng
  rw [group_asmC, fn_asmC, hdrOf_asmC, fCOf_asmC]
  simp only [wellFormed, beq_iff_eq] at hf
  rw [hf]
  rfl
theorem rlyw (h : Hdr) (f : FC) : Statement (.rlyw h f) := by
  intro hf w hw
  cases hw
  rw [decode_eng (by rw [op_asmC]; decide) (by rw [op_asmC]; decide)]
  unfold decodeEng
  rw [group_asmC, fn_asmC, hdrOf_asmC, fCOf_asmC]
  simp only [wellFormed, beq_iff_eq] at hf
  rw [hf]
  rfl
theorem rlyp (h : Hdr) (f : FC) : Statement (.rlyp h f) := by
  intro hf w hw
  cases hw
  rw [decode_eng (by rw [op_asmC]; decide) (by rw [op_asmC]; decide)]
  unfold decodeEng
  rw [group_asmC, fn_asmC, hdrOf_asmC, fCOf_asmC]
  simp only [wellFormed, beq_iff_eq] at hf
  rw [hf]
  rfl
theorem gath (h : Hdr) (f : FC) : Statement (.gath h f) := by
  intro hf w hw
  cases hw
  rw [decode_eng (by rw [op_asmC]; decide) (by rw [op_asmC]; decide)]
  unfold decodeEng
  rw [group_asmC, fn_asmC, hdrOf_asmC, fCOf_asmC]
  simp only [wellFormed, beq_iff_eq] at hf
  rw [hf]
  rfl
theorem pgal (h : Hdr) (f : FC) : Statement (.pgal h f) := by
  intro hf w hw
  cases hw
  rw [decode_eng (by rw [op_asmC]; decide) (by rw [op_asmC]; decide)]
  unfold decodeEng
  rw [group_asmC, fn_asmC, hdrOf_asmC, fCOf_asmC]
  simp only [wellFormed, beq_iff_eq] at hf
  rw [hf]
  rfl
theorem pgfr (h : Hdr) (f : FC) : Statement (.pgfr h f) := by
  intro hf w hw
  cases hw
  rw [decode_eng (by rw [op_asmC]; decide) (by rw [op_asmC]; decide)]
  unfold decodeEng
  rw [group_asmC, fn_asmC, hdrOf_asmC, fCOf_asmC]
  simp only [wellFormed, beq_iff_eq] at hf
  rw [hf]
  rfl
theorem pgsw (h : Hdr) (f : FC) : Statement (.pgsw h f) := by
  intro hf w hw
  cases hw
  rw [decode_eng (by rw [op_asmC]; decide) (by rw [op_asmC]; decide)]
  unfold decodeEng
  rw [group_asmC, fn_asmC, hdrOf_asmC, fCOf_asmC]
  simp only [wellFormed, beq_iff_eq] at hf
  rw [hf]
  rfl
theorem mig (h : Hdr) (f : FC) : Statement (.mig h f) := by
  intro hf w hw
  cases hw
  rw [decode_eng (by rw [op_asmC]; decide) (by rw [op_asmC]; decide)]
  unfold decodeEng
  rw [group_asmC, fn_asmC, hdrOf_asmC, fCOf_asmC]
  simp only [wellFormed, beq_iff_eq] at hf
  rw [hf]
  rfl
theorem tres (h : Hdr) (f : FC) : Statement (.tres h f) := by
  intro hf w hw
  cases hw
  rw [decode_eng (by rw [op_asmC]; decide) (by rw [op_asmC]; decide)]
  unfold decodeEng
  rw [group_asmC, fn_asmC, hdrOf_asmC, fCOf_asmC]
  simp only [wellFormed, beq_iff_eq] at hf
  rw [hf]
  rfl
theorem tnode (h : Hdr) (f : FC) : Statement (.tnode h f) := by
  intro hf w hw
  cases hw
  rw [decode_eng (by rw [op_asmC]; decide) (by rw [op_asmC]; decide)]
  unfold decodeEng
  rw [group_asmC, fn_asmC, hdrOf_asmC, fCOf_asmC]
  simp only [wellFormed, beq_iff_eq] at hf
  rw [hf]
  rfl
theorem tedge (h : Hdr) (f : FC) : Statement (.tedge h f) := by
  intro hf w hw
  cases hw
  rw [decode_eng (by rw [op_asmC]; decide) (by rw [op_asmC]; decide)]
  unfold decodeEng
  rw [group_asmC, fn_asmC, hdrOf_asmC, fCOf_asmC]
  simp only [wellFormed, beq_iff_eq] at hf
  rw [hf]
  rfl
theorem tlaunch (h : Hdr) (f : FC) : Statement (.tlaunch h f) := by
  intro hf w hw
  cases hw
  rw [decode_eng (by rw [op_asmC]; decide) (by rw [op_asmC]; decide)]
  unfold decodeEng
  rw [group_asmC, fn_asmC, hdrOf_asmC, fCOf_asmC]
  simp only [wellFormed, beq_iff_eq] at hf
  rw [hf]
  rfl
theorem tcancel (h : Hdr) (f : FC) : Statement (.tcancel h f) := by
  intro hf w hw
  cases hw
  rw [decode_eng (by rw [op_asmC]; decide) (by rw [op_asmC]; decide)]
  unfold decodeEng
  rw [group_asmC, fn_asmC, hdrOf_asmC, fCOf_asmC]
  simp only [wellFormed, beq_iff_eq] at hf
  rw [hf]
  rfl
theorem hnew (h : Hdr) (f : FC) : Statement (.hnew h f) := by
  intro hf w hw
  cases hw
  rw [decode_eng (by rw [op_asmC]; decide) (by rw [op_asmC]; decide)]
  unfold decodeEng
  rw [group_asmC, fn_asmC, hdrOf_asmC, fCOf_asmC]
  simp only [wellFormed, beq_iff_eq] at hf
  rw [hf]
  rfl
theorem hdel (h : Hdr) (f : FC) : Statement (.hdel h f) := by
  intro hf w hw
  cases hw
  rw [decode_eng (by rw [op_asmC]; decide) (by rw [op_asmC]; decide)]
  unfold decodeEng
  rw [group_asmC, fn_asmC, hdrOf_asmC, fCOf_asmC]
  simp only [wellFormed, beq_iff_eq] at hf
  rw [hf]
  rfl
theorem hchk (h : Hdr) (f : FC) : Statement (.hchk h f) := by
  intro hf w hw
  cases hw
  rw [decode_eng (by rw [op_asmC]; decide) (by rw [op_asmC]; decide)]
  unfold decodeEng
  rw [group_asmC, fn_asmC, hdrOf_asmC, fCOf_asmC]
  simp only [wellFormed, beq_iff_eq] at hf
  rw [hf]
  rfl
theorem csrr (h : Hdr) (f : FS) : Statement (.csrr h f) := by
  intro hf w hw
  cases hw
  rw [decode_sys (by rw [op_asmS]; decide) (by rw [op_asmS]; decide)]
  unfold decodeSys
  rw [op_asmS, hdrOf_asmS, fSOf_asmS]
  rfl
theorem csrw (h : Hdr) (f : FS) : Statement (.csrw h f) := by
  intro hf w hw
  cases hw
  rw [decode_sys (by rw [op_asmS]; decide) (by rw [op_asmS]; decide)]
  unfold decodeSys
  rw [op_asmS, hdrOf_asmS, fSOf_asmS]
  rfl
theorem svc (h : Hdr) (f : FS) : Statement (.svc h f) := by
  intro hf w hw
  cases hw
  rw [decode_sys (by rw [op_asmS]; decide) (by rw [op_asmS]; decide)]
  unfold decodeSys
  rw [op_asmS, hdrOf_asmS, fSOf_asmS]
  rfl
theorem eret (h : Hdr) (f : FS) : Statement (.eret h f) := by
  intro hf w hw
  cases hw
  rw [decode_sys (by rw [op_asmS]; decide) (by rw [op_asmS]; decide)]
  unfold decodeSys
  rw [op_asmS, hdrOf_asmS, fSOf_asmS]
  rfl
theorem tlbiAll (h : Hdr) (f : FS) : Statement (.tlbiAll h f) := by
  intro hf w hw
  cases hw
  rw [decode_sys (by rw [op_asmS]; decide) (by rw [op_asmS]; decide)]
  unfold decodeSys
  rw [op_asmS, hdrOf_asmS, fSOf_asmS]
  simp only [wellFormed, bne_iff_ne] at hf
  simp only [sub_asmS, hf, ↓reduceIte]
  rfl
theorem tlbiPage (h : Hdr) (f : FS) : Statement (.tlbiPage h f) := by
  intro hf w hw
  cases hw
  rw [decode_sys (by rw [op_asmS]; decide) (by rw [op_asmS]; decide)]
  unfold decodeSys
  rw [op_asmS, hdrOf_asmS, fSOf_asmS]
  simp only [wellFormed, beq_iff_eq] at hf
  simp only [sub_asmS, hf, ↓reduceIte]
  rfl
theorem ctxsv (h : Hdr) (f : FS) : Statement (.ctxsv h f) := by
  intro hf w hw
  cases hw
  rw [decode_sys (by rw [op_asmS]; decide) (by rw [op_asmS]; decide)]
  unfold decodeSys
  rw [op_asmS, hdrOf_asmS, fSOf_asmS]
  rfl
theorem ctxld (h : Hdr) (f : FS) : Statement (.ctxld h f) := by
  intro hf w hw
  cases hw
  rw [decode_sys (by rw [op_asmS]; decide) (by rw [op_asmS]; decide)]
  unfold decodeSys
  rw [op_asmS, hdrOf_asmS, fSOf_asmS]
  rfl
theorem halt (h : Hdr) (f : FS) : Statement (.halt h f) := by
  intro hf w hw
  cases hw
  rw [decode_sys (by rw [op_asmS]; decide) (by rw [op_asmS]; decide)]
  unfold decodeSys
  rw [op_asmS, hdrOf_asmS, fSOf_asmS]
  rfl
theorem hint (h : Hdr) (f : FS) : Statement (.hint h f) := by
  intro hf w hw
  cases hw
  rw [decode_sys (by rw [op_asmS]; decide) (by rw [op_asmS]; decide)]
  unfold decodeSys
  rw [op_asmS, hdrOf_asmS, fSOf_asmS]
  rfl
theorem lineRefetch (r : MRef) (slotB : Bool) : Statement (.lineRefetch r slotB) := by
  intro _ w hw
  simp [encode] at hw
theorem slotPromotion (r : MRef) (slotB : Bool) : Statement (.slotPromotion r slotB) := by
  intro _ w hw
  simp [encode] at hw
theorem joinTimeout (r : MRef) (e : Nat) : Statement (.joinTimeout r e) := by
  intro _ w hw
  simp [encode] at hw
theorem watchdog (r : MRef) : Statement (.watchdog r) := by
  intro _ w hw
  simp [encode] at hw
theorem wtvalTimeout (r : MRef) : Statement (.wtvalTimeout r) := by
  intro _ w hw
  simp [encode] at hw
theorem loadReturn (r : MRef) : Statement (.loadReturn r) := by
  intro _ w hw
  simp [encode] at hw
theorem storeRetire (r : MRef) : Statement (.storeRetire r) := by
  intro _ w hw
  simp [encode] at hw
theorem readPerform (r : MRef) (op piece : Nat) : Statement (.readPerform r op piece) := by
  intro _ w hw
  simp [encode] at hw
theorem atomicPerform (r : MRef) (op : Nat) (lane : Nat) : Statement (.atomicPerform r op lane) := by
  intro _ w hw
  simp [encode] at hw
theorem writeDrain (w : Nat) : Statement (.writeDrain w) := by
  intro _ w hw
  simp [encode] at hw
theorem writePush (w : Nat) : Statement (.writePush w) := by
  intro _ w hw
  simp [encode] at hw
theorem writeSend (w : Nat) : Statement (.writeSend w) := by
  intro _ w hw
  simp [encode] at hw
theorem writeGrant (w : Nat) : Statement (.writeGrant w) := by
  intro _ w hw
  simp [encode] at hw
theorem writeFill (toQuad : Option Nat) (line : Nat) : Statement (.writeFill toQuad line) := by
  intro _ w hw
  simp [encode] at hw
theorem messageAppend (msg : Nat) : Statement (.messageAppend msg) := by
  intro _ w hw
  simp [encode] at hw
theorem ringStageWrite (wu ring : Nat) : Statement (.ringStageWrite wu ring) := by
  intro _ w hw
  simp [encode] at hw
theorem matrixStart (core op : Nat) : Statement (.matrixStart core op) := by
  intro _ w hw
  simp [encode] at hw
theorem matrixComplete (core op : Nat) (elems : List Nat) : Statement (.matrixComplete core op elems) := by
  intro _ w hw
  simp [encode] at hw
theorem matrixWatchdog (core : Nat) : Statement (.matrixWatchdog core) := by
  intro _ w hw
  simp [encode] at hw
theorem engineWriteLand (op move : Nat) : Statement (.engineWriteLand op move) := by
  intro _ w hw
  simp [encode] at hw
theorem engineCompletion (op : Nat) : Statement (.engineCompletion op) := by
  intro _ w hw
  simp [encode] at hw
theorem relayoutGroupCommit (op group : Nat) : Statement (.relayoutGroupCommit op group) := by
  intro _ w hw
  simp [encode] at hw
theorem pageWalk (ctx va : Nat) : Statement (.pageWalk ctx va) := by
  intro _ w hw
  simp [encode] at hw
theorem pageMove (move : Nat) : Statement (.pageMove move) := by
  intro _ w hw
  simp [encode] at hw
theorem storageError (place : ErrPlace) (addr : Nat) (hard : Bool) : Statement (.storageError place addr hard) := by
  intro _ w hw
  simp [encode] at hw
theorem launchEntryTake (ctx q : Nat) : Statement (.launchEntryTake ctx q) := by
  intro _ w hw
  simp [encode] at hw
theorem nodeLaunch (n : NRef) : Statement (.nodeLaunch n) := by
  intro _ w hw
  simp [encode] at hw
theorem nodeFinish (n : NRef) : Statement (.nodeFinish n) := by
  intro _ w hw
  simp [encode] at hw
theorem chunkDeal (n : NRef) : Statement (.chunkDeal n) := by
  intro _ w hw
  simp [encode] at hw
theorem workgroupPlace (die : Nat) : Statement (.workgroupPlace die) := by
  intro _ w hw
  simp [encode] at hw
theorem resourceRelease (wu : Nat) : Statement (.resourceRelease wu) := by
  intro _ w hw
  simp [encode] at hw
theorem workgroupMigration (wu core : Nat) : Statement (.workgroupMigration wu core) := by
  intro _ w hw
  simp [encode] at hw
theorem senderAck (fwd sender : Nat) : Statement (.senderAck fwd sender) := by
  intro _ w hw
  simp [encode] at hw
theorem forwardRetire (fwd : Nat) : Statement (.forwardRetire fwd) := by
  intro _ w hw
  simp [encode] at hw
theorem saveComplete (wu : Nat) : Statement (.saveComplete wu) := by
  intro _ w hw
  simp [encode] at hw
theorem matrixSaveLimit (wu : Nat) : Statement (.matrixSaveLimit wu) := by
  intro _ w hw
  simp [encode] at hw
theorem diefence (die cause : Nat) : Statement (.diefence die cause) := by
  intro _ w hw
  simp [encode] at hw
theorem dieLinkRateStep (link use : Nat) : Statement (.dieLinkRateStep link use) := by
  intro _ w hw
  simp [encode] at hw
theorem dieLinkRetrain (link : Nat) (ok : Bool) : Statement (.dieLinkRetrain link ok) := by
  intro _ w hw
  simp [encode] at hw
theorem linkControl (way seq : Nat) : Statement (.linkControl way seq) := by
  intro _ w hw
  simp [encode] at hw
theorem ackTimeout (way : Nat) : Statement (.ackTimeout way) := by
  intro _ w hw
  simp [encode] at hw
theorem linkRetrain (plane : Nat) (ok : Bool) : Statement (.linkRetrain plane ok) := by
  intro _ w hw
  simp [encode] at hw
theorem linkRateStep (plane use : Nat) : Statement (.linkRateStep plane use) := by
  intro _ w hw
  simp [encode] at hw
theorem lineRecall (line cause : Nat) : Statement (.lineRecall line cause) := by
  intro _ w hw
  simp [encode] at hw
theorem recallWindowExpiry (line : Nat) : Statement (.recallWindowExpiry line) := by
  intro _ w hw
  simp [encode] at hw
theorem wavelengthLoss (die : Nat) (waves : BitVec 16) (links : BitVec 24) (atMonitor : Bool) : Statement (.wavelengthLoss die waves links atMonitor) := by
  intro _ w hw
  simp [encode] at hw
theorem wavelengthRestore (die : Nat) (waves : BitVec 16) (links : BitVec 24) : Statement (.wavelengthRestore die waves links) := by
  intro _ w hw
  simp [encode] at hw
theorem laserloss (die : Nat) : Statement (.laserloss die) := by
  intro _ w hw
  simp [encode] at hw
theorem planedown (plane cause pkg : Nat) : Statement (.planedown plane cause pkg) := by
  intro _ w hw
  simp [encode] at hw
theorem hostMemAccess (part off : Nat) (wr : Option (List Byte)) (len : Nat) : Statement (.hostMemAccess part off wr len) := by
  intro _ w hw
  simp [encode] at hw
theorem lqtail (ctx q : Nat) (v : W64) : Statement (.lqtail ctx q v) := by
  intro _ w hw
  simp [encode] at hw
theorem featacc (hi : Bool) (v : W64) : Statement (.featacc hi v) := by
  intro _ w hw
  simp [encode] at hw
theorem hostRegisterWrite (ctx : Option Nat) (off : Nat) (v : W64) : Statement (.hostRegisterWrite ctx off v) := by
  intro _ w hw
  simp [encode] at hw
theorem thermalTrip (core : Nat) : Statement (.thermalTrip core) := by
  intro _ w hw
  simp [encode] at hw
theorem unassignedOpcode (opc : BitVec 8) (rest : BitVec 88) : Statement (.unassignedOpcode opc rest) := by
  intro hf w hw
  cases hw
  have e : fld (rest ++ opc) 0 8 = opc := by
    unfold fld; rw [extract_low _ _ (by decide), extract_all]
  have e2 : fld (rest ++ opc) 8 88 = rest := by
    unfold fld; rw [extract_high _ _ (by decide)]; exact extract_all rest
  have hu : unassigned (rest ++ opc) = .unassignedOpcode opc rest := by unfold unassigned; rw [e, e2]
  have ne : rest ++ opc ≠ BitVec.allOnes 96 := by
    intro h
    rw [h] at e e2
    simp only [wellFormed, Bool.or_eq_true, Bool.and_eq_true, bne_iff_ne] at hf
    rcases hf with hf | ⟨_, hf⟩
    · rw [← e] at hf; exact absurd hf (by decide)
    · exact hf (by rw [← e2]; decide)
  have hr : ∀ o : BitVec 8, opcUnassigned o.toNat = true ∨ o = 0xFF → (0x10 ≤ o.toNat ∧ o.toNat ≤ 0x1F) ∨ (0x4E ≤ o.toNat ∧ o.toNat ≤ 0x4F) ∨
      (0x74 ≤ o.toNat ∧ o.toNat ≤ 0x77) ∨ (0x8A ≤ o.toNat ∧ o.toNat ≤ 0x97) ∨ (0xA3 ≤ o.toNat ∧ o.toNat ≤ 0xA7) ∨
      (0xB3 ≤ o.toNat ∧ o.toNat ≤ 0xB7) ∨ (0xC0 ≤ o.toNat ∧ o.toNat ≤ 0xC7) ∨ (0xD9 ≤ o.toNat ∧ o.toNat < 0xE0) ∨ 0xE0 ≤ o.toNat := by decide
  simp only [wellFormed, Bool.or_eq_true, Bool.and_eq_true, beq_iff_eq] at hf
  unfold decode
  rw [if_neg ne]
  dsimp only
  rw [← hu]
  rcases hr opc (hf.imp_right And.left) with g | g | g | g | g | g | g | g | g <;> rw [e] <;> simp (disch := omega) only [if_pos, if_neg] <;>
    first
    | (unfold decodeCtl; rw [e]; split <;> first | rfl | omega)
    | (unfold decodeInt; rw [e]; split <;> first | rfl | omega)
    | (unfold decodeFlt; rw [e]; split <;> first | rfl | omega)
    | (unfold decodeMem; rw [e]; split <;> first | rfl | omega)
    | (unfold decodeLay; rw [e]; split <;> first | rfl | omega)
    | (unfold decodeMtx; rw [e]; split <;> first | rfl | omega)
    | (unfold decodeTeam; rw [e]; split <;> first | rfl | omega)
    | (unfold decodeSys; rw [e]; split <;> first | rfl | omega)
theorem cop (grp : BitVec 3) (h : Hdr) (f : FC) : Statement (.cop grp h f) := by
  intro hf w hw
  cases hw
  simp only [wellFormed, decide_eq_true_eq] at hf
  have lo : ∀ g : BitVec 3, 0xC8 ≤ (0b11001#5 ++ g).toNat := by decide
  have hi : ∀ g : BitVec 3, (0b11001#5 ++ g).toNat < 0xD0 := by decide
  have eg : ∀ g : BitVec 3, (0b11001#5 ++ g).extractLsb' 0 3 = g := by decide
  rw [decode_eng (by rw [op_asmC]; exact lo grp) (by rw [op_asmC]; exact hi grp)]
  unfold decodeEng
  rw [group_asmC, fn_asmC, hdrOf_asmC, fCOf_asmC, eg]
  split <;> simp_all [groupCommands]
theorem declareUnhandled (wu : Nat) : Statement (.declareUnhandled wu) := by
  intro _ w hw
  simp [encode] at hw
theorem flitCrcFailure (way : Nat) : Statement (.flitCrcFailure way) := by
  intro _ w hw
  simp [encode] at hw
theorem powerLoss (tornCopy : Option Nat) : Statement (.powerLoss tornCopy) := by
  intro _ w hw
  simp [encode] at hw
theorem planeReadmission (pkg plane : Nat) : Statement (.planeReadmission pkg plane) := by
  intro _ w hw
  simp [encode] at hw
theorem voltageDroop (core bin : Nat) : Statement (.voltageDroop core bin) := by
  intro _ w hw
  simp [encode] at hw
theorem powerGating (core : Nat) (stop : Bool) : Statement (.powerGating core stop) := by
  intro _ w hw
  simp [encode] at hw
theorem emptySlot : Statement .emptySlot := by
  intro _ w hw
  cases hw
  rfl
theorem readShared : Statement .readShared := by
  intro _ w hw
  simp [encode] at hw
theorem readExclusive : Statement .readExclusive := by
  intro _ w hw
  simp [encode] at hw
theorem upgrade : Statement .upgrade := by
  intro _ w hw
  simp [encode] at hw
theorem writeBack : Statement .writeBack := by
  intro _ w hw
  simp [encode] at hw
theorem cleanEviction : Statement .cleanEviction := by
  intro _ w hw
  simp [encode] at hw
theorem atomic : Statement .atomic := by
  intro _ w hw
  simp [encode] at hw
theorem forward : Statement .forward := by
  intro _ w hw
  simp [encode] at hw
theorem invalidate : Statement .invalidate := by
  intro _ w hw
  simp [encode] at hw
theorem recallReq : Statement .recallReq := by
  intro _ w hw
  simp [encode] at hw
theorem data : Statement .data := by
  intro _ w hw
  simp [encode] at hw
theorem acknowledgement : Statement .acknowledgement := by
  intro _ w hw
  simp [encode] at hw
theorem grant : Statement .grant := by
  intro _ w hw
  simp [encode] at hw
theorem uncachedGrant : Statement .uncachedGrant := by
  intro _ w hw
  simp [encode] at hw
theorem barrierIncrement : Statement .barrierIncrement := by
  intro _ w hw
  simp [encode] at hw
theorem barrierCompletion : Statement .barrierCompletion := by
  intro _ w hw
  simp [encode] at hw
theorem create : Statement .create := by
  intro _ w hw
  simp [encode] at hw
theorem destroy : Statement .destroy := by
  intro _ w hw
  simp [encode] at hw
theorem preempt : Statement .preempt := by
  intro _ w hw
  simp [encode] at hw
theorem resume : Statement .resume := by
  intro _ w hw
  simp [encode] at hw
theorem setpool : Statement .setpool := by
  intro _ w hw
  simp [encode] at hw
theorem setreserve : Statement .setreserve := by
  intro _ w hw
  simp [encode] at hw
theorem setremap : Statement .setremap := by
  intro _ w hw
  simp [encode] at hw
theorem partnew : Statement .partnew := by
  intro _ w hw
  simp [encode] at hw
theorem partfree : Statement .partfree := by
  intro _ w hw
  simp [encode] at hw
theorem readstart : Statement .readstart := by
  intro _ w hw
  simp [encode] at hw
theorem readalm : Statement .readalm := by
  intro _ w hw
  simp [encode] at hw
theorem resetctx : Statement .resetctx := by
  intro _ w hw
  simp [encode] at hw
theorem getVersion : Statement .getVersion := by
  intro _ w hw
  simp [encode] at hw
theorem getCapabilities : Statement .getCapabilities := by
  intro _ w hw
  simp [encode] at hw
theorem negotiateAlgorithms : Statement .negotiateAlgorithms := by
  intro _ w hw
  simp [encode] at hw
theorem getDigests : Statement .getDigests := by
  intro _ w hw
  simp [encode] at hw
theorem getCertificate : Statement .getCertificate := by
  intro _ w hw
  simp [encode] at hw
theorem challenge : Statement .challenge := by
  intro _ w hw
  simp [encode] at hw
theorem getMeasurements : Statement .getMeasurements := by
  intro _ w hw
  simp [encode] at hw
theorem i3cStartRecordRead : Statement .i3cStartRecordRead := by
  intro _ w hw
  simp [encode] at hw
theorem powerOn : Statement .powerOn := by
  intro _ w hw
  simp [encode] at hw
theorem powerCap : Statement .powerCap := by
  intro _ w hw
  simp [encode] at hw
theorem almanacWrite : Statement .almanacWrite := by
  intro _ w hw
  simp [encode] at hw
theorem powerDown : Statement .powerDown := by
  intro _ w hw
  simp [encode] at hw
theorem malformedCommand : Statement .malformedCommand := by
  intro _ w hw
  simp [encode] at hw

end Sys2Proof.Laws.Encoding
end

