-- ==== Sys2Proof/Tests/Slice0.lean ====
section
/-!
SUPPORT. Slice0.lean: tests. The slots and results expected come from the tables and examples of spec/; the theorems named `witness_…`
show states and operands that meet the hypotheses of the statements, clause by clause.
-/
namespace Sys2Proof.Tests
open Sys2Proof.Machine
set_option Elab.async false
set_option maxRecDepth 20000

/-! ### Small terms -/

/-- A header: role 0, no guard. -/
def h0 : Hdr := { neg := 0, guard := 7, role := 0 }
def a0 : FA := { imm := 0, rnd := 0, sat := 0, sub := 0, ty := 0, sc := 0, sb := 0, sa := 0, dst := 0 }
def l0 : FL := { imm := 0, rnd := 0, sat := 0, sub := 0, ty := 0, z51 := 0, ly := 0, lx := 0, sb := 0, sa := 0, dst := 0 }
def m0 : FM := { ofs := 0, sub := 0, cls := 0, cache := 0, scope := 0, order := 0, size := 0, space := 0, index := 0, base := 0, data := 0 }
def b0 : FB := { timeout := 0, reg := 0, cneg := 0, cond := 0, jofs := 0, jslot := 0, tofs := 0, tslot := 0 }
def x0 : FX := { ximm := 0, sub := 0, shape := 0, seten := 0, setslot := 0, wait := 0, rowidx := 0, acc := 0, ld := 0, lc := 0, lb := 0, la := 0 }
def c0 : FC := { imm := 0, zero := 0, cmod := 0, ctgt := 0, noreply := 0, reply := 0, fn := 0, srcb := 0, srca := 0 }
def g0 : FH := { himm := 0, zero := 0, sub := 0, drift := 0, qreg := 0, rdst := 0, sdata := 0, ren := 0, sen := 0, rring := 0, sring := 0 }
def s0 : FS := { imm := 0, zero := 0, sub := 0, csr := 0, src := 0, dst := 0 }

/-! ### Slots of the spec's encoding tables (the chapters named) decode to their instructions -/

/-- Chapter 5, slots 0 to 2. -/
theorem test_decode_ffma : decode 0x000000000010_38180A043853#96 = .ffma h0 { a0 with dst := 4, sa := 5, sb := 6, sc := 7, ty := 1 } := by decide
theorem test_decode_iadd : decode 0x0000000100C007FC12083820#96 = .iadd h0 { a0 with dst := 8, sa := 9, sb := 511, ty := 12, imm := 1 } := by decide
theorem test_decode_exit : decode 0x000000000000000000003807#96 = .iexit h0 b0 := by decide
/-- Chapter 6, the worked divergence. -/
theorem test_decode_bra : decode 0x000000000000220000103801#96 = .bra h0 { b0 with tofs := 2, jslot := 1, jofs := 2 } := by decide
/-- Chapter 8: `red` and the `.sat` form of `fcvt`. -/
theorem test_decode_red : decode 0x000000000020000005053872#96 = .red h0 { a0 with dst := 261, sa := 2, ty := 2 } := by decide
theorem test_decode_fcvt : decode 0x000000001240000004053867#96 = .fcvt h0 { a0 with dst := 5, sa := 2, ty := 4, sub := 2, sat := 1 } := by decide
/-- Chapter 9: the counting kernel. -/
theorem test_decode_atom : decode 0x000000000008900C02043880#96 =
    .atom h0 { m0 with data := 4, base := 1, index := 3, space := 2, size := 2, scope := 1 } := by decide
theorem test_decode_wcnt : decode 0x3F3F3F000000000000003885#96 = .wcnt h0 { m0 with ofs := 0x3F3F3F00 } := by decide
/-- Chapter 10: `lycol.wr` and `lyloc.adr`. -/
theorem test_decode_lycol : decode 0x00000002010100020A00389C#96 =
    .lycolWr h0 { l0 with sa := 261, ly := 2, sub := 1, imm := 2 } := by decide
theorem test_decode_lyloc : decode 0x0000000001001000000438A0#96 = .lyloc h0 { l0 with dst := 4, lx := 2, sub := 1 } := by decide
/-- Chapter 11: `mma`; chapter 16's `mmia.rowc` and `mmld.t`. -/
theorem test_decode_mma : decode 0x0000000001901FF8003238A8#96 =
    .mma h0 { x0 with la := 2, lb := 3, rowidx := 511, wait := 1, setslot := 1, seten := 1, shape := 1 } := by decide
theorem test_decode_mmia : decode 0x0000001030801FF8000238AF#96 =
    .mmia h0 { x0 with la := 2, rowidx := 511, wait := 1, seten := 1, sub := 3, ximm := 0x10 } := by decide
theorem test_decode_mmld : decode 0x0000001010801FF8000338AA#96 =
    .mmld h0 { x0 with la := 3, rowidx := 511, wait := 1, seten := 1, sub := 1, ximm := 0x10 } := by decide
/-- Chapter 12: a `hand` of role 2. -/
theorem test_decode_hand : decode 0x000000000120020C00803AB8#96 = .hand { h0 with role := 2 } { g0 with ren := 1, rdst := 262, sub := 9 } := by decide
/-- Chapter 13: `cpy.k`; chapter 16's `rly.upto` and `ldx`; chapters 18 and 21: `tres`, `mig`, `cpyx`. -/
theorem test_decode_cpy : decode 0x0000030000140000000038C8#96 = .cpy h0 { c0 with noreply := 1, cmod := 1, imm := 0x300 } := by decide
theorem test_decode_rly : decode 0x0000030200120C00000038C9#96 = .rly h0 { c0 with reply := 262, cmod := 1, imm := 0x302 } := by decide
theorem test_decode_ldx : decode 0x0000000000080028040B007A#96 =
    .ldx { h0 with guard := 0 } { m0 with data := 11, base := 2, index := 10, scope := 1 } := by decide
theorem test_decode_tres : decode 0x0000000000020C04010538CC#96 = .tres h0 { c0 with srca := 261, fn := 1, reply := 262 } := by decide
theorem test_decode_mig : decode 0x0000000100020E00010538CC#96 = .mig h0 { c0 with srca := 261, reply := 263, imm := 1 } := by decide
theorem test_decode_cpyx : decode 0x000000A000240004010839C8#96 =
    .cpyx { h0 with role := 1 } { c0 with srca := 264, fn := 1, noreply := 1, cmod := 2, imm := 0xA0 } := by decide
/-- Chapter 14: `csrr` and `csrw`. -/
theorem test_decode_csrr : decode 0x0000000000000000010538D0#96 = .csrr h0 { s0 with dst := 261 } := by decide
theorem test_decode_csrw : decode 0x00000000000000060C0038D1#96 = .csrw h0 { s0 with src := 262, csr := 1 } := by decide
/-- Chapters 17, 21 and 23: `bar.sync`, `scan`, `rcv.cnt`, `hqt`, `mma` of a role. -/
theorem test_decode_bar : decode 0x000000000008000000003887#96 = .bar h0 { m0 with scope := 1 } := by decide
theorem test_decode_scan : decode 0x0000000000D0000004033873#96 = .scan h0 { a0 with dst := 3, sa := 2, ty := 13 } := by decide
theorem test_decode_rcv : decode 0x000000000808C002A9163989#96 =
    .rcv { h0 with role := 1 } { m0 with data := 278, base := 340, size := 3, scope := 1, sub := 1 } := by decide
theorem test_decode_hqt : decode 0x000000000101080000003A6D#96 = .hqt { h0 with role := 2 } { l0 with lx := 1, ly := 2, sub := 1 } := by decide
theorem test_decode_mma_role : decode 0x000000000F901FF800433BA8#96 =
    .mma { h0 with role := 3 } { x0 with la := 3, lb := 4, rowidx := 511, wait := 1, setslot := 1, seten := 1, shape := 15 } := by decide
/-- Chapter 25: the exchange, the wait and the kick of the pod copy. -/
theorem test_decode_atom_exch : decode 0x0000000048348C1E0D083880#96 =
    .atom h0 { m0 with data := 264, base := 262, index := 263, space := 1, size := 2, order := 2, scope := 6, sub := 9 } := by decide
theorem test_decode_wtval : decode 0x0000EA6028328C1E0B083886#96 =
    .wtval h0 { m0 with data := 264, base := 261, index := 263, space := 1, size := 2, order := 1, scope := 6, sub := 5, ofs := 60000 } := by decide
theorem test_decode_wdog_kick : decode 0x00010000000000000000380F#96 = .wdogKick h0 { b0 with timeout := 1 } := by decide
/-- R108: the empty slot, the all-zero slot; R107: an unassigned opcode; R110: a function code that names no command. -/
theorem test_decode_empty : decode (BitVec.allOnes 96) = .emptySlot := by decide
theorem test_decode_zero : decode 0 = .trapIll { h0 with guard := 0 } b0 := by decide
theorem test_decode_unassigned : decode 0x10#96 = .unassignedOpcode 0x10 0 := by decide
theorem test_decode_cop : decode 0x00000000000000140000_38C8#96 = .cop 0 h0 { c0 with fn := 5 } := by decide

/-! ### Every check of `wellFormed` refuses a term -/

theorem test_ill_formed_slots :
    [.nop h0 { b0 with reg := 511 }, .fnHeader h0 b0, .wdogRd h0 { b0 with timeout := 1 }, .wdogRd h0 { b0 with timeout := 2 },
     .wdogKick h0 b0, .wdogLim h0 b0, .pand h0 { a0 with sub := 1 }, .pand h0 { a0 with sub := 2 }, .pand h0 { a0 with sub := 3 },
     .por h0 a0, .pxor h0 a0, .pnot h0 a0, .lycolRd h0 { l0 with sub := 1 }, .lycolWr h0 l0, .tlbiAll h0 { s0 with sub := 1 },
     .tlbiPage h0 s0, .unassignedOpcode 0x20 0, .unassignedOpcode 0xFF (BitVec.allOnes 88), .cop 0 h0 { c0 with fn := 2 }].all
      (fun i => wellFormed i == false) = true := by decide
theorem test_ill_formed_commands :
    [.cpy h0 { c0 with fn := 1 }, .cpyx h0 c0, .cpyr h0 c0, .rly h0 { c0 with fn := 1 }, .rlyw h0 c0, .rlyp h0 c0, .gath h0 { c0 with fn := 1 },
     .pgal h0 { c0 with fn := 1 }, .pgfr h0 c0, .pgsw h0 c0, .mig h0 { c0 with fn := 1 }, .tres h0 c0, .tnode h0 { c0 with fn := 1 },
     .tedge h0 c0, .tlaunch h0 c0, .tcancel h0 c0, .hnew h0 { c0 with fn := 1 }, .hdel h0 c0, .hchk h0 c0].all
      (fun i => wellFormed i == false) = true := by decide
theorem test_ill_formed_events :
    [.matrixWatchdog 1024, .workgroupPlace 4, .diefence 4 1, .diefence 0 0, .diefence 0 4, .dieLinkRateStep 14 0, .dieLinkRateStep 0 101,
     .dieLinkRetrain 14 true, .linkControl 96 0, .linkControl 0 4096, .ackTimeout 96, .linkRetrain 48 true, .linkRateStep 48 0,
     .linkRateStep 0 101, .lineRecall 0 3, .wavelengthLoss 2 0 0 true, .wavelengthRestore 2 0 0, .laserloss 2, .planedown 48 0 0, .planedown 0 3 0,
     .planedown 0 0 256, .lqtail 0 4 0, .thermalTrip 1024, .flitCrcFailure 96, .flitCrcFailure 156, .planeReadmission 256 0, .planeReadmission 0 48,
     .voltageDroop 1024 0, .voltageDroop 0 16, .powerGating 1024 true].all (fun i => wellFormed i == false) = true := by decide

/-! ### Small states -/

/-- A `nop` slot. -/
def nopW : Slot96 := asmB 0x0C h0 b0
/-- A line of slots, the rest empty, with the TGT bits and ROLES bits given (R87, R88). -/
def codeLine (tgt : Nat) (ws : List Slot96) (roles : Nat := 1) : List Byte :=
  let slots := (ws ++ List.replicate (5 - ws.length) (BitVec.allOnes 96)).take 5
  let low := 256 * roles + tgt
  let par := ((List.range 5).map (fun k => 2 ^ (16 + k) * b2n (parity 96 (slots.getD k 0).toNat))).sum
  slots.flatMap (fun w => leBytes 12 w.toNat) ++ leBytes 4 (low + par + 2 ^ 21 * b2n (parity 16 low))
/-- A running workgroup of one warp at slot 0 of line 0; line 1 may be a target in every slot. -/
def base : State :=
  let s := State.reset.placeLine nopW
  { s with mem := { s.mem with icache := smIns s.mem.icache (icKey 0 64) (codeLine 31 [nopW, nopW, nopW, nopW, nopW]) } }
/-- Some s registers set. -/
def State.withS (s : State) (xs : List (Nat × W64)) : State := xs.foldl (fun s x => s.modR (·.ws x.1 x.2)) s
/-- Some vector registers set, the same in every lane plus a step for each lane. -/
def State.withV (s : State) (xs : List (Nat × W32 × W32)) : State :=
  xs.foldl (fun s x => (List.range 32).foldl (fun s l => s.modR (·.wv x.1 l (x.2.1 + BitVec.ofNat 32 l * x.2.2))) s) s
/-- A predicate register set. -/
def State.withP (s : State) (n : Nat) (m : Mask) : State := s.modR (fun r => { r with p := smPut 0 r.p n m })
/-- The state an instruction goes on to. -/
def after (i : Instr) (s : State) : State := match exec i s with | .next t => t | _ => s

/-! ### Results of single instructions, from the spec's tables and examples -/

/-- R139: a sum wraps at the type's width; `.sat` clamps it. -/
theorem test_iadd_wraps : (after (.iadd h0 { a0 with dst := 4, sa := 5, sb := 511, imm := 1, ty := 12 })
    (State.withV base [(5, 0x7FFFFFFF, 0)])).m.r.rv 4 31 = 0x80000000 := by decide +kernel
theorem test_iadd_saturates : (after (.iadd h0 { a0 with dst := 4, sa := 5, sb := 511, imm := 1, ty := 12, sat := 1 })
    (State.withV base [(5, 0x7FFFFFFF, 0)])).m.r.rv 4 31 = 0x7FFFFFFF := by decide +kernel
/-- R140: division by zero gives the type's maximum and sets DIVZ; the most negative number over -1 sets IMIN. -/
theorem test_idiv_zero :
    let t := after (.idiv h0 { a0 with dst := 4, sa := 5, sb := 6, ty := 12 }) (State.withV base [(5, 7, 0)])
    t.m.r.rv 4 0 = 0x7FFFFFFF ∧ t.m.r.istat = 1 := by decide +kernel
theorem test_irem_min :
    let t := after (.irem h0 { a0 with dst := 4, sa := 5, sb := 6, ty := 12 }) (State.withV base [(5, 0x80000000, 0), (6, 0xFFFFFFFF, 0)])
    t.m.r.rv 4 0 = 0 ∧ t.m.r.istat = 2 := by decide +kernel
/-- R142: a shift by the width or more gives 0 for `shl`, the sign for `sar`. -/
theorem test_shl_wide : (after (.shl h0 { a0 with dst := 4, sa := 5, sb := 511, imm := 32 }) (State.withV base [(5, 1, 0)])).m.r.rv 4 0 = 0 := by
  decide +kernel
theorem test_sar_wide : (after (.sar h0 { a0 with dst := 4, sa := 5, sb := 511, imm := 40, ty := 12 })
    (State.withV base [(5, 0x80000000, 0)])).m.r.rv 4 0 = 0xFFFFFFFF := by decide +kernel
/-- R154, chapter 5's worked slot: 1 × 1 + 1 = 2 in FP32. -/
theorem test_ffma : (after (.ffma h0 { a0 with dst := 4, sa := 5, sb := 6, sc := 7, ty := 1 })
    (State.withV base [(5, 0x3F800000, 0), (6, 0x3F800000, 0), (7, 0x3F800000, 0)])).m.r.rv 4 3 = 0x40000000 := by decide +kernel
/-- R74's example: an FP16 sum of 2048, 1, 1, 0 gives 2048 by the tree's order. -/
theorem test_red_tree : (after (.red h0 { a0 with dst := 261, sa := 2, ty := 2 })
    (((State.withV base [(2, 0, 0)]).modR (·.wv 2 0 0x6800)).modR (·.wv 2 1 0x3C00) |>.modR (·.wv 2 2 0x3C00))).m.r.rs 5 = 0x6800 := by
  decide +kernel

/-! ### Witnesses: arithmetic -/

/-- Format A fields from TYPE, SUB and the four specifiers. -/
def fa (ty sub dst a b c : Nat) : FA :=
  { a0 with ty := BitVec.ofNat 4 ty, sub := BitVec.ofNat 4 sub, dst := BitVec.ofNat 9 dst, sa := BitVec.ofNat 9 a, sb := BitVec.ofNat 9 b
            sc := BitVec.ofNat 9 c }
/-- Each row's form issues in a state, and its sources can be read. -/
def rowsMet (s : State) (rs : List (ARow × FA)) : Bool := rs.all (fun (r, f) =>
  Issues s h0 (classOk s r.cls false 0) ((r.shape f).uses f) (r.field s f) && Readable s ((r.shape f).uses f) (s.execLanes h0 f.dst))
/-- Forms of one, two and three sources, in v registers. -/
def v1 (ty : Nat) : FA := fa ty 0 4 6 0 0
def v2 (ty : Nat) : FA := fa ty 0 4 6 8 0
def v3 (ty : Nat) : FA := fa ty 0 4 6 8 10
theorem witness_IntegerResults : rowsMet base ((arithRows ++ logicRows).zip
    (List.replicate 6 (v2 12) ++ List.replicate 3 (v3 12) ++ List.replicate 2 (v1 12) ++ List.replicate 4 (v2 0) ++ [v1 0] ++
     List.replicate 6 (v2 0) ++ [v3 0] ++ List.replicate 4 (v1 0) ++ [v3 0])) = true := by decide +kernel
theorem witness_MoveResults : rowsMet base ((moveRows ++ crossRows).zip
    [v2 12, v2 12, fa 0 0 4 6 8 347, fa 0 0 344 345 346 0, fa 0 1 344 345 346 0, fa 0 2 344 345 346 0, fa 0 3 344 345 0 0, v1 0, fa 8 8 4 6 0 0,
     v2 0, v2 0, fa 0 0 344 345 0 0, fa 0 0 4 345 0 0, v1 0, fa 0 0 4 6 511 0]) = true := by decide +kernel
theorem witness_FloatResults : rowsMet base ((floatRows ++ approxRows ++ convertRows).zip
    (List.replicate 3 (v2 1) ++ [v3 1] ++ List.replicate 4 (v2 1) ++ [v1 1, v1 1, v2 1, v1 1, v1 1, v2 1, v1 1, v2 1] ++ List.replicate 7 (v1 1) ++
     [fa 1 1 4 6 0 0, fa 8 1 4 6 0 0, fa 1 8 4 6 0 0, v2 0, v2 0, fa 1 2 4 6 8 10])) = true := by decide +kernel
/-- An s destination of a 64-bit type. -/
theorem witness_IntegerResults_scalar : rowsMet base ((arithRows.take 1).zip [fa 14 0 260 261 262 0]) = true := by decide +kernel
/-- A launch that traps on a zero divisor, and one that does not. -/
def trapping : State := { base with wg := { base.wg with launch := { base.wg.launch with itrap := 1 } } }
theorem witness_DivisionResults :
    let f := v2 12
    let s := base
    Issues s h0 (classOk s .int false 0) (divShape.uses f) (divShape.field f s.m.scalar) = true ∧
    Readable s (divShape.uses f) (s.execLanes h0 f.dst) = true ∧
    (s.execLanes h0 f.dst).all (fun l => (divLane s f false l).istat &&& trapCover s.wg.launch.itrap == 0) = true := by decide +kernel
theorem witness_DivisionResults_trap :
    let f := v2 12
    let s := trapping
    Issues s h0 (classOk s .int false 0) (divShape.uses f) (divShape.field f s.m.scalar) = true ∧
    Readable s (divShape.uses f) (s.execLanes h0 f.dst) = true ∧
    (s.execLanes h0 f.dst).filter (fun l => (divLane s f true l).istat &&& trapCover s.wg.launch.itrap != 0) ≠ [] := by decide +kernel
theorem witness_CarryAndSelectResults_iadc :
    let f := fa 13 0 4 6 8 345
    Issues base h0 (classOk base .int false 0) (iadcShape.uses f) (iadcShape.field f base.m.scalar) = true ∧
    Readable base (iadcShape.uses f) (base.execLanes h0 f.dst) = true := by decide +kernel
theorem witness_CarryAndSelectResults_lgc3 :
    let f := { v3 0 with imm := 0x96 }
    let sh : AShape := { types := tLog, b := .val, c := .val, immOwn := true }
    let uses := (sh.uses f).map (fun u => { u with ok511 := false })
    Issues base h0 (classOk base .int false 0) uses (sh.field f base.m.scalar) = true ∧ f.imm.toNat < 256 ∧
    Readable base uses (base.execLanes h0 f.dst) = true := by decide +kernel
theorem witness_CarryAndSelectResults_movi :
    [{ v1 0 with sa := 511, imm := 7 }, { v1 0 with sa := 511, imm := 7, sub := 1 }].all (fun f =>
      let hi : Bool := f.sub = 1
      let sh : AShape := { types := [0, 12, 15], subs := [0, 1], dk := .movi, a := .imm, dwide := hi || decide (256 ≤ f.dst.toNat) }
      Issues base h0 (classOk base .int false 0) (sh.uses f) (sh.field f base.m.scalar) && !(base.marked (sh.uses f) (base.execLanes h0 f.dst))) = true := by
  decide +kernel
/-- `movs` with a source lane, and with none (a guard that is false in the lowest lane). -/
theorem witness_CarryAndSelectResults_movs :
    let f := fa 0 0 260 6 511 0
    let sh : AShape := { types := tLog, dk := .scalar, a := .vec, b := .val, vecOk := true }
    [h0, { h0 with guard := 0 }].all (fun h => Issues base h (classOk base .int false 0) (sh.uses f) (sh.field f base.m.scalar)) = true ∧ 256 ≤ f.sb.toNat ∧
    base.iqEmpty (sh.uses f) = false ∧ base.guardLow { h0 with guard := 0 } = false ∧ base.guardLow h0 = true ∧
    movsLane (base.guarded h0) (base.rdA .val f f.sb (lowLane base.active)) = some 0 ∧ base.marked (sh.uses f) [0] = false := by decide +kernel
theorem witness_ReductionResults :
    [(fa 1 0 260 6 0 0, redShape (fa 1 0 260 6 0 0) .scalar), (fa 1 0 4 6 0 0, redShape (fa 1 0 4 6 0 0) .vector)].all (fun (f, sh) =>
      Issues base h0 (classOk base .flt false 0 && !base.m.scalar) (sh.uses f) (sh.field f base.m.scalar) && !(base.marked (sh.uses f) (base.guarded h0))) = true := by
  decide +kernel

/-! ### Witnesses: control -/

/-- A guard that holds in no lane: p0 is false. -/
def hF : Hdr := { h0 with guard := 0 }
theorem witness_PlainControlResults :
    IssuesB base h0 true [] (codesB b0 && zerosB b0 false false false false false) = true ∧
    (let f := { b0 with reg := 511, timeout := 1 }
     IssuesB base h0 true [] (codesB f && zerosB f false false false true true && decide (1 ≤ f.timeout.toNat) && decide (f.timeout.toNat ≤ 32)) = true) ∧
    IssuesB base h0 false [] (codesB b0 && zerosB b0 false false false false false) = true ∧
    (let f := { b0 with reg := 260 }
     IssuesB base h0 false [{ spec := f.reg, wr := true }] (codesB f && zerosB f false false false true true && f.timeout == 0 && isS f.reg) = true) ∧
    (let f := { b0 with timeout := 1 }
     IssuesB base h0 false [] (codesB f && zerosB f false false false false true && f.timeout == 1) = true) ∧
    (let f := { b0 with timeout := 2, reg := 260 }
     IssuesB base h0 false [{ spec := f.reg }] (codesB f && zerosB f false false false true true && f.timeout == 2 && isS f.reg) = true) := by
  decide +kernel
/-- A branch to slot 0 of line 1. -/
def bT : FB := { b0 with tofs := 1 }
/-- A branch below line 0. -/
def bOut : FB := { b0 with tofs := 0x3FFFFF }
/-- A branch to line 0, whose slots are no targets. -/
def bNo : FB := b0
theorem witness_UniformBranchResults_bru :
    [bT, bOut, bNo].all (fun f => IssuesB base h0 false [] (codesB f && zerosB f true true false false false)) = true ∧
    IssuesB base hF false [] (codesB bT && zerosB bT true true false false false) = true ∧
    (let go (h : Hdr) (f : FB) := base.guardIn h (lowLane base.active) && base.condIn f (lowLane base.active)
     go hF { bT with cond := 7 } = false ∧ go h0 { bT with cond := 7 } = true) ∧
    base.leaves bOut.tofs = true ∧ base.leaves bT.tofs = false ∧ base.mayReach (base.target bT.tofs bT.tslot) = true ∧
    base.leaves bNo.tofs = false ∧ base.mayReach (base.target bNo.tofs bNo.tslot) = false := by decide +kernel
/-- An s register with a code pointer to line 1, one to line 0, and one that is no code pointer (R86: bits above 59 are zero). -/
def regs : State := State.withS base [(4, 64), (5, 0), (6, BitVec.allOnes 64), (7, 1), (8, 2)]
theorem witness_UniformBranchResults_brx :
    let f := { b0 with reg := 260 }
    [h0, hF].all (fun h => IssuesB regs h false [{ spec := f.reg }] (codesB f && zerosB f false false false true false && isS f.reg)) = true ∧
    regs.guardLow hF = false ∧ regs.guardLow h0 = true ∧ pcOf (regs.rf.rs 6) = none ∧
    (pcOf (regs.rf.rs 4)).any (fun p => regs.mayReach p) = true ∧ (pcOf (regs.rf.rs 5)).any (fun p => !(regs.mayReach p)) = true := by decide +kernel
theorem witness_UniformBranchResults_loop :
    [263, 264].all (fun r => let f := { bT with reg := r }
      [h0, hF].all (fun h => IssuesB regs h false [{ spec := f.reg, wr := true }, { spec := f.reg }]
        (codesB f && zerosB f false true false true false && isS f.reg))) = true ∧
    regs.rf.rs 7 = 1 ∧ regs.rf.rs 8 ≠ 1 ∧ regs.leaves bT.tofs = false ∧ regs.mayReach (regs.target bT.tofs bT.tslot) = true := by decide +kernel
/-- Lanes 0 and 1 have p0 set. -/
def split : State := State.withP base 0 3
/-- The other slot is live, with two lanes of the warp, and p0 is set in one lane of the executing path. -/
def twoPaths : State := split.modM (fun m => { m with a := some { pc := {}, mask := 5 }, b := some { pc := {}, mask := 2 } })
/-- A join point in line 1. -/
def bJ : FB := { bT with cond := 7, jofs := 1, jslot := 2 }
theorem witness_DivergentBranchResults :
    [bJ, { bJ with tofs := 0x3FFFFF }, { bJ with jofs := 0x3FFFFF }].all (fun f => [h0, hF].all (fun h =>
      [base, split, twoPaths].all (fun s => IssuesB s h false [] (codesB f && zerosB f true true true false false)))) = true ∧
    base.taken hF bJ = 0 ∧ base.taken h0 bJ ≠ 0 ∧ base.active &&& ~~~base.taken h0 bJ = 0 ∧
    split.taken hF bJ ≠ 0 ∧ split.active &&& ~~~split.taken hF bJ ≠ 0 ∧ split.leaves 0x3FFFFF = true ∧
    split.leaves bJ.tofs = false ∧ split.mayReach (split.target bJ.tofs bJ.tslot) = true ∧
    split.leaves bJ.jofs = false ∧ split.mayReach (split.target bJ.jofs bJ.jslot) = true ∧
    split.m.other = none ∧ 1 ≤ freeCount split.m.pool split.depth ∧ freeEntry split.m.pool split.depth = some 0 ∧
    twoPaths.taken hF bJ ≠ 0 ∧ twoPaths.active &&& ~~~twoPaths.taken hF bJ ≠ 0 ∧ twoPaths.m.other.isSome = true ∧
    twoPaths.mayReach (twoPaths.target bJ.tofs bJ.tslot) = true ∧ twoPaths.mayReach (twoPaths.target bJ.jofs bJ.jslot) = true ∧
    2 ≤ freeCount twoPaths.m.pool twoPaths.depth ∧ freeEntry twoPaths.m.pool twoPaths.depth = some 0 := by decide +kernel
/-- A team kernel whose member of role 1 stands at the last slot of line 1, in a block of lines 0 and 1; line 2 has role 0. Line 1 begins with a
function header of role 1. -/
def blocks : State :=
  let h1 := { h0 with role := 1 }
  let line1 := codeLine 31 [asmB 0x0C h1 { b0 with reg := 511, timeout := 16 }, nopW, nopW, nopW, nopW] 2
  let ic := smIns (smIns (smIns base.mem.icache 0 (codeLine 31 [nopW] 2)) 1 line1) 2 (codeLine 31 [nopW])
  { base with
    wg := { base.wg with team := some { roles := [(1, 0)] } }
    m := { base.m with role := 1, a := some { pc := { line := 1, slot := 4 }, mask := BitVec.allOnes 32 } }
    mem := { base.mem with icache := ic } }
theorem witness_DivergentBranchResults_block :
    let h := { h0 with role := 1 }
    [{ bJ with cond := 7, tofs := 0, jofs := 1 }, { bJ with cond := 7, tofs := 0, jofs := 0 }].all (fun f =>
      IssuesB blocks h false [] (codesB f && zerosB f true true true false false) && decide (blocks.taken h f ≠ 0) && !(blocks.leaves f.tofs) &&
      blocks.mayReach (blocks.target f.tofs f.tslot) && decide (blocks.active &&& ~~~blocks.taken h f = 0) &&
      blocks.blockOk (blocks.target f.jofs f.jslot) == decide (f.jofs = 0)) = true ∧ base.blockOk (base.target bJ.jofs bJ.jslot) = true := by decide +kernel
/-- A launch without parenthesis-stack entries. -/
def shallow : State := { split with wg := { split.wg with launch := { split.wg.launch with stack := 0 } } }
theorem witness_DivergentBranchResults_full :
    IssuesB shallow hF false [] (codesB bJ && zerosB bJ true true true false false) = true ∧ shallow.taken hF bJ ≠ 0 ∧
    shallow.active &&& ~~~shallow.taken hF bJ ≠ 0 ∧ shallow.leaves bJ.tofs = false ∧ shallow.leaves bJ.jofs = false ∧
    shallow.mayReach (shallow.target bJ.tofs bJ.tslot) = true ∧ shallow.mayReach (shallow.target bJ.jofs bJ.jslot) = true ∧
    freeCount shallow.m.pool shallow.depth < 1 + b2n shallow.m.other.isSome := by decide +kernel
/-- Line 1 holds a function header at slot 0 and `nop` elsewhere. -/
def fnLine : State :=
  let line := codeLine 31 [asmB 0x0C h0 { b0 with reg := 511, timeout := 16 }, nopW, nopW, nopW, nopW]
  let ic := smIns regs.mem.icache (icKey 0 64) line
  { regs with mem := { regs.mem with icache := ic } }
/-- The same for a launch without stack entries. -/
def fnShallow : State := { fnLine with wg := { fnLine.wg with launch := { fnLine.wg.launch with stack := 0 } } }
theorem witness_CallResults_call :
    [bT, bOut].all (fun f => [h0, hF].all (fun h => [fnLine, fnShallow].all (fun s =>
      IssuesB s h false [] (codesB f && zerosB f false true false false false)))) = true ∧
    fnLine.guardLow hF = false ∧ fnLine.guardLow h0 = true ∧ fnLine.leaves bOut.tofs = true ∧ fnLine.leaves bT.tofs = false ∧
    (callFault fnLine h0 (fnLine.target bT.tofs bT.tslot)).isNone = true ∧ fnLine.callFits 1 = true ∧ freeEntry fnLine.m.pool fnLine.depth = some 0 ∧
    (callFault fnShallow h0 (fnShallow.target bT.tofs bT.tslot)).isNone = true ∧ fnShallow.callFits 1 = false ∧
    [fnLine, fnShallow].all (fun s => s.blockOk s.m.path.pc.next) = true := by decide +kernel
/-- A call whose return line lies outside the role block. -/
theorem witness_CallResults_block :
    let h := { h0 with role := 1 }
    IssuesB blocks h false [] (codesB b0 && zerosB b0 false true false false false) = true ∧ blocks.guardLow h = true ∧ blocks.leaves b0.tofs = false ∧
    (callFault blocks h (blocks.target b0.tofs b0.tslot)).isNone = true ∧ blocks.blockOk blocks.m.path.pc.next = false := by decide +kernel
theorem witness_CallResults_calli :
    let f := { b0 with reg := 260 }
    let g := { b0 with reg := 262 }
    let uses (f : FB) : List SpecUse := [{ spec := f.reg, pair := isV f.reg }]
    [f, g].all (fun f => [h0, hF].all (fun h => [fnLine, fnShallow].all (fun s => Issues s h (classOk s .ctl false h.role.toNat) (uses f)
      (needs (codesB f && zerosB f false false false true false && (isS f.reg || isV f.reg))) && !(s.marked (uses f) (lanesOf s.active))))) = true ∧
    (fnLine.callTargets g).any (fun w => w.2.isNone) = true ∧ (fnLine.callTargets f).any (fun w => w.2.isNone) = false ∧
    (let gs := groupLanes ((fnLine.callTargets f).filterMap (fun w => w.2.map (fun p => (w.1, p))))
     gs ≠ [] ∧ gs.all (fun g => (callFault fnLine h0 g.1).isNone) = true ∧ fnLine.blockOk fnLine.m.path.pc.next = true ∧ fnLine.callFits gs.length = true ∧ fnShallow.callFits gs.length = false) := by
  decide +kernel
/-- A member whose path heads for a record of the pool, the other slot live under the same record or free. -/
def atRec (e : Entry) (other : Option Path) : State :=
  base.modM (fun m => { m with a := some { pc := {}, mask := 1, jrec := some 0 }, b := other, pool := [(0, e)] })
/-- A return record to slot 1 of line 1, and a join record of the slot itself. -/
def retRec : Entry := .record true none .idle 6 { line := 1, slot := 1 }
def joinRec (pm : Mask) : Entry := .record false none .idle pm {}
def partner : Option Path := some { pc := {}, mask := 8, jrec := some 0 }
theorem witness_ReturnAndJoinResults_ret :
    [base, atRec retRec none, atRec retRec partner].all (fun s => [h0, hF].all (fun h =>
      IssuesB s h false [] (codesB b0 && zerosB b0 false false false false false))) = true ∧
    base.guardLow hF = false ∧ base.guardLow h0 = true ∧ base.m.path.jrec = none ∧
    (let s := atRec retRec partner
     s.guardLow h0 = true ∧ s.m.path.jrec = some 0 ∧ smFind s.m.pool 0 = some retRec ∧ keysRise none s.m.pool = true ∧
     (s.m.parkedIn 0 true none .idle 6 { line := 1, slot := 1 }).anyBelongs 0 = true) ∧
    (let s := atRec retRec none
     s.guardLow h0 = true ∧ s.m.path.jrec = some 0 ∧ smFind s.m.pool 0 = some retRec ∧
     (s.m.parkedIn 0 true none .idle 6 { line := 1, slot := 1 }).anyBelongs 0 = false ∧ (6 : Mask) ||| s.m.path.mask ≠ 0 ∧
     s.mayReach { line := 1, slot := 1 } = true) := by decide +kernel
/-- A `join` with a timeout of 100 to line 1. -/
def bTmo : FB := { bT with timeout := 100 }
theorem witness_ReturnAndJoinResults_join :
    [b0, bTmo].all (fun f => [h0, hF].all (fun h => [base, atRec (joinRec 0) none, atRec (joinRec 0) partner, atRec (joinRec 6) none, atRec retRec none,
      atRec (.record false none .idle 0 { line := 1 }) none].all (fun s =>
      IssuesB s h false [] (codesB f && zerosB f false (f.timeout != 0) false false true)))) = true ∧
    base.guardLow hF = false ∧ base.m.path.jrec = none ∧ ({ line := 1 } : Pc) ≠ base.m.path.pc ∧
    (let s := atRec (joinRec 0) partner
     s.guardLow h0 = true ∧ s.m.scalar = false ∧ s.m.path.jrec = some 0 ∧ smFind s.m.pool 0 = some (.record false none .idle 0 s.m.path.pc) ∧
     s.leaves bTmo.tofs = false ∧ s.mayReach (s.target bTmo.tofs bTmo.tslot) = true ∧
     (s.m.parkedIn 0 false none .idle 0 s.m.path.pc).anyBelongs 0 = true ∧
     (s.m.parkedIn 0 false none (.run 100) 0 s.m.path.pc).anyBelongs 0 = true ∧ keysRise none s.m.pool = true) ∧
    (let s := atRec (joinRec 6) none
     s.guardLow h0 = true ∧ s.m.path.jrec = some 0 ∧ smFind s.m.pool 0 = some (.record false none .idle 6 s.m.path.pc) ∧
     (s.m.parkedIn 0 false none .idle 6 s.m.path.pc).anyBelongs 0 = false ∧ (6 : Mask) ||| s.m.path.mask ≠ 0 ∧
     s.blockOk s.m.path.pc.next = true) := by decide +kernel
/-- A warp with one path at the slot and the other lanes parked at the same `fuse`. -/
def fusing : State := base.modM (fun m => { m with a := some { pc := {}, mask := 1 }, parked := [⟨.fuse, { pc := {}, mask := 0xFFFFFFFE }⟩] })
theorem witness_FuseExitResults :
    [base, fusing, split].all (fun s => [h0, hF].all (fun h => IssuesB s h false [] (codesB b0 && zerosB b0 false false false false false) &&
      IssuesB s h true [] (codesB b0 && zerosB b0 false false false false false))) = true ∧
    base.guardLow hF = false ∧ base.guardLow h0 = true ∧
    (fusing.m.parked.all (fun q => q.kind = .fuse ∧ q.path.pc = fusing.m.path.pc)) = true ∧
    (fusing.m.parked.foldl (fun x q => x ||| q.path.mask) 0) ||| fusing.m.path.mask = fusing.m.allLanes &&& ~~~fusing.m.exited ∧
    (let s := fusing.modM (fun m => { m with parked := [] })
     s.guardLow h0 = true ∧ s.m.parked = [] ∧ (s.m.parked.foldl (fun x q => x ||| q.path.mask) 0) ||| s.m.path.mask ≠ s.m.allLanes &&& ~~~s.m.exited ∧
     IssuesB s h0 false [] (codesB b0 && zerosB b0 false false false false false) = true) ∧
    maskOf (base.guarded hF) = 0 ∧ maskOf (split.guarded hF) ≠ 0 ∧ maskOf (base.guarded h0) = base.active ∧ base.active ≠ 0 ∧
    base.m.exited ||| base.active = base.m.allLanes ∧ base.m.parked = [] ∧ base.wg.members.all Member.gone = true ∧ base.wg.stop = .running := by
  decide +kernel
/-- The context with debugging enabled. -/
def debugging : State := { base with ctxs := smPut {} base.ctxs 1 { (smGet {} base.ctxs 1) with dbg := true } }
theorem witness_TrapResults :
    [base, debugging].all (fun s => [h0, hF].all (fun h => IssuesB s h false [] (codesB bTmo && zerosB { b0 with timeout := 9 } false false false false true))) = true ∧
    maskOf (base.guarded hF) = 0 ∧ maskOf (base.guarded h0) ≠ 0 ∧ base.ctx.dbg = false ∧ debugging.ctx.dbg = true ∧
    debugging.holdFull (dieOf debugging.wg.core) = false := by decide +kernel

/-! ### Witnesses: memory -/

/-- A load into v4 of four bytes at s4, in global space. -/
def ldF : FM := { m0 with data := 4, base := 260, index := 511, space := 1, size := 2, scope := 1 }
/-- The same at s6, which is no address. -/
def ldBad : FM := { ldF with base := 262 }
/-- A load once, of eight bytes into s9. -/
def ldsF : FM := { ldF with data := 265, size := 3 }
theorem witness_LoadIssue_ld :
    [(ldF, false), (ldBad, false), (ldsF, true), ({ ldsF with base := 262 }, true)].all (fun (f, once) => [h0, hF].all (fun h =>
      IssuesM regs h false (ldUses f true) (accessRegs f once && loadFields regs f) (some f.cls.toNat) (regs.memLanes h once))) = true ∧
    regs.memLanes hF false = [] ∧ regs.memLanes hF true = [] ∧ regs.memLanes h0 false ≠ [] ∧ regs.memLanes h0 true ≠ [] ∧
    failures (regs.checked 1 4 1 false (regs.laneAddrs ldBad true (regs.memLanes h0 false))) ≠ [] ∧
    regs.accessOk 1 4 1 false (regs.laneAddrs ldF true (regs.memLanes h0 false)) = true ∧
    failures (regs.checked 1 8 1 false (regs.laneAddrs { ldsF with base := 262 } true (regs.memLanes h0 true))) ≠ [] ∧
    regs.accessOk 1 8 1 false (regs.laneAddrs ldsF true (regs.memLanes h0 true)) = true := by decide +kernel
/-- A launch with eight bytes of constant segment. -/
def consts : State := { regs with wg := { regs.wg with launch := { regs.wg.launch with args := [1, 2, 3, 4, 5, 6, 7, 8] } } }
theorem witness_LoadIssue_ldk :
    [({ m0 with data := 265, base := 511, size := 3 } : FM), { m0 with data := 265, base := 511, size := 3, ofs := 1 }].all (fun f => [h0, hF].all (fun h =>
      IssuesM consts h false [{ spec := f.data, pair := f.wide, wr := true }, { spec := f.base, ok511 := true }]
        (zerosM f true true true false true true false false false true true && extOk f && decide (f.size.toNat ≤ 3) && cacheOk f && clsLdSt f &&
        (isV f.data || (isS f.data && !(isV f.base && !consts.m.scalar))) && (isS f.base || isV f.base || f.base.toNat == 511)) (some f.cls.toNat)
        (consts.memLanes h (isS f.data)))) = true ∧
    consts.memLanes hF true = [] ∧ consts.memLanes h0 true ≠ [] ∧ 8 ≤ consts.wg.launch.args.length ∧ consts.wg.launch.args.length < 9 := by
  decide +kernel
theorem witness_LoadIssue_pref :
    let f := { ldF with data := 0, size := 0, scope := 0 }
    Issues regs h0 (classOk regs .mem false h0.role.toNat) (addrUses f) (needs (zerosM f false false true true true false true false false true false &&
     baseOk f && vOrNone f.index && spaceOk f && cacheOk f)) = true ∧
    (let vas := regs.prefVas f (regs.memLanes h0 (!(isV f.base || isV f.index)))
     vas ≠ [] ∧ (regs.touchAll (pagesOf vas)).1 = regs) := by decide +kernel
/-- An image from words 0 and 1, extents, split entries and columns (R40, R41, R43). -/
def mkImg (w0 w1 : Nat) (exts entries cols : List Nat) : Nat :=
  w0 + w1 * 2 ^ 64 + (exts.zipIdx.map (fun x => x.1 * 2 ^ (256 + 32 * x.2))).sum + (entries.zipIdx.map (fun x => x.1 * 2 ^ (512 + 10 * x.2))).sum +
  (cols.zipIdx.map (fun x => x.1 * 2 ^ (640 + 36 * x.2))).sum
/-- Chapter 16's record `t35`: FP16, 3 by 5, two to a word, in v8. -/
def t35 : Nat := mkImg 0x5202 8 [3, 5] [0x010, 0x042] [1, 2, 4, 8, 16]
/-- FP32 elements of a 32-element array at address 64; and at shared address 0. -/
def memT : Nat := mkImg 0x85101 64 [32] [0x059] [1, 2, 4, 8, 16]
def spT : Nat := mkImg 0x45101 0 [32] [0x054] [1, 2, 4, 8, 16]
/-- Layout registers 2 to 4 hold them; v10 holds each lane's number. -/
def lays : State := ((((State.withV regs [(10, 0, 1)]).setLreg 2 t35).setLreg 3 memT).setLreg 4 spT)
/-- An answer that is there. -/
def okIs {α β : Type} (x : Except α β) (p : β → Bool) : Bool := match x with | .ok v => p v | .error _ => false
/-- Element access: v4, a layout register, index v10. -/
def ldxF (base : Spec) : FM := { m0 with data := 4, base := base, index := 10, scope := 1 }
/-- What `ldx` and `stx` ask of a tensor, an index pair and the lanes' elements. -/
def elemsMet (s : State) (h : Hdr) (f : FM) (right need : Nat) (p : Tensor → List Nat → List (Except LaneFault (Nat × Option (List Part))) → Bool) : Bool :=
  let ls := s.memLanes h (isS f.data)
  okIs (s.tensorOf f.base right) (fun t =>
    let pair : SpecUse := { spec := f.index, pair := decide (32 < lyN t.1.2) }
    let rs := ls.map (fun l => s.laneElem t.1 (f.sub == 1) need l (s.idxOf f.index t.1.2 l))
    ls != [] && (specFault s pair).isNone && !(s.hazard [pair]) && !(s.marked [pair] ls) && (failures rs).isEmpty &&
    s.pagesReady (t.2 ++ (passes rs).flatMap (fun r => (r.2.getD []).filterMap (·.2.2))) && p t.1 t.2 rs)
/-- The answers of lanes whose elements stand in register words that are marked as poison; and a state with such a word. -/
def ldxBad (s : State) (rs : List (Except LaneFault (Nat × Option (List Part)))) : List (Nat × Option (List Part)) :=
  (passes rs).filter (fun r => (r.2.getD []).any (fun p => (match p.2.1.place with | .reg _ _ => true | _ => false) && s.locPoison p.2.1))
def spoiled : State := lays.modR (fun r => { r with vmark := [32 * 8] })
theorem witness_LoadIssue_ldx :
    [ldxF 2, ldxF 3].all (fun f =>
      [h0, hF].all (fun h => IssuesM lays h false (elemUses f true) (elemOk lays f [0, 1]) (some f.cls.toNat) (lays.memLanes h (isS f.data))) &&
      elemsMet lays h0 f 16 1 (fun _ _ rs => !(((passes rs).flatMap (fun r => (r.2.getD []).filterMap (fun p =>
        if p.2.1.place = .reg lays.wg.wu lays.m.id then some (p.2.1.bit / 1024) else none))).any (fun r => lays.busyWrites.contains r)) &&
        ldxBad lays rs == [])) = true ∧
    lays.memLanes hF false = [] ∧
    (IssuesM spoiled h0 false (elemUses (ldxF 2) true) (elemOk spoiled (ldxF 2) [0, 1]) (some 0) (spoiled.memLanes h0 (isS (ldxF 2).data)) &&
      elemsMet spoiled h0 (ldxF 2) 16 1 (fun _ _ rs => ldxBad spoiled rs != [])) = true := by decide +kernel
theorem witness_StoreIssue_st :
    [(ldF, false), (ldBad, false), (ldsF, true), ({ ldsF with base := 262 }, true)].all (fun (f, once) => [h0, hF].all (fun h =>
      IssuesM regs h false (ldUses f false) (accessRegs f once && storeFields regs f) (some f.cls.toNat) (regs.memLanes h once))) = true ∧
    regs.memLanes hF false = [] ∧ regs.memLanes hF true = [] ∧ regs.memLanes h0 false ≠ [] ∧ regs.memLanes h0 true ≠ [] ∧
    failures (regs.checked 1 4 2 false (regs.laneAddrs ldBad true (regs.memLanes h0 false))) ≠ [] ∧
    regs.accessOk 1 4 2 false (regs.laneAddrs ldF true (regs.memLanes h0 false)) = true ∧
    failures (regs.checked 1 8 2 false (regs.laneAddrs { ldsF with base := 262 } true (regs.memLanes h0 true))) ≠ [] ∧
    regs.accessOk 1 8 2 false (regs.laneAddrs ldsF true (regs.memLanes h0 true)) = true := by decide +kernel
theorem witness_StoreIssue_stx :
    let f := ldxF 3
    [h0, hF].all (fun h => IssuesM lays h false (elemUses f false) (elemOk lays f [0, 2]) (some f.cls.toNat) (lays.memLanes h (isS f.data))) = true ∧
    lays.memLanes hF false = [] ∧
    elemsMet lays h0 f 17 2 (fun x hv rs =>
      let acc := (passes rs).filterMap (fun r => r.2.map (fun ps => (r.1, ps)))
      acc.all (fun r => r.2.all (fun p => decide (p.2.1.place = .glob) || (match p.2.1.place with | .sp _ => true | _ => false))) &&
      acc.all (fun r => r.2.all (fun p => p.2.1.bits % 8 == 0)) &&
      ((lays.reached (hv ++ (passes rs).flatMap (fun r => (r.2.getD []).filterMap (·.2.2)))).rlyOn x.1).isNone) = true := by decide +kernel
/-- One lane: a guard of p0 with p0 set in lane 2 only. -/
def laneTwo : State := State.withP lays 0 4
theorem witness_StoreIssue_stx_reg :
    let f := ldxF 2
    IssuesM laneTwo hF false (elemUses f false) (elemOk laneTwo f [0, 2]) (some f.cls.toNat) (laneTwo.memLanes hF (isS f.data)) = true ∧
    elemsMet laneTwo hF f 17 2 (fun x hv rs =>
      (match passes rs with
       | [(2, some [p])] => decide (p.2.1.place = .reg 1 0) && decide (p.2.1.bit % 32 + p.2.1.bits ≤ 32) && p.1 == 0 &&
          !(laneTwo.busyWrites.contains (p.2.1.bit / 1024)) && !(laneTwo.busyReads.contains (p.2.1.bit / 1024))
       | _ => false) && (laneTwo.findMem ⟨1, 0⟩).isSome &&
      ((laneTwo.reached (hv ++ (passes rs).flatMap (fun r => (r.2.getD []).filterMap (·.2.2)))).rlyOn x.1).isNone) = true := by decide +kernel

/-! ### Witnesses: how accesses are performed -/

/-- The member in focus. -/
def r0 : MRef := ⟨1, 0⟩
/-- A `ld` of four bytes in every lane is outstanding, its reads not performed. -/
def loading : State := after (.ld h0 ldF) regs
/-- A shared load, behind an acquire load that has not refreshed. -/
def spLoading : State := after (.lds h0 { ldsF with space := 2, base := 261 }) regs
def acqLoading : State := after (.lds h0 { ldsF with data := 267 }) (after (.lds h0 { ldsF with order := 1 }) regs)
/-- What a `load` operation of a number holds. -/
def loadIs (s : State) (op : Nat) (p : OutOp → List Piece → Bool) : Bool :=
  (s.outOf op).any (fun o => match o.kind with | .load ps _ _ => p o ps | _ => false)
theorem witness_ReadPerform :
    (loading.findMem r0).isSome = true ∧ loading.mem.writes = [] ∧ spLoading.mem.writes = [] ∧
    loadIs (loading.focusOn r0) 0 (fun o ps => !o.acq && (ps[0]?).any (fun p =>
      p.val.isNone && (loading.focusOn r0).mayRead 0 p.loc && decide (p.loc = ⟨.glob, 8 * 64, 8 * 4⟩))) = true ∧
    loadIs (spLoading.focusOn r0) 0 (fun o ps => !o.acq && (ps[0]?).any (fun p =>
      p.val.isNone && (spLoading.focusOn r0).mayRead 0 p.loc && decide (p.loc = ⟨.sp 0, 0, 64⟩))) = true ∧
    loadIs (acqLoading.focusOn r0) 1 (fun _ ps => (ps[0]?).any (fun p => !((acqLoading.focusOn r0).mayRead 1 p.loc))) = true ∧
    loadIs ((after (.readPerform r0 0 0) loading).focusOn r0) 0 (fun _ ps => (ps[0]?).any (fun p => p.val.isSome)) = true := by decide +kernel
/-- A scalar load whose read has been performed, eight bytes into s9 from the quad's view. -/
def loaded : State :=
  let s := after (.lds h0 ldsF) regs
  after (.readPerform r0 0 0) { s with mem := { s.mem with qv := [(0, (List.range 8).map (fun i => (64 + i, BitVec.ofNat 8 (i + 1))))] } }
/-- R182, R184: LOAD_RETURN writes the destination and ends the operation. -/
theorem test_loadReturn : let t := after (.loadReturn r0) loaded; t.m.r.rs 9 = 0x0807060504030201 ∧ t.m.outs = [] := by decide +kernel
/-- A store of eight bytes of s9 whose write has reached PM, which is its home; and the store just issued. -/
def stsF : FM := { ldsF with cls := 1 }
def storing : State := after (.sts h0 stsF) (State.withS regs [(9, 0x1122334455667788)])
def stored : State := after (.writePush 1) (after (.writeDrain 1) storing)
theorem witness_OperationsRetire :
    (loaded.findMem r0).isSome = true ∧
    loadIs (loaded.focusOn r0) 0 (fun o _ => o.readsDone) = true ∧ loadIs (loading.focusOn r0) 0 (fun o _ => !o.readsDone) = true ∧
    ((loaded.focusOn r0).m.outs.find? (fun x => x.cls = 0)).any (fun o => match o.kind with
      | .load ps d fill => fill == [] && d.size == 8 && lanesOf d.mask == [0] && d.spec == 265 && ps.any (fun p => p.lane == 0) | _ => false) = true ∧
    ((loading.focusOn r0).m.outs.find? (fun x => x.cls = 0)).any (fun o => match o.kind with
      | .load ps d fill => fill == [] && d.size == 4 && d.spec == 4 && ps.any (fun p => p.lane == 31) | _ => false) = true ∧
    [storing, stored].all (fun s => ((s.focusOn r0).m.outs.find? (fun x => x.cls = 1)).any (fun o => o.kind == .store)) = true ∧
    ((storing.focusOn r0).m.outs.find? (fun x => x.cls = 1)).any (fun o => !((storing.focusOn r0).mayRetire o)) = true ∧
    ((stored.focusOn r0).m.outs.find? (fun x => x.cls = 1)).any (fun o => (stored.focusOn r0).mayRetire o) = true := by decide +kernel
/-- The write of a number satisfies a test. -/
def writeIs (s : State) (id : Nat) (p : PWrite → Bool) : Bool := (s.findWrite id).any (fun w => w.id == id && p w)
/-- A shared store; a release behind a plain store; a second write of the same bytes; a write homed in another package. -/
def spStoring : State := after (.sts h0 { stsF with space := 2, base := 261 }) regs
def relStoring : State := after (.sts h0 { stsF with order := 2 }) regs
def twice : State := after (.sts h0 stsF) storing
def abroad (st : WStage) : State := { storing with mem := { storing.mem with writes := storing.mem.writes.map (fun w => { w with addr := 2 ^ 49 + 64, stage := st }) } }
def atStage (st : WStage) : State := { twice with mem := { twice.mem with writes := twice.mem.writes.map (fun w => { w with stage := st }) } }
/-- The same store, to the host window. -/
def hostStoring : State := { storing with mem := { storing.mem with writes := storing.mem.writes.map (fun w => { w with addr := 2 ^ 48 + 64 }) } }
theorem witness_WritesMove_drain :
    writeIs storing 1 (fun w => decide (w.stage = .ob) && storing.mayDrain w && decide (w.place = .glob) && w.half.isNone && !(storing.fencedByte w.addr) &&
      !(inHostWindow (offOf w.addr))) = true ∧
    writeIs hostStoring 1 (fun w => decide (w.stage = .ob) && hostStoring.mayDrain w && decide (w.place = .glob) && w.half.isNone &&
      !(hostStoring.fencedByte w.addr) && inHostWindow (offOf w.addr)) = true ∧
    writeIs spStoring 1 (fun w => decide (w.stage = .ob) && spStoring.mayDrain w && decide (w.place = .sp 0) && w.half.isNone) = true ∧
    writeIs relStoring 1 (fun w => decide (w.stage = .held) && relStoring.mayEnter w) = true ∧
    writeIs twice 3 (fun w => decide (w.stage = .ob) && !(twice.mayDrain w)) = true := by decide +kernel
theorem witness_WritesMove_push :
    writeIs (atStage .qv) 1 (fun w => decide (w.place = .glob) && (atStage .qv).mayPush w && !((atStage .qv).fencedByte w.addr) &&
      (atStage .qv).homed w.addr && !((atStage .qv).remoteHeld w.addr)) = true ∧
    writeIs (abroad .qv) 1 (fun w => (abroad .qv).mayPush w && !((abroad .qv).fencedByte w.addr) && !((abroad .qv).homed w.addr)) = true ∧
    writeIs (atStage .qv) 3 (fun w => !((atStage .qv).mayPush w)) = true ∧
    writeIs (abroad .pm) 1 (fun w => (abroad .pm).maySend w) = true ∧
    writeIs (atStage .gi) 1 (fun w => decide (w.place = .glob) && (atStage .gi).mayGrant w && (atStage .gi).ownsLine (w.addr / 128) &&
      !((atStage .gi).strays (w.addr / 128))) = true ∧
    writeIs (atStage .gi) 3 (fun w => !((atStage .gi).mayGrant w)) = true ∧
    base.homed (128 * 2 ^ 42) = false ∧ smGet 0 base.fab.peer (2 ^ 42) = 0 ∧ base.asked (2 ^ 42) = false ∧ base.strays (2 ^ 42) = false := by decide +kernel
/-- R176: an atomic addition of s8 to the four bytes at s4, its old value into s9; and in shared memory; and one that is misaligned. -/
def atomF : FM := { m0 with data := 265, base := 260, index := 264, space := 1, size := 2, scope := 1 }
def atomSp : FM := { atomF with space := 2, base := 261 }
def atomBad : FM := { atomF with base := 263 }
def aredF : FM := { atomF with index := 511 }
def adding : State := after (.atom h0 atomSp) regs
/-- The same with the place poisoned. -/
def addingBad : State := { adding with mem := { adding.mem with spPsn := [(0, 0)] } }
theorem test_atomic : let t := after (.atomicPerform r0 0 0) adding
    memNat (smGet [] t.mem.sp 0) 0 4 = 2 := by decide +kernel
theorem witness_AtomicResults_issue :
    [atomF, atomSp, atomBad].all (fun f => [h0, hF].all (fun h =>
      IssuesM regs h false (atomUses f) (atomFields regs f) (some f.cls.toNat) (regs.memLanes h (isS f.data)))) = true ∧
    regs.memLanes hF true = [] ∧ regs.memLanes h0 true ≠ [] ∧
    failures (regs.checked 1 4 3 true (regs.laneAddrs atomBad false (regs.memLanes h0 true))) ≠ [] ∧
    regs.accessOk 1 4 3 true (regs.laneAddrs atomF false (regs.memLanes h0 true)) = true ∧
    [h0, hF].all (fun h => IssuesM regs h false ({ spec := aredF.data, pair := aredF.wide } :: addrUses aredF) (aredFields regs aredF) (some aredF.cls.toNat)
      (regs.memLanes h (!(isV aredF.data || isV aredF.base || isV aredF.index)))) = true ∧
    regs.accessOk 1 4 3 true (regs.laneAddrs aredF true (regs.memLanes h0 true)) = true := by decide +kernel
theorem witness_AtomicResults_perform :
    [adding, addingBad].all (fun s => (s.findMem r0).isSome && ((s.focusOn r0).outOf 0).any (fun o => !o.rel && !o.acq && (match o.kind with
      | .atom _ _ [l] _ => l.old.isNone && decide (l.loc.place = .sp 0) && (s.focusOn r0).mayRead 0 l.loc &&
          ((s.focusOn r0).locPoison l.loc == decide (s.mem.spPsn ≠ []))
      | _ => false)) && (s.focusOn r0).mem.writes == []) = true := by decide +kernel
/-- Fences: acquire, release, both; with an older write of the member on its way (`storing`). -/
def fenceF (order : BitVec 2) : FM := { m0 with order := order, scope := 5 }
theorem witness_FenceWaitResults_fence :
    [1, 2, 3].all (fun o => [h0, hF].all (fun h => [regs, storing].all (fun s =>
      IssuesM s h true [] (zerosM (fenceF o) false false false false false false false true true false false && (fenceF o).scope != 0 && s.scopeOk (fenceF o).scope.toNat)
        none (s.memLanes h true)))) = true ∧
    regs.memLanes hF true = [] ∧ regs.memLanes h0 true ≠ [] ∧ storing.memLanes h0 true ≠ [] ∧
    storing.releaseReady storing.ref storing.m storing.uid (storing.scope 5) = false ∧
    regs.releaseReady regs.ref regs.m regs.uid (regs.scope 5) = true ∧ 2 < regs.scope 5 ∧ regs.scope 5 ≠ 6 := by decide +kernel
/-- `wcnt` of every counter at 0, with nothing outstanding, with a store outstanding, with a report waiting. -/
def reported : State := regs.modM (fun m => { m with reports := [QFULL] })
/-- The die holds as many records as it can (R340). -/
def heldUp : State := { reported with host := { reported.host with held := List.replicate 256 ⟨0, none, []⟩ } }
theorem witness_FenceWaitResults_wcnt :
    [regs, storing, reported].all (fun s => [h0, hF].all (fun h => IssuesM s h true [] (zerosM m0 false false false false true false false false false false false &&
      (List.range 4).all (fun k => bitsN m0.ofs.toNat (8 * k + 6) 2 == 0)) none (s.memLanes h true))) = true ∧
    wcntBound m0 1 < storing.m.count 1 ∧ [regs, reported].all (fun s => (List.range 4).all (fun k => decide (s.m.count k ≤ wcntBound m0 k))) = true ∧
    regs.m.reports = [] ∧ reported.m.reports = [QFULL] ∧ reported.holdFull (dieOf reported.wg.core) = false ∧
    heldUp.m.reports = [QFULL] ∧ heldUp.holdFull (dieOf heldUp.wg.core) = true ∧ (List.range 4).all (fun k => decide (heldUp.m.count k ≤ wcntBound m0 k)) = true ∧
    IssuesM heldUp h0 true [] (zerosM m0 false false false false true false false false false false false &&
      (List.range 4).all (fun k => bitsN m0.ofs.toNat (8 * k + 6) 2 == 0)) none (heldUp.memLanes h0 true) = true := by decide +kernel
def flushF : FM := { m0 with base := 260, index := 511, space := 1, scope := 5, cls := 1 }
theorem witness_FenceWaitResults_flush :
    [h0, hF].all (fun h => IssuesM regs h false (addrUses flushF) (flushFields regs flushF) (some flushF.cls.toNat)
      (regs.memLanes h (!(isV flushF.base || isV flushF.index)))) = true ∧
    regs.accessOk 1 1 1 false (regs.laneAddrs flushF true (regs.memLanes h0 true)) = true := by decide +kernel
/-- `wtval.eq` and `wtval.ne` of the four bytes at s4 against s5, which is 0. -/
def wtF (sub : BitVec 5) : FM := { m0 with data := 265, base := 260, index := 261, space := 1, size := 2, scope := 1, sub := sub, ofs := 50 }
theorem witness_WaitValueResults :
    [0, 1].all (fun c => [h0, hF].all (fun h =>
      IssuesM regs h false [{ spec := (wtF c).data, wr := true }, { spec := (wtF c).base }, { spec := (wtF c).index }] (wtvalFields regs (wtF c)) none (regs.memLanes h true))) = true ∧
    (let las := [(lowLane regs.active, regs.addrOf { wtF 0 with ofs := 0 } false (lowLane regs.active))]
     regs.accessOk 1 4 1 true las = true ∧
     (match regs.acc 1 4 1 true las with
      | [(_, p :: _)] =>
        let u := regs.accState 1 4 1 true las
        let v := u.readLoc u.ref u.uid (quadOf u.wg.core) none p.2.1
        u.mayRead u.uid p.2.1 && wtCmp 0 4 v (u.rf.rs 5).toNat && !(wtCmp 1 4 v (u.rf.rs 5).toNat)
      | _ => false) = true) ∧
    (let s := loading
     let las := [(lowLane s.active, s.addrOf { wtF 0 with ofs := 0 } false (lowLane s.active))]
     IssuesM s h0 false [{ spec := (wtF 0).data, wr := true }, { spec := (wtF 0).base }, { spec := (wtF 0).index }] (wtvalFields s (wtF 0)) none (s.memLanes h0 true) &&
     s.memLanes h0 true != [] && s.accessOk 1 4 1 true las && (match s.acc 1 4 1 true las with
      | [(_, p :: _)] => !((s.accState 1 4 1 true las).mayRead (s.accState 1 4 1 true las).uid p.2.1)
      | _ => false)) = true := by decide +kernel

/-! ### Witnesses: barriers, messages, timers, fetch, storage -/

/-- `bar.sync`, `bar.arrive` and `bar.wait` on barrier 2 of the workgroup. -/
def barF (sub : BitVec 5) : FM := { m0 with ofs := 2, scope := 1, sub := sub }
/-- The member has arrived in phase 0; and that phase is over. -/
def arrived : State := base.modM (fun m => { m with bars := [⟨1, 2, 0⟩] })
def phaseOver : State := { arrived with wg := { arrived.wg with bars := smPut {} arrived.wg.bars (barIdx 1 2) { phase := 1 } } }
/-- Half of the lanes execute, the others are at a `fuse`. -/
def halfThere : State := base.modM (fun m => { m with a := some { pc := {}, mask := 0xFFFF }, parked := [⟨.fuse, { pc := {}, mask := 0xFFFF0000 }⟩] })
theorem witness_BarrierResults :
    [0, 1, 2].all (fun c => [h0, hF].all (fun h => [base, arrived, phaseOver, halfThere, storing].all (fun s =>
      IssuesM s h true [] (barOk s (barF c)) none (s.memLanes h true)))) = true ∧
    base.memLanes hF true = [] ∧ [base, arrived, phaseOver, halfThere, storing].all (fun s => s.memLanes h0 true != []) = true ∧
    (arrived.m.bars.find? (fun p => p.scope = 1 && p.num = barNum (barF 0))).isSome = true ∧
    [base, halfThere, storing].all (fun s => (s.m.bars.find? (fun p => p.scope = 1 && p.num = barNum (barF 0))).isNone) = true ∧
    halfThere.m.whole = false ∧ base.m.whole = true ∧ storing.m.whole = true ∧
    storing.releaseReady storing.ref storing.m storing.uid (storing.scope 1) = false ∧ base.releaseReady base.ref base.m base.uid (base.scope 1) = true ∧
    base.m.parked = [] ∧ base.wg.members = [] ∧ (halfThere.parkBar 1 2 0).m.barWait = none := by decide +kernel
theorem witness_BarrierResults_alone :
    base.m.gone = false ∧ base.releaseReady base.ref base.m base.uid 1 = true ∧ (base.wg.bar (barIdx 1 2)).arrived = [] ∧
    (base.wg.bar (barIdx 1 2)).broken.contains (base.wg.bar (barIdx 1 2)).phase = false ∧
    phaseOver.m.bars.find? (fun p => p.scope = 1 && p.num = barNum (barF 2)) = some ⟨1, 2, 0⟩ ∧ phaseOver.m.parked = [] ∧ phaseOver.m.whole = true ∧
    phaseOver.wg.members = [] ∧ 0 < (phaseOver.wg.bar (barIdx 1 2)).phase ∧ (phaseOver.wg.bar (barIdx 1 2)).broken.contains 0 = false := by decide +kernel
/-- R186: the only member of a workgroup passes `bar.sync` at once, and the phase is over; `bar.wait` of a phase over goes on. -/
theorem test_bar_sync : let t := after (.bar h0 (barF 0)) base
    t.m.a = some { base.m.path with pc := base.m.path.pc.next } ∧ t.m.parked = [] ∧ t.m.wdCount = 0 ∧ (t.wg.bar (barIdx 1 2)).phase = 1 := by decide +kernel
theorem test_bar_wait : let t := after (.bar h0 (barF 2)) phaseOver
    t.m.a = some { base.m.path with pc := base.m.path.pc.next } ∧ t.m.bars = [] := by decide +kernel
/-- `snd` of sq1 to queue 2 of rank 0, and to rank 4, which is beyond 3; `rcv` and `rcv.cnt` of queue 2 into s9. -/
def sndF : FM := { m0 with data := 337, base := 511, ofs := 2, size := 3, scope := 2, cls := 1 }
def rcvF (sub : BitVec 5) : FM := { m0 with data := 265, base := 342, size := 3, scope := 2, sub := sub }
/-- A message waits in queue 2; 32 of them do. -/
def withMsgs (n : Nat) : State := { base with wg := { base.wg with iq := smPut [] base.wg.iq 2 (List.replicate n { val := 77 }) } }
theorem witness_MessageResults_snd :
    [sndF, { sndF with ofs := 16 }].all (fun f => [h0, hF].all (fun h =>
      IssuesM base h false [{ spec := f.data }, { spec := f.base, ok511 := true }] (sndFields base f) (some 1) (base.memLanes h true))) = true ∧
    base.memLanes hF true = [] ∧ base.memLanes h0 true ≠ [] ∧ (base.rankWg 0).isSome = true := by decide +kernel
theorem witness_MessageResults_rcv :
    [0, 1].all (fun c => [h0, hF].all (fun h => [base, withMsgs 1].all (fun s =>
      IssuesM s h false [{ spec := (rcvF c).data, pair := isV (rcvF c).data, wr := true }, { spec := (rcvF c).base }] (rcvFields s (rcvF c)) (some 0)
        (s.memLanes h (isS (rcvF c).data))))) = true ∧
    base.iqHead 2 = none ∧ (withMsgs 1).iqHead 2 = some { val := 77 } := by decide +kernel
/-- A message has been sent, to an empty queue and to a full one; a second one behind it. -/
def sent (s : State) : State := after (.snd h0 sndF) s
theorem witness_MessageResults_append :
    [sent base, sent (withMsgs 32)].all (fun s => (s.mem.msgs.find? (fun x => x.id = 0)).any (fun q =>
      q.id == 0 && s.mayAppend q && q.toWu == s.wg.wu && decide (q.owner = s.ref) && q.queue == 2)) = true ∧
    ((sent (sent base)).mem.msgs.find? (fun x => x.id = 1)).any (fun q => q.id == 1 && !((sent (sent base)).mayAppend q)) = true := by decide +kernel
/-- R191: a message is appended; to a full queue it is refused, and its `snd` reports QFULL. -/
theorem test_messageAppend : let t := after (.messageAppend 0) (sent base)
    (smGet [] t.wg.iq 2).length = 1 ∧ t.m.outs.map (·.report) = [none] := by decide +kernel
theorem test_messageRefused : let t := after (.messageAppend 0) (sent (withMsgs 32))
    (smGet [] t.wg.iq 2).length = 32 ∧ t.m.outs.map (·.report) = [some QFULL] := by decide +kernel
/-- A join record whose timer has run out, or has not; both slots live. -/
def timed (n : Nat) (two : Bool) : State :=
  base.modM (fun m => { m with pool := [(0, .record false none (.run n) 6 {})], b := if two then some { mask := 8 } else none })
/-- The member's count has reached its budget; and its workgroup traps nothing. -/
def overdue : State := base.modM (fun m => { m with wdCount := 1048576 })
theorem witness_TimerResults :
    [timed 0 false, timed 0 true, timed 3 false, overdue, base].all (fun s => (s.findMem r0).isSome) = true ∧
    smFind ((timed 0 false).focusOn r0).m.pool 0 = some (.record false none (.run 0) 6 {}) ∧ ((timed 0 false).focusOn r0).m.b = none ∧
    smFind ((timed 0 true).focusOn r0).m.pool 0 = some (.record false none (.run 0) 6 {}) ∧ ((timed 0 true).focusOn r0).m.a.isSome = true ∧
    ((timed 0 true).focusOn r0).m.b.isSome = true ∧
    smFind ((timed 3 false).focusOn r0).m.pool 0 = some (.record false none (.run 3) 6 {}) ∧
    (base.focusOn r0).m.wdDue = false ∧ (overdue.focusOn r0).m.wdDue = true ∧ (overdue.focusOn r0).wg.stop = .running ∧
    (overdue.focusOn r0).holdFull (dieOf (overdue.focusOn r0).wg.core) = false ∧
    (base.focusOn r0).m.wt.find? (fun w => w.left = some 0) = none := by decide +kernel
/-- A `wtval` that has no cycle left. -/
def polling : State :=
  (State.withS (State.reset.placeLine (asmM 0x86 h0 (wtF 0))) [(4, 64), (5, 1)]).modM (fun m => { m with wt := [⟨false, some 0, 0⟩] })
theorem witness_TimerResults_wtval :
    (polling.findMem r0).isSome = true ∧
    (let u := polling.focusOn r0
     let v := u.modM (fun m => { m with curB := false })
     let las := [(lowLane v.active, v.addrOf { wtF 0 with ofs := 0 } false (lowLane v.active))]
     u.m.wt.find? (fun w => w.left = some 0) = some ⟨false, some 0, 0⟩ ∧ (v.slotAt v.m.path.pc).map decode = some (.wtval h0 (wtF 0)) ∧
     v.accessOk 1 4 1 true las = true ∧ (match v.acc 1 4 1 true las with
      | [(_, p :: _)] => (v.accState 1 4 1 true las).mayRead (v.accState 1 4 1 true las).uid p.2.1
      | _ => false) = true) := by decide +kernel
/-- The held line with one bit wrong; and memory's copy of it wrong as well. -/
def lineBad : State := { base with mem := { base.mem with icache := smIns base.mem.icache 0 (1 :: (codeLine 0 [nopW]).drop 1) } }
def lineWorse : State := { lineBad with mem := { lineBad.mem with qv := [(0, [(0, 1)])] } }
theorem witness_FetchEvents :
    [base, lineBad, lineWorse].all (fun s => (s.findMem r0).isSome &&
      (let u := (s.focusOn r0).toSlot false
       u.m.a.isSome && u.wg.stop == .running && okIs (u.xlate (u.m.path.pc.line.toNat * 64) 4) (fun pa => pa == 0) &&
       (smFind u.mem.icache (icKey u.wg.core 0)).isSome && !(u.holdFull (dieOf u.wg.core)))) = true ∧
    (smFind base.mem.icache 0).any (fun bs => lineParityOk bs) = true ∧ (smFind lineBad.mem.icache 0).any (fun bs => !(lineParityOk bs)) = true ∧
    lineParityOk (lineBad.viewLine 0 0) = true ∧ lineParityOk (lineWorse.viewLine 0 0) = false := by decide +kernel
/-- Three tables and a 512 MiB leaf of frame 0, for context 1; no TLB entry. -/
def paged : State :=
  { base with
    ctxs := smPut {} base.ctxs 1 { (smGet {} base.ctxs 1) with root := 0x10000 }
    mem := { base.mem with tlb := [], pm := [(0x10000, 1), (0x10002, 2), (0x20000, 1), (0x20002, 3), (0x30000, 0x3B)] } }
/-- The same with a leaf of a page to be moved on touch; and without tables. -/
def pagedMot : State :=
  { paged with
    ctxs := smPut {} paged.ctxs 1 { (smGet {} paged.ctxs 1) with feats := 4 }
    host := { paged.host with portcap := smPut 0 paged.host.portcap 0 (2 ^ 40) }
    mem := { paged.mem with pm := [(0x10000, 1), (0x10002, 2), (0x20000, 1), (0x20002, 3), (0x30000, 0x1B), (0x30001, 4), (0x30005, 0x10)] } }
def unpaged : State := { paged with mem := { paged.mem with pm := [] } }
/-- A page move under way. -/
def moving : State := { base with mem := { base.mem with moves := [⟨9, 1, 0, 0x30000, 0x100000, 0x110000, true, false, none, false⟩] } }
theorem witness_StorageEvents :
    [paged, pagedMot, unpaged].all (fun s => (s.microFind s.wg.core 1 0).isNone && (s.quadFind (quadOf s.wg.core) 1 0).isNone) = true ∧
    okIs (paged.walk 1 0) (fun w => !(bitN w.1 10)) = true ∧ okIs (pagedMot.walk 1 0) (fun w => bitN w.1 10) = true ∧
    okIs (unpaged.walk 1 0) (fun _ => true) = false ∧ base.microFind base.wg.core 1 0 = none ∧ (base.quadFind (quadOf base.wg.core) 1 0).isSome = true ∧
    moving.mem.moves.find? (fun x => x.id = 9) = some ⟨9, 1, 0, 0x30000, 0x100000, 0x110000, true, false, none, false⟩ := by decide +kernel
theorem witness_StorageEvents_move : moving.moveApart ⟨9, 1, 0, 0x30000, 0x100000, 0x110000, true, false, none, false⟩ ∧ moving.mem.pm.wf = true := by
  have k : ∀ b ∈ List.range 8, ∀ x ∈ [0x30000, 0], moving.homed (x + b) = true ∧ moving.remoteHeld (x + b) = false ∧ (x + b) / 65536 ≠ 16 ∧
      (x + b) / 65536 ≠ 17 := by decide +kernel
  have q : (smGet {} moving.ctxs 1).relq + 8 * ((smGet {} moving.ctxs 1).rftail.toNat % Config.relqEntries) = 0 := by
    have z : (smGet {} moving.ctxs 1).relq = 0 ∧ (smGet {} moving.ctxs 1).rftail.toNat = 0 := by decide +kernel
    rw [z.1, z.2, Nat.zero_mod]
  refine ⟨?_, by decide +kernel⟩
  unfold State.moveApart
  simp only [q]
  refine ⟨by omega, by decide, by decide, fun a h => ?_⟩
  have e : ∃ b, b < 8 ∧ (a = 0x30000 + b ∨ a = 0 + b) := by
    rcases h with h | h
    · exact ⟨a - 0x30000, by omega, by omega⟩
    · exact ⟨a, by omega, by omega⟩
  obtain ⟨b, hb, rfl | rfl⟩ := e
  · exact k b (List.mem_range.mpr hb) _ (by simp)
  · exact k b (List.mem_range.mpr hb) _ (by simp)

/-! ### Witnesses: layouts and tensors -/

/-- What an answer holds. -/
def okGet {α β : Type} (d : β) (x : Except α β) : β := match x with | .ok v => v | .error _ => d
/-- A launch whose constant segment holds `t35` and 32 bytes of a codebook; the same bytes at address 0 of the quad's view. -/
def recs : List Byte := leBytes 256 t35 ++ leBytes 32 (0x3F80 + 0x4000 * 2 ^ 16)
def recorded : State :=
  { lays with wg := { lays.wg with launch := { lays.wg.launch with args := recs } }
              mem := { lays.mem with qv := [(0, (List.range recs.length).map (fun i => (i, recs.getD i 0)) |>.filter (fun c => c.2 != 0))] } }
/-- A codebook layout that is in flight keeps its codebook register busy. -/
def cbBusy : State := recorded.setLreg 5 (mkImg (0x2106 + 2 ^ 38) 8 [4] [0x020] [1, 2])
/-- Format L fields with DST, SA and SUB. -/
def fl (dst sa sub : Nat) : FL := { l0 with dst := BitVec.ofNat 9 dst, sa := BitVec.ofNat 9 sa, sub := BitVec.ofNat 4 sub }
/-- What a synchronous read asks. -/
def syncMet (s : State) (k : Bool) (sp a n align : Nat) (bs : List Byte) : Bool :=
  a % align == 0 && (if k then decide (s.constBytes a n = some bs)
    else !(s.m.acqPending s.uid) && s.m.probe.isNone && okIs (s.peek sp a n) (fun p => !p.psn && p.locs.all (s.mayRead s.uid) &&
      decide (p.with (if s.m.earlyB == s.m.curB then s.m.early else []) = bs) && s.pagesReady p.vas))
theorem syncOk_of {s : State} {k : Bool} {sp a n align : Nat} {bs : List Byte} (h : syncMet s k sp a n align bs = true) : s.syncOk k sp a n align bs := by
  unfold syncMet at h
  unfold State.syncOk
  simp only [Bool.and_eq_true, beq_iff_eq] at h
  refine ⟨h.1, ?_⟩
  cases k
  · simp only [Bool.false_eq_true, if_false, Bool.and_eq_true, Bool.not_eq_true', Option.isNone_iff_eq_none] at h ⊢
    obtain ⟨_, ⟨h1, h3⟩, h2⟩ := h
    refine ⟨h1, h3, ?_⟩
    simp only [beq_iff_eq]
    cases hp : s.peek sp a n with
    | error e => rw [hp] at h2; exact absurd h2 (by simp [okIs])
    | ok p =>
      rw [hp] at h2
      simp only [okIs, Bool.and_eq_true, Bool.not_eq_true', decide_eq_true_eq] at h2
      exact ⟨p, rfl, h2.1.1.1, h2.1.1.2, h2.1.2, h2.2⟩
  · simpa using h.2
theorem witness_LayoutRecordResults_lyld :
    [fl 0 511 4, fl 265 511 12, fl 344 511 12, fl 0 261 1].all (fun f =>
      let k := bitN f.sub.toNat 2
      IssuesL recorded h0 (testUse f ++ [{ spec := f.sa, ok511 := true }]) (zerosL f && f.lx == 0 && dstOk f && lyBaseOk f k && (!k || f.sub.toNat % 4 == 0)) &&
      syncMet recorded k (f.sub.toNat % 4) (recorded.lyAddr f) 256 8 (leBytes 256 t35)) = true ∧
    (recorded.syncState true 0 0 256).placeCode 0 (leNat (leBytes 256 t35)) = 0 := by decide +kernel
theorem witness_LayoutRecordResults_lychk :
    [fl 265 511 4, fl 344 261 1].all (fun f =>
      let form := f.sub.toNat / 4
      IssuesL recorded h0 [{ spec := f.dst, wr := true }, { spec := f.sa, ok511 := true }] (zerosL f && testDst f.dst && decide (form ≤ 2) && (form == 0 || f.sub.toNat % 4 == 0) &&
        (if form = 2 then f.sa == 0 && f.imm == 0 else f.lx == 0 && f.ly == 0 && lyBaseOk f (form == 1))) && decide (form < 2) &&
      syncMet recorded (form == 1) (f.sub.toNat % 4) (recorded.lyAddr f) 256 8 (leBytes 256 t35)) = true := by decide +kernel
theorem witness_LayoutRecordResults_cbld :
    let f := { fl 0 511 4 with imm := 256 }
    [recorded, cbBusy].all (fun s =>
      IssuesL s h0 [{ spec := f.sa, ok511 := true }] (zerosL f && f.lx == 0 && f.dst == 0 && lyBaseOk f true && decide (f.sub.toNat < 8) && (!true || f.sub.toNat % 4 == 0)) &&
      syncMet s true 0 (s.lyAddr f) 32 8 (recs.drop 256)) = true ∧
    (recorded.syncState true 0 256 32).busyCb 0 = false ∧ (cbBusy.syncState true 0 256 32).busyCb 0 = true := by decide +kernel
/-- `lyset` of word 3 and of SCALEFMT, of a value that fits; `lycol.wr` of column 1. -/
theorem witness_LayoutWriteResults_lyset :
    [({ fl 0 263 0 with ly := 3, imm := 0x12 } : FL), { fl 265 263 8 with ly := 3, imm := 0x12 }].all (fun f =>
      lyImmField f.imm == some (192, 64, true) &&
      IssuesL lays h0 (testUse f ++ [{ spec := f.sa }]) (zerosL f && f.lx == 0 && dstOk f && valueSrc f.sa && f.sub.toNat % 8 == 0 && ((lyImmField f.imm).map (·.2.2)).getD false)) = true ∧
    lays.changeCode 3 64 1 (putBits (lays.lreg 3) 192 64 1) = 0 ∧
    (let f := { fl 0 264 1 with ly := 3, imm := 1 }
     IssuesL lays h0 (testUse f ++ [{ spec := f.sa }]) (zerosL f && f.lx == 0 && dstOk f && valueSrc f.sa && f.sub.toNat % 8 == 1 && decide (f.imm.toNat < 36)) = true ∧
     lays.changeCode 3 36 2 (putBits (lays.lreg 3) (640 + 36 * 1) 36 2) = 0) := by decide +kernel
theorem witness_LayoutWriteResults_copy :
    (let f := { l0 with lx := 3, ly := 5 }
     IssuesL lays h0 (testUse f) (zerosL f && f.sa == 0 && dstOk f && f.sub.toNat % 8 == 0 && f.imm == 0) = true ∧
     lyN (lays.lreg 3) ≠ 0 ∧ lays.busyL 5 = false ∧ lyPstate (lays.lreg 3) = 0) ∧
    [({ fl 265 0 0 with lx := 3, imm := 0x02 } : FL), { fl 4 0 0 with lx := 3, imm := 0x02 }].all (fun f => (lyImmField f.imm).isSome &&
      IssuesL lays h0 [{ spec := f.dst, wr := true }] (zerosL f && f.sub == 0 && f.sa == 0 && f.ly == 0 && (isS f.dst || isV f.dst) && (lyImmField f.imm).isSome)) = true ∧
    (let f := { fl 265 0 0 with lx := 3, imm := 35 }
     IssuesL lays h0 [{ spec := f.dst, wr := true }] (zerosL f && f.sub == 0 && f.sa == 0 && f.ly == 0 && (isS f.dst || isV f.dst) && decide (f.imm.toNat < 36)) = true) ∧
    [fl 265 0 8, fl 344 0 8].all (fun f =>
      IssuesL lays h0 [{ spec := f.dst, wr := true }] (zerosL f && testDst f.dst && decide (f.sub.toNat / 4 ≤ 2) && (f.sub.toNat / 4 == 0 || f.sub.toNat % 4 == 0) &&
        (if f.sub.toNat / 4 = 2 then f.sa == 0 && f.imm == 0 else f.lx == 0 && f.ly == 0 && lyBaseOk f (f.sub.toNat / 4 == 1)))) = true := by decide +kernel
theorem witness_LayoutWriteResults_lyst :
    let f := { fl 0 260 1 with lx := 3 }
    IssuesL lays h0 [{ spec := f.sa }] (zerosL f && f.ly == 0 && f.dst == 0 && isS f.sa && decide (f.sub.toNat < 4)) = true ∧ lays.lyAddr f % 8 = 0 ∧
    okIs (lays.parts 1 (lays.lyAddr f) 256 2) (fun ps => !(ps.any (fun p => lays.lyHit none p.2.1 p.2.2)) && lays.pagesReady (ps.filterMap (·.2.2))) = true := by decide +kernel
/-- Handle slot 1, generation 3, in a table of two at address 0x400: layout `t35` of format FP16, all rights. s10 holds the handle. -/
def hentry : List Byte := leBytes 256 t35 ++ leBytes 32 0 ++ leBytes 8 (0xF1003) ++ leBytes 216 0
def handled : State :=
  let s := State.withS lays [(10, 0x1003), (11, 0x2003)]
  { s with
    ctxs := smPut {} s.ctxs 1 { (smGet {} s.ctxs 1) with htbase := 0x400, htsize := 2 }
    mem := { s.mem with qv := [(0, (List.range 512).map (fun i => (0x600 + i, hentry.getD i 0)) |>.filter (fun c => c.2 != 0))] } }
theorem witness_LayoutWriteResults_lyh :
    [fl 0 266 0, fl 0 267 0].all (fun f => IssuesL handled h0 (testUse f ++ [{ spec := f.sa }]) (zerosL f && f.lx == 0 && dstOk f && isS f.sa && f.sub.toNat % 8 == 0 &&
      decide (f.imm.toNat < 32))) = true ∧
    okIs (handled.handle 0x1003 [16]) (fun p => !(handled.m.acqPending handled.uid) && handled.pagesReady p.vas && lyPstate (entryImg p.bytes) == 0 &&
      !((handled.reached p.vas).busyL 0) && lyFmt (entryImg p.bytes) != 6 && lyDefect (entryImg p.bytes) true == 0) = true ∧
    okIs (handled.handle 0x2003 [16]) (fun _ => true) = false := by decide +kernel
theorem witness_LayoutMapResults :
    [({ fl 4 10 0 with lx := 3 } : FL), { fl 4 10 1 with lx := 3 }, { fl 265 511 0 with lx := 2, imm := 5 }, { fl 4 10 0 with lx := 9 }].all (fun f =>
      [true, false].all (fun inv => (inv && f.sub == 1) || [h0, hF].all (fun h =>
      let big := decide (32 < lyN (lays.lreg f.lx.toNat))
      let uses : List SpecUse := [{ spec := f.dst, pair := isV f.dst && (big || (!inv && f.sub == 1)), wr := true }, { spec := f.sa, pair := isV f.sa && big, ok511 := true }]
      let ls := if isS f.dst then (if lays.guardLow h then [lowLane lays.active] else []) else lays.guarded h
      Issues lays h (classOk lays .lay false h.role.toNat) uses (needs ((if inv then f.sub == 0 else decide (f.sub.toNat ≤ 1)) && zerosL f && f.ly == 0 &&
        (isS f.dst || isV f.dst) && (valueSrc f.sa || f.sa.toNat == 511 || (isV f.sa && isV f.dst)) && (f.sa.toNat == 511 || f.imm == 0))) &&
      Readable lays uses ls && (ls == []) == (h == hF)))) = true ∧
    lyN (lays.lreg 9) = 0 ∧ lyN (lays.lreg 3) ≠ 0 ∧ lySpace (lays.lreg 3) ≠ 0 ∧ (lays.rlyOn (.reg lays.wg.wu 3)).isSome = false ∧ lyPstate (lays.lreg 3) = 0 := by
  decide +kernel
/-- R206, chapter 16: element (1, 2) of `t35` has the location 9. -/
theorem test_lyloc : (after (.lyloc h0 { fl 265 511 0 with lx := 2, imm := 9 }) lays).m.r.rs 9 = 9 := by decide +kernel

/-- Register layouts of one dimension: FP32 by 16, FP32 by 4, FP8 (E4M3) by 4, 4-bit by 4; and for `rope` FP32 4 by 2, and 2 by 2 by 1. -/
def tens : State :=
  (((((((lays.setLreg 0 (mkImg 0x4101 12 [16] [0x042] [1, 2, 4, 8])).setLreg 1 (mkImg 0x4101 13 [16] [0x042] [1, 2, 4, 8])).setLreg 5
    (mkImg 0x2101 14 [4] [0x022] [1, 2])).setLreg 6 (mkImg 0x2104 15 [4] [0x020] [1, 2])).setLreg 7 (mkImg 0x2106 16 [4] [0x020] [1, 2])).setLreg 8
    (mkImg 0x3201 17 [4, 2] [0x032] [1, 2, 4])).setLreg 9 (mkImg 0x3201 18 [4, 2] [0x032] [1, 2, 4])).setLreg 10 (mkImg 0x2301 19 [2, 2, 1] [0x022] [1, 2])
def tensorForms : List (TRow × FL) := tensorRows.zip
  [{ l0 with lx := 0, ly := 1 }, { l0 with lx := 5, ly := 6 }, { l0 with lx := 5, ly := 7 }, { l0 with lx := 7, ly := 5 },
   { l0 with lx := 8, ly := 9, imm := 10 + 2 ^ 7 }]
/-- What `TensorReady` asks, by evaluation. -/
def tensorMet (s : State) (r : TRow) (f : FL) : Bool :=
  let ix := s.lreg f.lx.toNat
  let iy := s.lreg f.ly.toNat
  let it := ((r.extra f).map s.lreg).getD ix
  let sx := elemStorage s (.reg s.wg.wu f.lx.toNat, ix) s.m.id 1 (boxCoords (lyExts ix))
  let sy := elemStorage s (.reg s.wg.wu f.ly.toNat, iy) s.m.id 2 (boxCoords (lyExts ix))
  let st := elemStorage s (.reg s.wg.wu ((r.extra f).getD 0), it) s.m.id 1 (if (r.extra f).isNone then [] else boxCoords (lyExts it))
  let cx := scaleStorage s ix (boxCoords (lyExts ix))
  s.m.whole && decide ([ix, iy, it].findSome? s.tensorBad = none) && decide (lyExts ix = lyExts iy) && r.fmtOk f ix iy it &&
  !(lyScaleFmt iy == 1 && lySpace iy != 1) && okIs sx (fun _ => true) && okIs sy (fun _ => true) && okIs st (fun _ => true) && okIs cx (fun _ => true) &&
  okIs (scaleStorage s iy (boxCoords (lyExts ix))) (fun cy => !(cy.any (fun e => e.2.any (fun l => s.lyHit none l none)))) &&
  !(((okGet [] sx ++ okGet [] st).flatMap (fun e => s.ownRegs e.2) ++ (okGet [] sy).flatMap (fun e => s.ownRegs e.2)).any (fun r => s.busyWrites.contains r)) &&
  !(((okGet [] sy).flatMap (fun e => s.ownRegs e.2)).any (fun r => s.busyReads.contains r)) && decide (s.rlyOn (.reg s.wg.wu f.ly.toNat) = none) &&
  !(s.m.acqPending s.uid) && ((okGet [] sx ++ okGet [] st).flatMap (fun e => e.2.map (·.2.1)) ++ (okGet [] cx).filterMap (·.2)).all (s.mayRead s.uid) &&
  !((okGet [] sx ++ okGet [] st).any (fun e => e.2.any (fun p => s.locPoison p.2.1))) && !((okGet [] cx).any (fun e => (e.2.map s.locPoison).getD false))
theorem okGet_of {α β : Type} {d : β} {x : Except α β} (h : okIs x (fun _ => true) = true) : x = .ok (okGet d x) := by
  cases x with
  | error e => exact absurd h (by simp [okIs])
  | ok v => rfl
theorem okIs_ex {α β : Type} {x : Except α β} {p : β → Bool} (h : okIs x (fun v => !(p v)) = true) : ∃ v, x = .ok v ∧ p v = false := by
  cases x with
  | error e => exact absurd h (by simp [okIs])
  | ok v => exact ⟨v, rfl, by simpa [okIs] using h⟩
theorem tensorReady_of {s : State} {r : TRow} {f : FL} (h : tensorMet s r f = true) : ∃ sx sy st cx, TensorReady s r f sx sy st cx := by
  unfold tensorMet at h
  simp only [Bool.and_eq_true, Bool.not_eq_true', decide_eq_true_eq] at h
  obtain ⟨⟨⟨⟨⟨⟨⟨⟨⟨⟨⟨⟨⟨⟨⟨⟨a1, a2⟩, a3⟩, a4⟩, a5⟩, a6⟩, a7⟩, a8⟩, a9⟩, a10⟩, a11⟩, a12⟩, a13⟩, a14⟩, a17⟩, a15⟩, a16⟩ := h
  exact ⟨_, _, _, _, a1, a2, a3, a4, a5, okGet_of a6, okGet_of a7, okGet_of a8, okGet_of a9, okIs_ex a10, a11, a12, a13, ⟨a14, a17⟩, ⟨a15, a16⟩⟩
theorem witness_TensorResults_ready : ∀ x ∈ tensorForms, tensorMet tens x.1 x.2 = true ∧ x.1.issues tens h0 x.2 = true := by decide +kernel
theorem witness_TensorResults_other :
    tensorForms.all (fun x => x.1.issues tens hF x.2 && x.1.issues (tens.modM (fun m => { m with a := some { pc := {}, mask := 1 } })) h0 x.2) = true ∧
    tens.guardLow hF = false ∧ tens.guardLow h0 = true ∧ (tens.modM (fun m => { m with a := some { pc := {}, mask := 1 } })).m.whole = false ∧
    [tens.lreg 3, tens.lreg 0, tens.lreg 3].findSome? tens.tensorBad = some ILLOP := by decide +kernel

/-! ### Witnesses: the matrix engine -/

/-- Rank-2 layouts of 2 by 2: FP16, FP32 and N8 in registers, FP16 in the scratchpad; tile 1 holds I32. -/
def mats : State :=
  let s := (((lays.setLreg 0 (mkImg 0x2202 16 [2, 2] [0x010, 0x012] [1, 2])).setLreg 1 (mkImg 0x2201 17 [2, 2] [0x022] [1, 2])).setLreg 2
    (mkImg 0x2209 18 [2, 2] [0x020] [1, 2])).setLreg 3 (mkImg 0x42202 0 [2, 2] [0x024] [1, 2])
  { s with wg := { s.wg with mx := { s.wg.mx with kinds := [(1, 1)] } } }
def x1 : FX := { x0 with rowidx := 511 }
def matrixForms : List (MRow × FX) := matrixRows.zip
  [{ x1 with la := 0, lb := 0, seten := 1, setslot := 2 }, { x1 with la := 3, lb := 0, rowidx := 10 }, { x1 with la := 1 }, { x1 with ld := 1 }, { x1 with ld := 1 },
   x1, x1, { x1 with la := 2, acc := 1 }, { x1 with la := 1 }, { x1 with ximm := 2 }, x1]
/-- What `MxReady` asks, by evaluation. -/
def mxMet (s : State) (r : MRow) (h : Hdr) (f : FX) : Bool :=
  let u := s.reached ((okParts (r.plan f s).all).flatMap (fun ps => ps.filterMap (·.2.2)))
  decide (issueFault s h (classOk s .mtx false h.role.toNat && s.wg.launch.mtx) (mxUses (r.ctor h f)) (needs (r.ok f)) = none) &&
  !(s.mxFull f) && !(s.hazard (mxUses (r.ctor h f))) && !(s.marked (mxUses (r.ctor h f)) (List.range 16)) &&
  (r.lays f).all (fun x => lyN (s.lreg x) != 0 && lyRank (s.lreg x) == 2) && decide (firstBad (r.plan f s).all = none) && !(r.plan f s).bad &&
  s.pagesReady ((okParts (r.plan f s).all).flatMap (fun ps => ps.filterMap (·.2.2))) &&
  !((sliceRegs s.ref (okSlices (r.plan f s).src1 ++ okSlices (r.plan f s).src2) ++ sliceRegs s.ref (okSlices (r.plan f s).dst)).any (fun k => u.busyWrites.contains k)) &&
  !((sliceRegs s.ref (okSlices (r.plan f s).dst)).any (fun k => u.busyReads.contains k)) && !(s.m.acqPending s.uid) && decide (u.uid = s.uid)
theorem mxReady_of {s : State} {r : MRow} {h : Hdr} {f : FX} (k : mxMet s r h f = true) : MxReady s r h f := by
  unfold mxMet at k
  simp only [Bool.and_eq_true, Bool.not_eq_true', decide_eq_true_eq] at k
  obtain ⟨⟨⟨⟨⟨⟨⟨⟨⟨⟨⟨a1, a2⟩, a3⟩, a4⟩, a5⟩, a6⟩, a7⟩, a8⟩, a9⟩, a10⟩, a11⟩, a12⟩ := k
  exact ⟨a1, ⟨a2, a3⟩, a4, a5, a6, a7, a8, a9, a10, a11, a12⟩
theorem witness_MatrixIssue : (matrixForms.all (fun x => mxMet mats x.1 h0 x.2)) = true ∧ mats.guardLow h0 = true := by decide +kernel
/-- A queue of 32; an empty layout. -/
def mxFullS : State := { mats with wg := { mats.wg with mx := { mats.wg.mx with queue := List.replicate 32 { id := 0, mem := 0, instr := .mmz h0 x1 } } } }
theorem witness_MatrixIssue_other :
    matrixForms.all (fun x => [mats, mxFullS].all (fun s =>
      decide (issueFault s hF (classOk s .mtx false 0 && s.wg.launch.mtx) (mxUses (x.1.ctor hF x.2)) (needs (x.1.ok x.2)) = none) &&
      decide (issueFault s h0 (classOk s .mtx false 0 && s.wg.launch.mtx) (mxUses (x.1.ctor h0 x.2)) (needs (x.1.ok x.2)) = none))) = true ∧
    mats.guardLow hF = false ∧ mxFullS.guardLow h0 = true ∧ mxFullS.mxFull x1 = true ∧
    (matrixRows.take 1).all (fun r => decide (issueFault mats h0 (classOk mats .mtx false 0 && mats.wg.launch.mtx) (mxUses (r.ctor h0 { x1 with la := 9 })) (needs (r.ok { x1 with la := 9 })) = none) &&
      (r.lays { x1 with la := 9 }).any (fun x => lyN (mats.lreg x) == 0)) = true := by decide +kernel
/-- A queue whose head is a given instruction, as it stands once issued. -/
def issuedMx (i : Instr) : State := after i mats
def mmzS : State := issuedMx (.mmz h0 x1)
def mmaS : State := issuedMx (.mma h0 { x1 with la := 0, lb := 0 })
/-- An instruction behind one that has not ended, which its WAIT field names. -/
def behind : State := after (.mmz h0 { x1 with wait := 1 }) (issuedMx (.mmz h0 { x1 with seten := 1 }))
def startedMx (s : State) : State := after (.matrixStart 0 0) s
/-- An operand of the started `mma` is marked as poison. -/
def poisonMx : State := (startedMx mmaS).modR (fun r => { r with vmark := [512] })
/-- What a clause of `MatrixEvents` asks of the head of the queue. -/
def mxHead (s : State) (id : Nat) (p : Workgroup → MxOp → Bool) : Bool := match s.findMx 0 id with
  | some (w, q) => decide (w = s.wg) && decide (w.mx.queue.find? (fun x => x.id = id) = some q) && q.id == id && p w q
  | none => false
theorem witness_MatrixEvents :
    mxHead mmzS 0 (fun w q => !q.started && waitsOver w q && w.stop == .running && q.dst == []) = true ∧
    mxHead behind 1 (fun w q => !q.started && !(waitsOver w q)) = true ∧
    [mmzS, mmaS].all (fun s => mxHead (startedMx s) 0 (fun w q => q.started && decide (q.cycles < 65536) && q.elems == [] && writesTile q.instr && q.dst == [] && q.mem == s.m.id &&
      !((tilesRead q.instr).any (fun t => w.mx.psn.contains t) || (q.src1 ++ q.src2 ++ q.sc1 ++ q.sc2).any (startedMx s).slicePoison)) &&
      decide ((startedMx s).m.outs = [{ id := 0, cls := 3, kind := .tile 0 }])) = true ∧
    mxHead poisonMx 0 (fun w q => q.started && decide (q.cycles < 65536) && q.elems == [] && q.mem == poisonMx.m.id &&
      ((tilesRead q.instr).any (fun t => w.mx.psn.contains t) || (q.src1 ++ q.src2 ++ q.sc1 ++ q.sc2).any poisonMx.slicePoison)) = true ∧
    poisonMx.m.outs = [{ id := 0, cls := 3, kind := .tile 0 }] := by decide +kernel
/-- The started instruction has run 65,536 cycles; its workgroup is stopped for preemption. -/
def lateMx : State := (startedMx mmzS).modW (fun w => { w with mx := { w.mx with queue := w.mx.queue.map (fun q => { q with cycles := 65536 }) } })
def stoppedMx : State := (startedMx mmzS).modW (fun w => { w with stop := .preempt, stopCyc := 256 })
def partMx : State := stoppedMx.modW (fun w => { w with mx := { w.mx with queue := w.mx.queue.map (fun q => { q with elems := [0] }) } })
theorem witness_MatrixEvents_limits :
    lateMx.wg.core = 0 ∧ lateMx.wg.mx.queue.any (fun q => q.started && decide (65536 ≤ q.cycles)) = true ∧ lateMx.wg.members = [] ∧
    lateMx.m.outs.all (fun o => match o.kind with | .tile _ => true | _ => false) = true ∧
    (mmzS.allWgs.all (fun x => x.core != 0 || !(x.mx.queue.any (fun q => q.started && decide (65536 ≤ q.cycles))))) = true ∧
    stoppedMx.wg.stop = .preempt ∧ 256 ≤ stoppedMx.wg.stopCyc ∧ stoppedMx.wg.mx.queue.all (fun x => !x.started || decide (x.elems = [])) = true ∧
    stoppedMx.wg.mx.queue.any (·.started) = true ∧ partMx.wg.stop = .preempt ∧ 256 ≤ partMx.wg.stopCyc ∧ partMx.wg.mx.queue.length = 1 ∧
    partMx.wg.mx.queue.all (fun q => q.started && decide (q.elems ≠ [])) = true ∧
    mxHead lateMx 0 (fun _ q => q.started && decide (65536 ≤ q.cycles)) = true := by decide +kernel
/-- R224: `mmz` gives every word of its tile 0, and ends. -/
theorem test_mmz : let t := after (.matrixComplete 0 0 []) (startedMx mmzS); t.wg.tileWord 0 7 = 0 ∧ t.wg.mx.queue = [] ∧ t.m.outs = [] := by decide +kernel
theorem test_matrixWatchdog : let t := after (.matrixWatchdog 0) lateMx; t.wg.mx = {} ∧ t.m.r = lateMx.m.r := by decide +kernel

/-! ### Witnesses: teams -/

def h1 : Hdr := { h0 with role := 1 }
def h1F : Hdr := { h1 with guard := 0 }
/-- A team of one member of role 1: ring 0 of two stages from role 1 to role 1, q0 written by role 0, q1 by role 1. -/
def teamRec : Team :=
  { entries := [{ idx := 0, line := 0 }], roles := [(1, 0)], rings := [{ srole := 1, rrole := 1, stages := [{}, {}] }]
    q := [(0, 3), (1, 9)], qwr := [(0, 0), (1, 1)], driftMax := 4 }
def teamOf (t : Team) : State := { regs with wg := { regs.wg with team := some t }, m := { regs.m with role := 1 } }
def team1 : State := teamOf teamRec
/-- Its entry records that slot 0 goes to line 1, or falls through; q0 is 1; a second member. -/
def decidedTo : State := teamOf { teamRec with entries := [{ idx := 0, line := 0, outcome := [(0, some { line := 1 })] }] }
def decidedOn : State := teamOf { teamRec with entries := [{ idx := 0, line := 0, outcome := [(0, none)] }] }
def lastTurn : State := teamOf { teamRec with q := [(0, 1)] }
def team2 : State := { team1 with wg := { team1.wg with members := [{ id := 1, role := 1, a := some { mask := 1 } }] } }
/-- `tbra` on q0 not zero, on zero, always; `tloop` of q0; `drift` 2. -/
def tbF (c : BitVec 16) : FB := { bT with reg := if c = 2 then 0 else 320, timeout := c, cond := 7 }
def tlF : FB := { bT with reg := 320, cond := 7 }
def driftF : FH := { g0 with drift := 2 }
theorem witness_TeamCommonResults :
    [0, 1, 2].all (fun c => [team1, decidedTo, decidedOn, lastTurn].all (fun s => [(0x3FFFFF : BitVec 22), 1].all (fun o => let f := { tbF c with tofs := o }
      IssuesH s h0 .teamCommon (if f.timeout.toNat == 2 then [] else [{ spec := f.reg }])
        (guardAll h0 && decide (f.timeout.toNat ≤ 2) && (if f.timeout.toNat == 2 then f.reg == 0 else isQ f.reg) && f.cond == 7 && f.cneg == 0 &&
          f.jofs == 0 && f.jslot == 0 && decide (f.tslot.toNat < 5)) true))) = true ∧
    team1.recorded = none ∧ decidedTo.recorded = some (some { line := 1 }) ∧ decidedOn.recorded = some none ∧
    team1.tbraTakes (tbF 0) = true ∧ team1.tbraTakes (tbF 1) = false ∧ team1.tbraTakes (tbF 2) = true ∧
    team1.leaves 0x3FFFFF = true ∧ team1.leaves 1 = false ∧ team1.tgt (team1.target 1 0) = true ∧ decidedTo.tgt (decidedTo.target 1 0) = true := by decide +kernel
theorem witness_TeamCommonResults_more :
    [team1, decidedTo, decidedOn, lastTurn].all (fun s => IssuesH s h0 .teamCommon [{ spec := tlF.reg }]
      (guardAll h0 && tlF.timeout == 0 && isQ tlF.reg && tlF.cond == 7 && tlF.cneg == 0 && tlF.jofs == 0 && tlF.jslot == 0 && decide (tlF.tslot.toNat < 5))
      (s.writer (tlF.reg.toNat - 320) == 0)) = true ∧ teamQ team1 0 ≠ 1 ∧ teamQ lastTurn 0 = 1 ∧
    [team1, decidedOn].all (fun s => IssuesH s h0 .teamCommon [] (guardAll h0 && zerosH driftF false true false false false false false false false false &&
      decide (1 ≤ driftF.drift.toNat) && decide (driftF.drift.toNat ≤ 64)) true) = true := by decide +kernel
/-- R236, R243: the first member decides `tloop` for the entry; the others follow the record and count no further. -/
theorem test_tloop : teamQ (after (.tloop h0 tlF) team1) 0 = 2 ∧ (after (.tloop h0 tlF) team1).m.path.pc = { line := 1 } ∧
    teamQ (after (.tloop h0 tlF) decidedTo) 0 = 3 ∧ (after (.tloop h0 tlF) lastTurn).m.path.pc = { slot := 1 } := by decide +kernel
def qsetF : FH := { g0 with qreg := 1, sdata := 260 }
def qgetF (d : Spec) : FH := { g0 with qreg := 1, rdst := d }
/-- The member waits at a `tsync` of the phase in progress, or of one that is over; a store of it is on its way. -/
def tsWaiting (ph : Nat) : State := { teamOf { teamRec with tsync := if ph = 0 then [0] else [], tsPhase := ph } with m := { team1.m with tsWait := [(0, 0)] } }
def tsStoring : State := after (.sts h1 stsF) team1
theorem witness_TeamSyncResults :
    [h1, h1F].all (fun h => IssuesH team1 h .team [{ spec := qsetF.sdata, ok511 := true }]
      (zerosH qsetF false false true false true false false false false (qsetF.sdata.toNat == 511) &&
        (isS qsetF.sdata || isSpecial qsetF.sdata || qsetF.sdata.toNat == 511)) (team1.writer qsetF.qreg.toNat == h.role.toNat)) = true ∧
    team1.guardLow h1F = false ∧ team1.guardLow h1 = true ∧
    [qgetF 265, qgetF 4].all (fun f => IssuesH team1 h1 .team [{ spec := f.rdst, wr := true }]
      (zerosH f false false true true false false false false false false && (isS f.rdst || isV f.rdst)) true) = true := by decide +kernel
theorem witness_TeamSyncResults_tsync :
    [tsWaiting 0, tsWaiting 1, team1, team2, tsStoring].all (fun s => s.wg.team.isSome &&
      IssuesH s h0 .teamCommon [] (guardAll h0 && zerosH g0 false false false false false false false false false false) true) = true ∧
    (tsWaiting 0).m.tsWait.find? (fun e => e.1 = lowLane (tsWaiting 0).active) = some (0, 0) ∧
    team1.m.tsWait = [] ∧ tsStoring.m.tsWait = [] ∧ tsStoring.releaseReady tsStoring.ref tsStoring.m tsStoring.uid 1 = false ∧
    [team1, team2].all (fun s => s.wg.team.any (fun tm => !(tm.tsync.contains s.m.id)) && s.releaseReady s.ref s.m s.uid 1) = true ∧
    team2.team.any (fun m => !m.gone && m.id != team2.m.id) = true ∧ team1.team.all (fun m => m.gone || m.id == team1.m.id) = true := by decide +kernel
/-- R244: alone, a member passes its `tsync` at once; with another it waits. -/
theorem test_tsync : (after (.tsync h0 g0) team1).m.path.pc = { slot := 1 } ∧ (after (.tsync h0 g0) team2).m.path.pc = {} ∧
    (after (.tsync h0 g0) team2).wg.team.map (·.tsync) = some [0] := by decide +kernel
/-- `hand` that sends s4, that receives into s9, and both; `rdone`. -/
def sendF : FH := { g0 with sen := 1, sdata := 260 }
def recvF : FH := { g0 with ren := 1, rdst := 265, sub := 9 }
def bothF : FH := { g0 with sen := 1, sdata := 260, ren := 1, rdst := 265 }
def rdoneF : FH := { g0 with sen := 1 }
/-- The send part has arrived; its instance is written. -/
def sending : State := after (.hand h1 sendF) team1
def ringWritten : State := after (.ringStageWrite 1 0) sending
theorem witness_RingResults_hand :
    [team1, sending, ringWritten].all (fun s => [sendF, recvF, bothF].all (fun f => IssuesH s h1 .team (handUses f) (handOk s h1 f) (handRole s h1 f))) = true ∧
    team1.sendEntry = none ∧ (team1.ring 0).isSome = true ∧
    sending.sendEntry.any (fun e => !(sending.written e.2.1 e.2.2)) = true ∧ ringWritten.sendEntry.any (fun e => ringWritten.written e.2.1 e.2.2) = true ∧
    (team1.ring 0).any (fun rg => rg.diff rg.sc (smGet 0 team1.m.ri 0) == 0) = true ∧
    (ringWritten.ring 0).any (fun rg => rg.diff rg.sc (smGet 0 ringWritten.m.ri 0) != 0) = true := by decide +kernel
theorem witness_RingResults_rdone :
    [team1, sending, ringWritten].all (fun s => IssuesH s h1 .team [] (guardAll h1 && zerosH rdoneF false false false false false false true false true false && rdoneF.sen == 1 &&
        decide (rdoneF.sring.toNat < s.ringCount))
      (s.ringRole rdoneF.sring.toNat true == h1.role.toNat)) = true := by decide +kernel
theorem witness_RingResults_write :
    (team1.ring 0).any (fun rg => !(team1.stageReady 0 rg)) = true ∧
    (sending.ring 0).any (fun rg => sending.stageReady 0 rg && (sending.liveRole rg.srole).any (fun m => (sending.liveRole rg.srole).all (fun x => decide (m.id ≤ x.id)) &&
      ((rg.arrivals.filter (fun a => a.inst = rg.sc)).find? (fun a => a.mem = m.id)).isSome)) = true := by decide +kernel
/-- R237, R241: what was sent is received. -/
theorem test_hand : (after (.hand h1 bothF) ringWritten).m.r.rs 9 = 64 ∧ smGet 0 (after (.hand h1 bothF) ringWritten).m.ri 0 = 1 := by decide +kernel

/-! ### Witnesses: engine commands -/

/-- A copy descriptor from its words 0 to 6 and its origins and box (R256). -/
def descOf (ws : List Nat) (sorg dorg box : List Nat) : List Byte :=
  let d8 (xs : List Nat) : List Byte := (List.range 8).flatMap (fun k => leBytes 4 (xs.getD k 0))
  ((List.range 8).flatMap (fun k => leBytes 8 (ws.getD k 0))) ++ d8 sorg ++ d8 dorg ++ d8 box
/-- Descriptors for `cpy`, `cpyx`, `cpyr` and `gath` in the constant segment, and one out of order. -/
def descs : List (List Byte) :=
  [descOf [0, 3 + 5 * 2 ^ 8] [] [] [4], descOf [0, 3 + 5 * 2 ^ 8, 0, 10 * 2 ^ 8 + 2 * 2 ^ 32, 0, 0, 4] [] [] [1],
   descOf [0, 5 + 11 * 2 ^ 8, 10 * 2 ^ 8] [] [] [4], descOf [0, 3 + 5 * 2 ^ 8, 0, 10 * 2 ^ 8 + 2 * 2 ^ 32] [] [1] [],
   descOf [1, 3 + 5 * 2 ^ 8] [] [] [4]]
/-- A member with layouts 3 (memory), 5 and 11 (registers) and 10 (a table), and the descriptors. -/
def eng1 : State :=
  let s := State.withS (tens.setLreg 11 (mkImg 0x2101 20 [4] [0x022] [1, 2])) [(12, 0x10000), (13, 0x400)]
  { s with wg := { s.wg with launch := { s.wg.launch with args := descs.flatten } } }
/-- The copy engine of die 0 and the gather engines of its slices hold all they can (R330); the member's counter of commands is full. -/
def engBusy : State :=
  let op (us : List Nat) : EngOp := { id := 0, owner := r0, ctx := 1, die := 0, fn := 0, units := us }
  let ops := List.replicate 512 (op [copyUnit 0]) ++ List.replicate 32 (op ((List.range 192).map gatherUnit))
  { eng1 with eng := { eng1.eng with ops := ops } }
def engCounted : State := { eng1 with m := { eng1.m with outs := List.replicate 63 { id := 0, cls := 2, kind := .engine 0 } } }
def copyF (k : CopyKind) (at' : Nat) : FC :=
  { c0 with noreply := 1, cmod := 1, imm := BitVec.ofNat 32 at', fn := match k with | .cpyx => 1 | .cpyr => 2 | _ => 0 }
def copyForms : List (CopyKind × Nat) := [(.cpy, 0), (.cpyx, 1), (.cpyr, 2), (.gath, 3)]
theorem witness_CopyIssue_checks :
    copyForms.all (fun x => [eng1, engBusy, engCounted].all (fun s => let f := copyF x.1 (160 * x.2)
      IssuesC s h0 f (!(bitN f.cmod.toNat 0)) false (engOk f (!(bitN f.cmod.toNat 0)) false true (copyCmod x.1 f) true .opt))) = true ∧
    copyForms.all (fun x => engCounted.engFull (copyF x.1 0) && !(engBusy.engFull (copyF x.1 0)) && !(eng1.engFull (copyF x.1 0))) = true ∧
    (copyForms.zip descs).all (fun x => [eng1, engBusy].all (fun s => syncMet s true 0 (s.descAddr (copyF x.1.1 (160 * x.1.2))) 160 32 x.2)) = true ∧
    syncMet eng1 true 0 640 160 32 (descs.getD 4 []) = true ∧ copyDescOk .cpy false (descs.getD 4 []) = false := by decide +kernel
theorem witness_CopyIssue_moves :
    (copyForms.zip descs).all (fun x => [eng1, engBusy].all (fun s =>
      let k := x.1.1
      let f := copyF k (160 * x.1.2)
      let u := s.syncState true 0 (s.descAddr f) 160
      let d := copyDesc x.2
      copyDescOk k (copyStage k f) x.2 && okIs (u.copyTensors k d) (fun (ts, td, lt, hv) => u.copyFits k d ts.2 td.2 lt.2 && !(u.busyWrites.contains d.vidx) &&
        okIs (u.planCopy k (copyStage k f) (copyRnd k f) d ts td lt) (fun p => decide (firstBad (p.reads ++ p.writes) = none) && !(u.copyHeld k d p) &&
          !(u.m.acqPending u.uid) && !(u.replyBusy f) && (u.targetNode f).isSome && ((u.reached (p.allVas hv)).targetNode f).isSome &&
          u.unitsFull (u.planUnits k true p) == decide (s.eng.ops ≠ []) && u.migRoomFor (p.allVas hv))))) = true := by decide +kernel
/-- Records for `pgal` (pool 2, one sequence of one page, its table at 0x800) and `pgfr` (one page); a pool. -/
def paging (rec1 : Nat) : State :=
  let bs := leBytes 8 rec1 ++ leBytes 8 1 ++ leBytes 8 0x800
  { eng1 with
    ctxs := smPut {} eng1.ctxs 1 { (smGet {} eng1.ctxs 1) with pools := [(2, { cap := 4, pages := [1, 2] })] }
    mem := { eng1.mem with qv := [(0, (List.range 24).map (fun i => (0x400 + i, bs.getD i 0)) |>.filter (fun c => c.2 != 0))] } }
def alRec : Nat := 2 * 2 ^ 8 + 1
def frRec : Nat := 2 * 2 ^ 8 + 2 ^ 32
def pgF (fn : BitVec 7) : FC := { c0 with noreply := 1, srca := 269, fn := fn }
theorem witness_PageCommandIssue_pool :
    [(0, alRec), (0, frRec), (1, frRec), (1, alRec)].all (fun x => let f := pgF x.1
      IssuesC (paging x.2) h0 f true false (engOk f true false true (f.cmod == 0) false .opt) && !((paging x.2).engFull f) &&
      syncMet (paging x.2) false 0 ((paging x.2).engAddr f) 8 8 (leBytes 8 x.2)) = true ∧
    (frRec % 64 = 0) ∧ (alRec % 256 ≠ 0) ∧
    (let u := (paging alRec).syncState false 0 0x400 8
     syncMet u false 0 (u.engAddr (pgF 0)) 24 1 (leBytes 8 alRec ++ leBytes 8 1 ++ leBytes 8 0x800) = true ∧
     (let v := u.syncState false 0 (u.engAddr (pgF 0)) 24
      let as := [v.tableParts 0x800 1]
      (smFind v.ctx.pools 2).isSome = true ∧ firstBad as.flatten = none ∧ v.writesBusy as.flatten = false ∧ v.replyBusy (pgF 0) = false ∧
      v.unitsFull (v.copyUnits (dieOf v.wg.core) ((okSlices as.flatten).flatten.map (·.2))) = false ∧
      v.pagesReady (pagesOf (as.flatten.flatMap accessVas)) = true)) ∧
    (let u := (paging frRec).syncState false 0 0x400 8
     syncMet u false 0 (u.engAddr (pgF 1)) 12 1 (leBytes 8 frRec ++ leBytes 4 1) = true ∧
     (let v := u.syncState false 0 (u.engAddr (pgF 1)) 12
      (smFind v.ctx.pools 2).isSome = true ∧ v.replyBusy (pgF 1) = false ∧ v.unitsFull (v.copyUnits (dieOf v.wg.core) []) = false)) := by decide +kernel
/-- `pgsw` of four-byte tables at s13 and s4 (64), and at s7 (1); `mig` of one page at s12, at s13; `tcancel`. -/
def swF : FC := { c0 with noreply := 1, srca := 269, srcb := 260, fn := 2, imm := 1 }
def migF : FC := { c0 with noreply := 1, srca := 268, imm := 1 }
/-- Context 1 has its own page table: a 512 MiB leaf for address 0. -/
def migPaged : State :=
  { eng1 with
    ctxs := smPut {} eng1.ctxs 1 { (smGet {} eng1.ctxs 1) with root := 0x10000 }
    mem := { eng1.mem with pm := [(0x10000, 1), (0x10002, 2), (0x20000, 1), (0x20002, 3), (0x30000, 1), (0x30002, 4), (0x40008, 0x1B)] } }
theorem witness_PageCommandIssue_more :
    [swF, { swF with srca := 263 }].all (fun f => IssuesC eng1 h0 f true true
      (engOk f true true (decide (1 ≤ f.imm.toNat) && decide (f.imm.toNat ≤ 256)) (f.cmod == 0) false .none) && !(eng1.engFull f)) = true ∧
    eng1.engSrc 263 % 4 ≠ 0 ∧ eng1.engSrc 269 % 4 = 0 ∧ eng1.engSrc 260 % 4 = 0 ∧
    firstBad (eng1.swapTable 0x400 1 ++ eng1.swapTable 64 1) = none ∧ eng1.writesBusy (eng1.swapTable 0x400 1 ++ eng1.swapTable 64 1) = false ∧
    eng1.pagesReady (pagesOf ((eng1.swapTable 0x400 1 ++ eng1.swapTable 64 1).flatMap accessVas)) = true ∧
    eng1.unitsFull (eng1.copyUnits (dieOf eng1.wg.core) ((okSlices (eng1.swapTable 0x400 1 ++ eng1.swapTable 64 1)).flatten.map (·.2))) = false ∧
    [migF, { migF with srca := 269 }].all (fun f => IssuesC migPaged h0 f true false (engOk f true false (f.imm.toNat != 0)
      (decide (f.cmod.toNat < 4) && (bitN f.cmod.toNat 0 || !(bitN f.cmod.toNat 1))) true .opt) && !(migPaged.engFull f)) = true ∧
    migPaged.engSrc 269 % 65536 ≠ 0 ∧ migPaged.engSrc 268 % 65536 = 0 ∧ migPaged.migFault 0x10000 1 = none ∧ migPaged.targetNode migF = some none ∧
    migPaged.targetNode { migF with ctgt := 1, srcb := 261 } = none ∧
    IssuesC migPaged h0 { migF with ctgt := 1, srcb := 261 } true false (engOk { migF with ctgt := 1, srcb := 261 } true false true true true .opt) = true ∧
    IssuesC eng1 h0 { c0 with noreply := 1, srca := 269, fn := 4 } true false (engOk { c0 with noreply := 1, srca := 269, fn := 4 } true false true true false .opt) = true ∧
    eng1.engFull { c0 with noreply := 1, srca := 269, fn := 4 } = false := by decide +kernel

/-! ### Witnesses: relayouts, the task graph, handles -/

/-- Five levels of one bit each, in an order, and rotated. -/
def five (cols : List Nat) : Nat := mkImg 0x5202 8 [4, 8] [0x010, 0x011, 0x012, 0x013, 0x011] cols
/-- Layout 0 is FP32 by 16 in v12; 12 the same with columns swapped, 13 the same, 14 and 15 of five levels. -/
def rly1 : State :=
  (((eng1.setLreg 12 (mkImg 0x4101 12 [16] [0x042] [2, 1, 4, 8])).setLreg 13 (mkImg 0x4101 12 [16] [0x042] [1, 2, 4, 8])).setLreg 14
    (five [1, 2, 4, 8, 16])).setLreg 15 (five [2, 4, 8, 16, 1])
/-- `rly` from a layout register to another. -/
def rlyF (x y : Nat) : FC := { c0 with noreply := 1, imm := BitVec.ofNat 32 (x + y * 2 ^ 8) }
def rlyGoF : FC := { c0 with noreply := 1, cmod := 16 }
def rlyRunning : State := after (.rly h0 (rlyF 0 12)) rly1
theorem witness_RelayoutCommandResults_rly :
    [rlyF 0 12, rlyF 0 13, rlyF 0 1, rlyF 14 15, rlyGoF].all (fun f => [rly1, rlyRunning].all (fun s =>
      IssuesC s h0 f false false (engOk f false false (rlyFields f) true false .opt) && !(s.engFull f) &&
      okIs (s.engTensor false (rlyX f) (s.engSrc f.srca % 2 ^ 32) [18]) (fun _ => true))) = true ∧
    (rly1.eng.ops.any (fun e => e.rly.isSome)) = false ∧ lyPstate (rly1.lreg 0) = 0 ∧
    sameButMatrix (rly1.lreg 0) (rly1.lreg 1) = false ∧ sameButMatrix (rly1.lreg 0) (rly1.lreg 12) = true ∧ sameButMatrix (rly1.lreg 0) (rly1.lreg 13) = true ∧
    sameButMatrix (rly1.lreg 14) (rly1.lreg 15) = true ∧
    4 < (touchedLevels (rly1.lreg 14) (changeOf 5 (lyMat (rly1.lreg 14)) (lyMat (rly1.lreg 15)))).length ∧
    (touchedLevels (rly1.lreg 0) (changeOf 4 (lyMat (rly1.lreg 0)) (lyMat (rly1.lreg 12)))).length ≤ 4 := by decide +kernel
theorem witness_RelayoutCommandResults_start :
    (let y := rly1.rlyAsked (rlyF 0 13) (.reg 1 0, rly1.lreg 0) (.reg 1 13, rly1.lreg 13)
     y.plan = [] ∧ firstBad (rly1.footprint (.reg 1 0, y.img) ++ rly1.entryWrite (.reg 1 0)) = none ∧ (rly1.busyRef (.reg 1 0) (rly1.lreg 0) || rly1.busyRef (.reg 1 13) (rly1.lreg 13)) = false) ∧
    (let y := rly1.rlyAsked (rlyF 0 12) (.reg 1 0, rly1.lreg 0) (.reg 1 12, rly1.lreg 12)
     y.plan ≠ [] ∧ (rly1.busyRef (.reg 1 0) (rly1.lreg 0) || rly1.busyRef (.reg 1 12) (rly1.lreg 12)) = false ∧ rly1.rlyReady y = true ∧
     rly1.unitsFull (rly1.rlyUnitsOf (rly1.footprint (.reg 1 0, y.img))) = false ∧
     rly1.pagesReady (rly1.rlyVas y []) = true) ∧
    (let y := rlyRunning.rlyAsked (rlyF 0 12) (.reg 1 0, rlyRunning.lreg 0) (.reg 1 12, rlyRunning.lreg 12)
     y.plan ≠ [] ∧ (rlyRunning.busyRef (.reg 1 0) (rlyRunning.lreg 0) || rlyRunning.busyRef (.reg 1 12) (rlyRunning.lreg 12)) = true ∧
     firstBad (rlyRunning.footprint (.reg 1 0, y.img) ++ rlyRunning.entryWrite (.reg 1 0)) = none) := by decide +kernel
/-- A relayout of layout 0 that is paused after its first pass. -/
def pausedRly : State :=
  { rly1 with eng := { rly1.eng with paused := [⟨.reg 1 0, .reg 1 12, rly1.lreg 0, rly1.lreg 12, [], 2, 1, [], [], 0, 0, false, false⟩] } }
def rlywF : FC := { c0 with reply := 265, imm := 0x100, fn := 1 }
def rlypF (x y : Nat) : FC := { c0 with noreply := 1, srca := 269, fn := 2, imm := BitVec.ofNat 32 (x + y * 2 ^ 8) }
theorem witness_RelayoutCommandResults_wait :
    [rly1, rlyRunning, pausedRly].all (fun s => IssuesC s h0 rlywF false false (engOk rlywF false false
      (bitsN rlywF.imm.toNat 12 20 == 0 && bitsN rlywF.imm.toNat 5 3 == 0 && bitsN rlywF.imm.toNat 8 4 != 0) (rlywF.cmod == 0) false .must) &&
      okIs (s.engTensor false 0 0 []) (fun _ => true)) = true ∧
    okIs (rly1.engTensor false 0 0 []) (fun t => decide (rly1.rlyState t.1 = none)) = true ∧
    okIs (rlyRunning.engTensor false 0 0 []) (fun t => decide (rlyRunning.rlyState t.1 = some (0, false))) = true ∧
    okIs (pausedRly.engTensor false 0 0 []) (fun t => decide (pausedRly.rlyState t.1 = some (1, true))) = true := by decide +kernel
theorem witness_RelayoutCommandResults_plan :
    ([rlypF 0 12, { rlypF 0 12 with imm := 0xC0C }].all (fun f => IssuesC rly1 h0 f true false (engOk f true false
      (bitsN f.imm.toNat 17 15 == 0 && bitsN f.imm.toNat 12 4 == 0 && bitsN f.imm.toNat 4 4 == 0 && (!(bitN f.imm.toNat 16) || rlyY f == 0))
      (f.cmod == 0) false .opt) && !(rly1.engFull f))) = true ∧
    rly1.unitsFull (rly1.rlyUnits (dieOf rly1.wg.core) none) = false ∧
    lyN (rly1.lreg 0) ≠ 0 ∧ lyN (rly1.lreg 12) ≠ 0 ∧ sameButMatrix (lyIdle (rly1.lreg 0)) (rly1.lreg 12) = true ∧ rly1.engSrc 269 % 32 = 0 ∧
    okIs (rly1.parts 0 (rly1.engSrc 269) (planRecord 4 (planOf (lyIdle (rly1.lreg 0)) (lyMat (rly1.lreg 12)))).length 2) (fun ps =>
      !(ps.any (fun p => rly1.lyHit none p.2.1 p.2.2)) && rly1.pagesReady (pagesOf (ps.filterMap (·.2.2)))) = true := by decide +kernel

/-- A launch of one warp at line 1, and the records of an empty, a kernel and a copy node, and one out of order. -/
def launchRec : List Byte :=
  leBytes 8 0x40 ++ leBytes 24 0 ++ leBytes 8 (1 + 2 ^ 21 + 2 ^ 42) ++ leBytes 8 (1 + 2 ^ 8 + 2 ^ 33) ++ leBytes 272 0
def nodeRecs : List (List Byte) :=
  [leBytes 8 (7 * 2 ^ 32) ++ leBytes 56 0, leBytes 8 1 ++ leBytes 8 0x2000 ++ leBytes 48 0, leBytes 8 2 ++ leBytes 8 0x900 ++ leBytes 48 0,
   leBytes 8 3 ++ leBytes 56 0]
/-- A copy of all of the handle's tensor onto itself, by handles. -/
def handleCopy : List Byte := descOf [0x1003 + 0x1003 * 2 ^ 32, 2 ^ 4 + 2 ^ 12] [] [] [3, 5]
/-- Bytes at an address of a copy of memory. -/
def cells (a : Nat) (bs : List Byte) : Memory := (List.range bs.length).map (fun i => (a + i, bs.getD i 0)) |>.filter (fun c => c.2 != 0)
def mapped : Memory := [(0x10000, 1), (0x10002, 2), (0x20000, 1), (0x20002, 3), (0x30000, 0x3B)]
/-- A held node of slot 3 and generation 2, an armed one of slot 4 and generation 1; their ids in s14 and s15. -/
def graph1 : State :=
  let s := State.withS handled [(13, 0x800), (14, 0x3002), (15, 0x4001)]
  let n (slot gen : Nat) (st : NodeSt) : Node := { ref := ⟨1, 0, slot⟩, gen := gen, st := st }
  { s with
    ctxs := smPut {} s.ctxs 1 { (smGet {} s.ctxs 1) with root := 0x10000 }
    eng := { s.eng with nodes := [n 3 2 .held, n 4 1 .armed] }
    mem := { s.mem with
      qv := [(0, smGet [] s.mem.qv 0 ++ cells 0x800 nodeRecs.flatten ++ cells 0x900 handleCopy)]
      pm := cells 0x2000 launchRec ++ mapped } }
def mustF (fn : BitVec 7) : FC := { c0 with srca := 269, reply := 265, fn := fn }
theorem witness_GraphCommandResults_cop : h0.guard.toNat < 8 ∧ ¬ (h0.neg = 1 ∧ h0.guard = 7) ∧ classOk graph1 .eng false h0.role.toNat = true := by decide +kernel
theorem witness_GraphCommandResults_node :
    IssuesC graph1 h0 (mustF 0) true false (engOk (mustF 0) true false ((mustF 0).imm == 0) ((mustF 0).cmod == 0) false .must) = true ∧
    okIs (graph1.walk graph1.wg.ctx (graph1.engSrc 269)) (fun _ => true) = true ∧ okIs (eng1.walk eng1.wg.ctx (eng1.engSrc 269)) (fun _ => true) = false ∧
    IssuesC eng1 h0 (mustF 0) true false (engOk (mustF 0) true false ((mustF 0).imm == 0) ((mustF 0).cmod == 0) false .must) = true ∧
    (List.range 4).all (fun k => let s := State.withS graph1 [(13, BitVec.ofNat 64 (0x800 + 64 * k))]
      syncMet s false 0 (s.engSrc 269) 64 64 (nodeRecs.getD k []) &&
      IssuesC s h0 (mustF 0) true false (engOk (mustF 0) true false ((mustF 0).imm == 0) ((mustF 0).cmod == 0) false .must) &&
      nodeRecOk (nodeRecs.getD k []) == decide (k < 3) && wordAt (nodeRecs.getD k []) 0 % 4 == k) = true ∧
    (let u := graph1.syncState false 0 0x840 64
     okIs (u.takeLaunch u.wg.ctx (devOf u.ctx.mode (dieOf u.wg.core)) 0x2000) (fun _ => true) = true) ∧
    (let u := graph1.syncState false 0 0x880 64
     let v := u.syncState false 0 0x900 160
     let d := copyDesc handleCopy
     syncMet u false 0 0x900 160 32 handleCopy = true ∧ copyDescOk .cpy false handleCopy = true ∧ d.sh = true ∧ d.dh = true ∧
     okIs (v.copyTensors .cpy d) (fun (ts, td, lt, _) => v.copyFits .cpy d ts.2 td.2 lt.2 &&
       okIs (v.planCopy .cpy false 0 d ts td lt) (fun p => decide (firstBad (p.reads ++ p.writes) = none) && !(v.copyHeld .cpy d p) && !(v.m.acqPending v.uid) &&
         v.migRoomFor (p.allVas []))) = true) := by
  decide +kernel
theorem witness_GraphCommandResults_edge :
    [({ c0 with noreply := 1, srca := 270, srcb := 271, fn := 1 } : FC), { c0 with noreply := 1, srca := 270, srcb := 261, fn := 1 }].all (fun f =>
      IssuesC graph1 h0 f true true (engOk f true true (f.imm == 0) (f.cmod == 0) false .none)) = true ∧
    [({ c0 with noreply := 1, srca := 270, fn := 2 } : FC), { c0 with noreply := 1, srca := 261, fn := 2 }].all (fun f =>
      IssuesC graph1 h0 f true false (engOk f true false (f.imm == 0) (f.cmod == 0) false .none)) = true ∧
    graph1.nodeById (graph1.engSrc 261) = none ∧
    (graph1.nodeById (graph1.engSrc 270)).any (fun a => decide (a.ref = ⟨1, 0, 3⟩) && a.st == .held && decide (a.succs.length < 64)) = true ∧
    (graph1.nodeById (graph1.engSrc 271)).any (fun b => decide (b.ref = ⟨1, 0, 4⟩) && b.st != .launched) = true := by decide +kernel
theorem test_tlaunch : (after (.tlaunch h0 { c0 with noreply := 1, srca := 270, fn := 2 }) graph1).eng.nodes.map (·.st) = [.armed, .armed] := by decide +kernel

/-- A table of four entries, slot 1 live; a record to enter, at 0xA00, one with a field out of order, and one without a layout. -/
def newEntry : List Byte := leBytes 256 t35 ++ leBytes 32 0 ++ leBytes 8 0xF0000 ++ leBytes 216 0
def handles (rec1 : List Byte) (slots : Nat) : State :=
  let s := State.withS handled [(13, 0x1000), (14, 0x9000)]
  { s with
    ctxs := smPut {} s.ctxs 1 { (smGet {} s.ctxs 1) with htsize := slots }
    mem := { s.mem with qv := [(0, smGet [] s.mem.qv 0 ++ cells 0x1000 rec1)] } }
def hnF : FC := { c0 with srca := 269, reply := 265 }
def hdF (src : Spec) : FC := { c0 with noreply := 1, srca := src, fn := 1 }
def hcF (src : Spec) : FC := { c0 with srca := src, reply := 265, fn := 2 }
def outEntry : List Byte := newEntry.take 300 ++ [1] ++ newEntry.drop 301
def noEntry : List Byte := leBytes 512 0
theorem witness_HandleCommandResults_bad :
    [outEntry, noEntry].all (fun bs =>
      IssuesC (handles bs 1) h0 hnF true false (engOk hnF true false (hnF.imm == 0) (hnF.cmod == 0) false .must) &&
      syncMet (handles bs 1) false 0 ((handles bs 1).engSrc hnF.srca) 512 1 bs) = true ∧
    entryZeros outEntry = false ∧ entryZeros noEntry = true ∧ lyWellFormed (entryImg noEntry) = false := by decide +kernel
theorem witness_HandleCommandResults_new :
    IssuesC (handles newEntry 1) h0 hnF true false (engOk hnF true false (hnF.imm == 0) (hnF.cmod == 0) false .must) = true ∧
    syncMet (handles newEntry 1) false 0 ((handles newEntry 1).engSrc hnF.srca) 512 1 newEntry = true ∧
    entryZeros newEntry = true ∧ lyWellFormed (entryImg newEntry) = true ∧ lyPstate (entryImg newEntry) = 0 := by decide +kernel
theorem witness_HandleCommandResults_slots :
    okIs (((handles newEntry 1).syncState false 0 0x1000 512).freeHandle (2 ^ 20) 1) (fun x => x.isNone) = true ∧
    okIs (((handles newEntry 4).syncState false 0 0x1000 512).freeHandle (2 ^ 20) 1) (fun x => x.any (fun y =>
      okIs ((handles newEntry 4).parts 1 ((handles newEntry 4).entryVa y.1) 512 2) (fun ps => (handles newEntry 4).pagesReady (pagesOf (ps.filterMap (·.2.2)))))) = true := by
  decide +kernel
theorem witness_HandleCommandResults_old :
    [hcF 266, hcF 270].all (fun f => IssuesC (handles newEntry 2) h0 f true false (engOk f true false (f.imm == 0) (f.cmod == 0) false .must)) = true ∧
    hSlot ((handles newEntry 2).engSrc 270 % 2 ^ 32) ≥ (handles newEntry 2).ctx.htsize ∧ hSlot ((handles newEntry 2).engSrc 266 % 2 ^ 32) = 1 ∧
    (handles newEntry 2).ctx.htsize = 2 ∧ okIs ((handles newEntry 2).peek 1 ((handles newEntry 2).entryVa 1) 512) (fun p => !p.psn) = true ∧
    [hdF 266, hdF 270].all (fun f => IssuesC (handles newEntry 2) h0 f true false (engOk f true false (f.imm == 0) (f.cmod == 0) false .none)) = true ∧
    okIs ((handles newEntry 2).handle ((handles newEntry 2).engSrc 270 % 2 ^ 32) []) (fun _ => true) = false := by decide +kernel
/-- The tensor of handle slot 1 has a paused relayout. -/
def pausedHandle : State :=
  { handles newEntry 2 with eng := { (handles newEntry 2).eng with paused := [⟨.handle 1 1, .reg 1 12, 0, 0, [], 2, 1, [], [], 0, 0, false, false⟩] } }
theorem witness_HandleCommandResults_del :
    okIs ((handles newEntry 2).handle ((handles newEntry 2).engSrc 266 % 2 ^ 32) []) (fun p =>
      !((handles newEntry 2).busyRef (.handle 1 1) (entryImg p.bytes)) && (pausedHandle.busyRef (.handle 1 1) (entryImg p.bytes))) = true ∧
    okIs ((handles newEntry 2).parts 1 ((handles newEntry 2).entryVa 1 + 288) 8 2) (fun ps => (handles newEntry 2).pagesReady (pagesOf (ps.filterMap (·.2.2)))) = true ∧
    hGen ((handles newEntry 2).engSrc 266 % 2 ^ 32) ≠ 4095 ∧
    IssuesC pausedHandle h0 (hdF 266) true false (engOk (hdF 266) true false true true false .none) = true := by decide +kernel

/-! ### Witnesses: engine events -/

def spPart (n bit bits : Nat) : Slice := [(n, ⟨.sp 0, bit, bits⟩)]
/-- One command of its owner: a move of four bytes of its core's scratchpad, a move of a constant, no more. -/
def engOp0 : EngOp :=
  { id := 5, owner := r0, ctx := 1, die := 0, fn := 0, expect := 96, events := [(3, { val := 7 }), (3, { val := 8 })]
    moves := [{ srcs := [spPart 0 0 32], dsts := [spPart 0 512 32] }, { srcs := [], dsts := [spPart 0 1024 32], xf := .const 9 },
      { srcs := [spPart 0 0 32], dsts := [spPart 0 512 32], room := some 0 }] }
def engOne (e : EngOp) : State :=
  { eng1 with
    mem := { eng1.mem with sp := [(0, [(0, 11), (1, 12), (2, 13), (3, 14)])] }
    eng := { eng1.eng with ops := [e] }
    m := { eng1.m with outs := [{ id := 5, cls := 2, kind := .engine 5 }] } }
theorem witness_EngineEvents_moves :
    (engOne engOp0).eng.ops.find? (fun x => x.id = engOp0.id) = some engOp0 ∧
    engOp0.moves.map ((engOne engOp0).mayLand engOp0) = [true, true, false] := by decide +kernel
theorem test_engineWriteLand :
    (List.range 2).map (fun k => let t := after (.engineWriteLand 5 k) (engOne engOp0)
      ((List.range 4).map (fun i => memGet (smGet [] t.mem.sp 0) (64 + 64 * k + i)), (t.eng.ops.map (fun x => (x.moves.length, x.begun, x.expect))))) =
    [([11, 12, 13, 14], [(2, true, 64)]), ([9, 0, 0, 0], [(2, true, 64)])] := by decide +kernel
/-- A command with nothing left but its reply to s9, and one that waits for its moves. -/
def engLast : EngOp := { id := 5, owner := r0, ctx := 1, die := 0, fn := 0, reply := some { spec := 265, size := 8 }, value := 7, report := some 3 }
theorem witness_EngineEvents_completion :
    (engOne { engOp0 with events := [] }).engDone { engOp0 with events := [] } = false ∧
    engOp0.owner.wu = eng1.wg.wu ∧ eng1.wg.iqHeld.any (fun x => x.1 = 3) = false ∧ (smGet [] eng1.wg.iq 3).length < 32 ∧
    (engOne engLast).engDone engLast = true ∧ engLast.owner = (engOne engLast).ref := by decide +kernel
theorem test_engineCompletion :
    (let t := after (.engineCompletion 5) (engOne engLast)
     t.m.r.rs 9 = 7 ∧ t.m.outs.length = 0 ∧ t.m.reports.length = eng1.m.reports.length + 1) ∧
    smGet [] (after (.engineCompletion 5) (engOne engOp0)).wg.iq 3 = [{ val := 7 }] := by decide +kernel
/-- A relayout of the four bytes at the scratchpad's start: the level's bits swapped, in one pass, or in the first of two. -/
def rlySt (plan : List (Nat × List Nat)) (stop : Nat) : RlySt :=
  { x := .reg 1 5, target := .reg 1 6, img := eng1.lreg 5, timg := eng1.lreg 5, plan := plan, pass := 1, stopAfter := stop
    locs := (List.range 4).map (fun k => spPart 0 (8 * k) 8), left := [0] }
def rlyOps : List EngOp := [rlySt [(2, [2, 1])] 0, rlySt [(2, [2, 1]), (2, [2, 1])] 1, { rlySt [(2, [2, 1])] 0 with suspended := true },
  { rlySt [(2, [2, 1])] 0 with left := [0, 1] }].map (fun y => { engLast with rly := some y })
theorem witness_EngineEvents_commit :
    rlyOps.all (fun e => e.rly.any (fun y => (engOne e).mayCommit y (y.group 0) && y.left.contains 0 && y.group 0 == [0, 1, 2, 3] &&
      (y.group 0).map (gfVec y.passMat) == [0, 2, 1, 3])) = true := by decide +kernel
theorem test_relayoutGroupCommit :
    rlyOps.map (fun e => let t := after (.relayoutGroupCommit 5 0) (engOne e)
      ((List.range 4).all (fun k => decide (memGet (smGet [] t.mem.sp 0) (gfVec [2, 1] k) = [11, 12, 13, 14].getD k 0)),
        decide (t.lreg 5 = lyFinal (eng1.lreg 5) (eng1.lreg 5)), decide (t.lreg 5 = lyPend (eng1.lreg 5) 2 2 6), t.eng.paused.map (·.pass))) =
    [(true, true, false, []), (true, false, true, [2]), (false, true, false, []), (true, true, false, [])] := by decide +kernel

/-! ### Witnesses: system instructions -/

/-- A member at a level, with an event handler at slot 3 of line 1, or none. -/
def sysAt (lvl : Nat) (evb : W64) : State :=
  { regs with
    m := { regs.m with level := lvl, epc := 67 }
    ctxs := smPut {} regs.ctxs 1 { (smGet {} regs.ctxs 1) with evbase := evb } }
def sysForms : List FS :=
  [{ s0 with dst := 265, csr := 2 }, { s0 with src := 261, csr := 0x102 }, { s0 with imm := 77 }, s0, s0, { s0 with src := 261, sub := 1 }, s0,
   { s0 with sub := 2 }, { s0 with src := 261, dst := 265, imm := 260 }, { s0 with src := 261, dst := 265 }]
def pFalse : Hdr := { h0 with guard := 1 }
theorem witness_SystemResults_runs :
    (systemRows.zip sysForms).all (fun x => x.1.runs (sysAt 1 0) h0 x.2) = true ∧
    (sysRow 2).runs (sysAt 0 67) h0 { s0 with imm := 65535 } = true ∧ (sysAt 0 0).m.whole = true ∧
    pcOf 67 = some ⟨1, 3⟩ ∧ (sysAt 0 67).tgt ⟨1, 3⟩ = true ∧ pcOf 0x60 = none := by decide +kernel
theorem witness_SystemResults_guard :
    (systemRows.zip sysForms).all (fun x => [0, 1].all (fun l => [h0, pFalse].all (fun h =>
      let s := sysAt l 0
      decide (issueFault s h (classOk s .sys false h.role.toNat) (x.1.uses x.2) (needs (x.1.ok x.2)) = none) && !(s.hazard (x.1.uses x.2)) &&
        s.guardLow h == (h == h0)))) = true ∧
    ((systemRows.zip sysForms).filter (fun x => decide (0 < x.1.lvl x.2))).length = 7 := by decide +kernel
/-- R277, R280: `svc` saves the next slot and goes to the handler at level 1; `eret` comes back at level 0. -/
theorem test_svc_eret :
    (let t := after (.svc h0 { s0 with imm := 77 }) (sysAt 0 67)
     t.m.path.pc = ⟨1, 3⟩ ∧ t.m.level = 1 ∧ t.m.epc = regs.m.path.pc.next.word ∧ t.m.ecause = 77) ∧
    (let t := after (.eret h0 s0) (sysAt 1 67)
     t.m.path.pc = ⟨1, 3⟩ ∧ t.m.level = 0) := by decide +kernel

/-! ### Witnesses: saves and migrations -/

/-- A stopped workgroup of the issuer's context, on core 1. -/
def stoppedWu (st : Stop) : Workgroup := { wu := 2 ^ 32 + 5, ctx := 1, core := 1, group := [2 ^ 32 + 5], stop := st }
def saving (st : Stop) (a : W64) (id : W64) : State :=
  let s := State.withS (sysAt 1 0) [(5, a), (4, id)]
  { s with wgs := [stoppedWu st] }
/-- A workgroup of one warp stopped by a `brk`, on core 1. -/
def awayWu : Workgroup :=
  { stoppedWu .brk with wgid := 5, launch := { stack := 8 }, members := [{ id := 0, a := some { pc := {}, mask := BitVec.allOnes 32 } }] }
/-- The issuer of a save of it: every translation of its context's first 512 MiB is held. -/
def saveState : State :=
  let s := saving .brk 0x1000 5
  { s with wgs := [awayWu], mem := { s.mem with tlb := [{ quad := 0, ctx := 1, page := 0, leaf := 0x39, large := true }] } }
def saveF : FS := { s0 with src := 261, dst := 265, imm := 260 }
def loadF : FS := { s0 with src := 261, dst := 265 }
/-- The length of the areas, whatever their digests are. -/
theorem leBytes_length : ∀ n v, (leBytes n v).length = n
  | 0, _ => rfl
  | n + 1, v => by simp [leBytes, leBytes_length n]
theorem groupBytes_length (s : State) (w : Workgroup) :
    (s.groupBytes w).length = ((s.areaGroup w).map (fun x => (s.areaTail x).length + 64)).sum := by
  unfold State.groupBytes
  rw [List.length_flatMap]
  refine congrArg List.sum (List.map_congr_left fun x _ => ?_)
  simp [State.saveArea, shaBytes, beBytes, leBytes_length]
  omega
/-- The chunks of an aligned run of whole words. -/
theorem chunks_aligned : ∀ k fuel a, k ≤ fuel → a % 8 = 0 → chunks a (fuel + 1) (8 * k) = (List.range k).map (fun i => (8 * i, 8))
  | 0, _, _, _, _ => by simp [chunks]
  | k + 1, 0, _, h, _ => by omega
  | k + 1, f + 1, a, h, ha => by
    have e : min (8 * (k + 1)) (8 - a % 8) = 8 := by omega
    rw [chunks, if_neg (by omega)]
    simp only [e]
    rw [show 8 * (k + 1) - 8 = 8 * k by omega, chunks_aligned k f (a + 8) (by omega) (by omega), List.range_succ_eq_map]
    simp only [List.map_map, List.map_cons, List.cons.injEq]
    refine ⟨trivial, List.map_congr_left fun i _ => ?_⟩
    simp only [Function.comp_apply, Prod.mk.injEq, and_true]
    omega
theorem parts_aligned (s : State) (sp a k need : Nat) (h : a % 8 = 0) :
    s.parts sp a (8 * k) need = resolveParts s sp a need ((List.range k).map (fun i => (8 * i, 8))) := by
  rw [State.parts, chunks_aligned k (8 * k) a (by omega) h]
/-- The group pre-empted, and with its relayouts suspended. -/
def haltedState : State := saveState.preemptGroup awayWu
def quietState : State := (haltedState.liveGroup awayWu).foldl (fun t x => t.suspendRly x.wu) haltedState
theorem witness_SaveResults_save : (sysRow 8).runs saveState h0 saveF = true ∧ (saveState.rf.rs 5).toNat = 0x1000 ∧ (saveState.rf.rs 4).toNat = 5 ∧
    saveState.savable 5 = some awayWu ∧ haltedState.mayDepart awayWu = true ∧
    okIs (saveState.parts 1 0x1000 (saveState.groupBytes awayWu).length 2) (fun _ => true) = true ∧
    okIs (quietState.parts 1 0x1000 (quietState.groupBytes awayWu).length 2) (fun ps =>
      !(ps.any (fun p => quietState.lyHit none p.2.1 p.2.2)) && quietState.pagesReady (pagesOf (ps.filterMap (·.2.2)))) = true := by
  have l1 : (saveState.groupBytes awayWu).length = 8 * 1536 := by rw [groupBytes_length]; decide +kernel
  have l2 : (quietState.groupBytes awayWu).length = 8 * 1536 := by rw [groupBytes_length]; decide +kernel
  rw [l1, l2, parts_aligned _ _ _ _ _ (by decide), parts_aligned _ _ _ _ _ (by decide)]
  decide +kernel
/-- An area that cannot be written, at s5. -/
def farSave : State := State.withS saveState [(5, 2 ^ 60)]
/-- A workgroup that is not quiet yet. -/
def loadingWu : Workgroup :=
  { awayWu with members := awayWu.members.map (fun m => { m with outs :=
      [{ id := 9, cls := 0, kind := .load [{ lane := 0, off := 0, loc := ⟨.glob, 0, 8⟩ }] { spec := 0, size := 1 } [] }] }) }
def loadingSave : State := { saveState with wgs := [loadingWu] }
theorem witness_SaveResults_bad :
    ((sysRow 8).runs farSave h0 saveF = true ∧ (farSave.rf.rs 5).toNat = 2 ^ 60 ∧ farSave.savable 5 = some awayWu ∧
     okIs (farSave.parts 1 (2 ^ 60) (farSave.groupBytes awayWu).length 2) (fun _ => true) = false) ∧
    ((sysRow 8).runs loadingSave h0 saveF = true ∧ loadingSave.savable 5 = some loadingWu ∧ (loadingSave.preemptGroup loadingWu).mayDepart loadingWu = false ∧
     okIs (loadingSave.parts 1 0x1000 (loadingSave.groupBytes loadingWu).length 2) (fun _ => true) = true) ∧
    (let s := State.withS saveState [(4, 6)]
     (sysRow 8).runs s h0 saveF = true ∧ s.savable 6 = none) ∧
    (let s := State.withS saveState [(5, 0x1008)]
     (sysRow 8).runs s h0 saveF = true ∧ (sysRow 9).runs s h0 loadF = true ∧ (s.rf.rs 5).toNat % 4096 ≠ 0) := by
  have l1 : (farSave.groupBytes awayWu).length = 8 * 1536 := by rw [groupBytes_length]; decide +kernel
  have l2 : (loadingSave.groupBytes loadingWu).length = 8 * 1536 := by rw [groupBytes_length]; decide +kernel
  rw [l1, l2, parts_aligned _ _ _ _ _ (by decide), parts_aligned _ _ _ _ _ (by decide)]
  decide +kernel
/-- Its area: the header but for the digest; what the digest is of; and the digest. -/
def areaHead : List Byte := leBytes 8 (12288 * 2 ^ 32 + 7 * 2 ^ 8 + 1) ++ leBytes 8 (5 * 2 ^ 32 + 1) ++ leBytes 16 2
def areaTail : List Byte := saveState.areaTail awayWu
def areaDigest : List Byte := shaBytes areaTail
/-- The bytes that are not 0 in the area after the digest, by their place. -/
def areaRest : List (Nat × Byte) :=
  [(65, 2), (72, 64), (76, 1), (80, 64), (81, 2), (89, 1), (92, 2), (96, 64), (97, 3), (104, 32), (105, 4), (108, 3), (112, 128), (113, 7),
   (120, 96), (121, 2), (124, 4), (129, 10), (137, 18), (140, 5), (145, 28), (152, 128), (156, 8), (160, 128), (161, 28), (168, 64), (169, 4),
   (172, 9), (544, 1), (546, 32), (549, 4), (552, 1), (553, 1), (554, 8), (556, 2), (585, 224), (586, 255), (587, 255), (588, 255), (589, 31),
   (591, 64), (592, 1), (640, 255), (641, 255), (642, 255), (643, 255), (644, 255), (645, 255), (646, 255), (647, 255)]
def areaCells : Memory :=
  (0x1000, 1) :: (0x1001, 7) :: (0x1005, 0x30) :: (0x1008, 1) :: (0x100C, 5) :: (0x1010, 2) ::
  ((List.range 32).map (fun i => (0x1020 + i, areaDigest.getD i 0)) ++ areaRest.map (fun c => (0x1000 + c.1, c.2)))
/-- The workgroup is gone, its area stands at 0x1000. -/
def areaState : State :=
  let s := saving .brk 0x1000 5
  { s with wgs := [], mem := { s.mem with qv := [(0, areaCells)] } }
/-- What a read of eight bytes of the area gives. -/
def areaRead (p : Part) : List Byte := leBytes (p.2.1.bits / 8) (areaState.readLoc areaState.ref areaState.uid (quadOf areaState.wg.core) none p.2.1)
def areaParts (lo n : Nat) : List Part := (List.range n).map (fun k => (8 * (lo + k), ⟨.glob, 8 * (0x1000 + 8 * (lo + k)), 64⟩, some (0x1000 + 8 * (lo + k))))
def areaBytes0 : List Byte := (areaParts 0 1536).flatMap areaRead
theorem leNat_lt : ∀ bs : List Byte, leNat bs < 2 ^ (8 * bs.length)
  | [] => by simp [leNat]
  | b :: bs => by
    have h := leNat_lt bs
    have h2 := b.isLt
    simp only [leNat, List.length_cons, Nat.mul_add, Nat.pow_add]
    omega
theorem leBytes_leNat : ∀ bs : List Byte, leBytes bs.length (leNat bs) = bs
  | [] => rfl
  | b :: bs => by
    have h := b.isLt
    have h1 : (b.toNat + 256 * leNat bs) / 256 = leNat bs := by omega
    have h2 : BitVec.ofNat 8 (b.toNat + 256 * leNat bs) = b := by apply BitVec.eq_of_toNat_eq; simp; omega
    simp [leBytes, leNat, h1, h2, leBytes_leNat bs]
theorem areaParts_split : areaParts 0 1536 = areaParts 0 4 ++ (areaParts 4 4 ++ (areaParts 8 73 ++ areaParts 81 1455)) := by decide +kernel
theorem area_parts : areaState.parts 1 0x1000 12288 1 = .ok (areaParts 0 1536) ∧ areaState.parts 1 0x1000 512 1 = .ok (areaParts 0 64) ∧
    (areaParts 0 1536).any (fun p => areaState.locPoison p.2.1) = false := by
  rw [show 12288 = 8 * 1536 from rfl, show 512 = 8 * 64 from rfl, parts_aligned _ _ _ _ _ (by decide), parts_aligned _ _ _ _ _ (by decide)]
  decide +kernel
theorem area_byte : ∀ i, i < 32 → areaState.ownByte areaState.ref areaState.uid .glob (0x1020 + i)
    (areaState.copyByte (quadOf areaState.wg.core) none .glob (0x1020 + i)) = areaDigest.getD i 0 := by
  intro i hi
  interval_cases i <;> rfl
/-- Past byte 648 the area is all zeros. -/
theorem smGet_high (m : Memory) (b a : Nat) (ha : b ≤ a) (h : m.all (fun c => decide (c.1 < b)) = true) : smGet emptyByte m a = 0 := by
  induction m with
  | nil => rfl
  | cons c m ih =>
    simp only [List.all_cons, Bool.and_eq_true, decide_eq_true_eq] at h
    rw [smGet, if_neg (by omega), ih h.2]
theorem area_zero (a : Nat) (h1 : 0x1288 ≤ a) (h2 : a < 0x4000) : areaState.ownByte areaState.ref areaState.uid .glob a
    (areaState.copyByte (quadOf areaState.wg.core) none .glob a) = 0 := by
  have q : inHostWindow (offOf a) = false := by unfold inHostWindow offOf; simp only [decide_eq_false_iff_not]; omega
  show areaState.qvByte 0 a = 0
  unfold State.qvByte
  rw [q]
  exact smGet_high areaCells 0x1288 a h1 (by decide +kernel)
theorem area_zeros : (areaParts 81 1455).flatMap areaRead = List.replicate 11640 0 := by
  have r : ∀ (l : List Part), (∀ x ∈ l, areaRead x = List.replicate 8 0) → l.flatMap areaRead = List.replicate (8 * l.length) 0 := by
    intro l h
    induction l with
    | nil => rfl
    | cons x l ih =>
      rw [List.flatMap_cons, h x (by simp), ih (fun y hy => h y (by simp [hy])), List.replicate_append_replicate, List.length_cons]
      congr 1
      omega
  refine (r _ fun x hx => ?_).trans (by simp [areaParts])
  simp only [areaParts, List.mem_map, List.mem_range] at hx
  obtain ⟨k, hk, rfl⟩ := hx
  have w : 8 * (0x1000 + 8 * (81 + k)) / 8 = 0x1288 + 8 * k ∧ (8 * (0x1000 + 8 * (81 + k)) % 8 + 64 + 7) / 8 = 8 ∧
      8 * (0x1000 + 8 * (81 + k)) % 8 = 0 := by omega
  have e : areaState.readBytes areaState.ref areaState.uid (quadOf areaState.wg.core) none .glob (0x1288 + 8 * k) 8 = 0 := by
    have z : (List.range 8).map (fun i => areaState.ownByte areaState.ref areaState.uid .glob (0x1288 + 8 * k + i)
        (areaState.copyByte (quadOf areaState.wg.core) none .glob (0x1288 + 8 * k + i))) = List.replicate 8 0 := by
      rw [show List.replicate 8 (0 : Byte) = (List.range 8).map (fun _ => 0) from rfl]
      refine List.map_congr_left fun i hi => area_zero _ (by omega) ?_
      have := List.mem_range.mp hi
      omega
    unfold State.readBytes
    rw [z]
    rfl
  unfold areaRead State.readLoc
  simp only [w, e]
  rfl
theorem area_chunk (k : Nat) (hk : k < 4) : areaRead (8 * (4 + k), ⟨.glob, 8 * (0x1000 + 8 * (4 + k)), 64⟩, some (0x1000 + 8 * (4 + k))) =
    (areaDigest.drop (8 * k)).take 8 := by
  have h : ∀ bs : List Byte, bs.length = 8 → leBytes 8 (bitsN (leNat bs) 0 64) = bs := by
    intro bs h
    have h1 := leNat_lt bs
    have h2 := leBytes_leNat bs
    rw [h] at h1 h2
    have h3 : bitsN (leNat bs) 0 64 = leNat bs := by simp [bitsN]; omega
    rw [h3, h2]
  have len : ((areaDigest.drop (8 * k)).take 8).length = 8 := by simp [areaDigest, shaBytes, beBytes, leBytes_length]; omega
  have e : areaState.readBytes areaState.ref areaState.uid (quadOf areaState.wg.core) none .glob (0x1020 + 8 * k) 8 =
      leNat ((areaDigest.drop (8 * k)).take 8) := by
    unfold State.readBytes
    congr 1
    apply List.ext_getElem
    · rw [len]; simp
    · intro i h1 h2
      simp only [List.length_map, List.length_range] at h1
      have b := area_byte (8 * k + i) (by omega)
      have d : 8 * k + i < areaDigest.length := by simp [areaDigest, shaBytes, beBytes, leBytes_length]; omega
      rw [List.getD_eq_getElem _ _ d] at b
      simp only [List.getElem_map, List.getElem_range, List.getElem_take, List.getElem_drop, Nat.add_assoc]
      simpa only [Nat.add_assoc] using b
  have w : 8 * (0x1000 + 8 * (4 + k)) / 8 = 0x1020 + 8 * k ∧ (8 * (0x1000 + 8 * (4 + k)) % 8 + 64 + 7) / 8 = 8 ∧ 8 * (0x1000 + 8 * (4 + k)) % 8 = 0 := by
    omega
  unfold areaRead State.readLoc
  simp only [w, e]
  exact h _ len
theorem area_len (lo n : Nat) : ((areaParts lo n).flatMap areaRead).length = 8 * n := by
  simp [areaParts, List.length_flatMap, areaRead, leBytes_length, Function.comp_def, Nat.mul_comm]
theorem area_whole : areaBytes0 = areaHead ++ (areaDigest ++ areaTail) := by
  have mid : (areaParts 4 4).flatMap areaRead = areaDigest := by
    have r : areaParts 4 4 = (List.range 4).map (fun k => (8 * (4 + k), ⟨.glob, 8 * (0x1000 + 8 * (4 + k)), 64⟩, some (0x1000 + 8 * (4 + k)))) := rfl
    have q : (List.range 4) = [0, 1, 2, 3] := rfl
    rw [r, q]
    simp only [List.map_cons, List.map_nil, List.flatMap_cons, List.flatMap_nil, area_chunk _ (by decide : 0 < 4), area_chunk _ (by decide : 1 < 4),
      area_chunk _ (by decide : 2 < 4), area_chunk _ (by decide : 3 < 4)]
    have l32 : areaDigest.length = 32 := by simp [areaDigest, shaBytes, beBytes, leBytes_length]
    have t : ∀ n, (areaDigest.drop n).take 8 ++ areaDigest.drop (n + 8) = areaDigest.drop n := fun n => by
      rw [← List.drop_drop, List.take_append_drop]
    have t24 : areaDigest.drop 32 = [] := List.drop_of_length_le (by omega)
    rw [← t24, t 24, t 16, t 8, t 0, List.drop_zero]
  have h : (areaParts 0 4).flatMap areaRead = areaHead ∧ (areaParts 8 73).flatMap areaRead = areaTail.take 584 ∧
      List.replicate 11640 0 = areaTail.drop 584 := by decide +kernel
  rw [areaBytes0, areaParts_split, List.flatMap_append, List.flatMap_append, List.flatMap_append, mid, area_zeros, h.1, h.2.1, h.2.2,
    List.take_append_drop]
theorem area_digest : (areaBytes0.drop 32).take 32 = areaDigest := by
  have l1 : areaHead.length = 32 := by simp [areaHead, leBytes_length]
  have l2 : areaDigest.length = 32 := by simp [areaDigest, shaBytes, beBytes, leBytes_length]
  rw [area_whole, List.drop_left' l1, List.take_left' l2]
theorem area_rest : wordAt areaBytes0 0 = 12288 * 2 ^ 32 + 7 * 2 ^ 8 + 1 ∧ wordAt areaBytes0 1 = 5 * 2 ^ 32 + 1 ∧
    wordAt areaBytes0 2 = 2 ∧ wordAt areaBytes0 3 = 0 ∧ areaOk areaBytes0 = true ∧ areaState.wg.ctx = 1 ∧ areaEnded areaBytes0 = false := by
  rw [area_whole]
  decide +kernel
/-- What a read gives, from its parts; an area, from its two reads; what makes it good. -/
theorem peek_of {s : State} {sp a n : Nat} {ps : List Part} (h : s.parts sp a n 1 = .ok ps) : ∃ q, s.peek sp a n = .ok q ∧
    q.bytes = ps.flatMap (fun p => leBytes (p.2.1.bits / 8) (s.readLoc s.ref s.uid (quadOf s.wg.core) none p.2.1)) ∧
    q.psn = ps.any (fun p => s.locPoison p.2.1) ∧ q.vas = ps.filterMap (·.2.2) := by
  unfold State.peek
  rw [h]
  exact ⟨_, rfl, List.flatMap_def.symm, rfl, rfl⟩
theorem readArea_of {s : State} {a n : Nat} {hd q : Peek} (h : s.peek 1 a 512 = .ok hd) (hp : hd.psn = false) (w : wordAt hd.bytes 0 / 2 ^ 32 = n)
    (c : ¬ (n % 4096 ≠ 0 ∨ n = 0)) (k : s.peek 1 a n = .ok q) (kp : q.psn = false) : s.readArea a = .ok (q.bytes, q.vas) := by
  subst w
  unfold State.readArea
  simp only [h, hp, if_neg c, k, kp, Bool.false_eq_true, if_false]
theorem areaGood_of {s : State} {bs : List Byte} (h0 : wordAt bs 0 % 256 = 1) (h1 : bitsN (wordAt bs 1) 0 16 = s.wg.ctx % 65536)
    (h2 : bitsN (wordAt bs 1) 16 6 = partOf s.wg.ctx) (h3 : shaBytes (bs.drop 64) = (bs.drop 32).take 32) (h4 : areaOk bs = true) :
    s.areaGood bs = true := by
  unfold State.areaGood
  rw [h0, h1, h2, h3, h4]
  simp
theorem readGroup_one {s : State} {a : Nat} {bs : List Byte} {vas : List Nat} (h : s.readArea a = .ok (bs, vas)) (g : s.areaGood bs = true)
    (r : bitsN (wordAt bs 2) 10 2 = 0) (l : bitsN (wordAt bs 2) 8 2 = 0) (n : wordAt bs 3 = 0) : s.readGroup 0 0 1 0 a = .ok ([bs], vas) := by
  unfold State.readGroup
  simp only [h, g, r, l, n, State.readGroup, List.append_nil, Bool.not_true, Bool.false_eq_true, if_false, ne_eq, not_true_eq_false, or_self]
theorem area_peek : ∃ q, areaState.peek 1 0x1000 12288 = .ok q ∧ q.bytes = areaBytes0 ∧ q.psn = false ∧ q.vas = (areaParts 0 1536).filterMap (·.2.2) := by
  obtain ⟨q, h, b, p, v⟩ := peek_of area_parts.1
  exact ⟨q, h, b, p.trans area_parts.2.2, v⟩
theorem area_head : ∃ hd, areaState.peek 1 0x1000 512 = .ok hd ∧ hd.psn = false ∧ wordAt hd.bytes 0 = 12288 * 2 ^ 32 + 7 * 2 ^ 8 + 1 ∧
    wordAt hd.bytes 2 = 2 ∧ wordAt hd.bytes 3 = 0 := by
  have h : okIs (areaState.peek 1 0x1000 512) (fun p => !p.psn && wordAt p.bytes 0 == 12288 * 2 ^ 32 + 7 * 2 ^ 8 + 1 && wordAt p.bytes 2 == 2 &&
    wordAt p.bytes 3 == 0) = true := by decide +kernel
  generalize areaState.peek 1 0x1000 512 = x at h
  match x, h with
  | .ok p, h =>
    simp only [okIs, Bool.and_eq_true, beq_iff_eq, Bool.not_eq_true'] at h
    exact ⟨p, rfl, h.1.1.1, h.1.1.2, h.1.2, h.2⟩
theorem area_load : areaState.readArea 0x1000 = .ok (areaBytes0, (areaParts 0 1536).filterMap (·.2.2)) := by
  obtain ⟨hd, h, p, w, -, -⟩ := area_head
  obtain ⟨q, k, k1, k2, k3⟩ := area_peek
  rw [← k1, ← k3]
  exact readArea_of h p (by rw [w]; rfl) (by decide) k k2
theorem area_good : areaState.areaGood areaBytes0 = true := by
  obtain ⟨w0, w1, w2, w3, ok, c, -⟩ := area_rest
  have t : areaBytes0.drop 64 = areaTail := by
    rw [area_whole, ← List.append_assoc]
    exact List.drop_left' (by simp [areaHead, areaDigest, shaBytes, beBytes, leBytes_length])
  exact areaGood_of (by rw [w0]; rfl) (by rw [w1, c]; rfl) (by rw [w1, c]; rfl) (by rw [t, area_digest, areaDigest]) ok
theorem area_group : areaState.readGroup 0 0 1 0 0x1000 = .ok ([areaBytes0], (areaParts 0 1536).filterMap (·.2.2)) := by
  obtain ⟨-, -, w2, w3, -, -, -⟩ := area_rest
  exact readGroup_one area_load area_good (by rw [w2]; rfl) (by rw [w2]; rfl) w3
theorem area_pages : pagesOf ((areaParts 0 1536).filterMap (·.2.2)) = [0] := by
  have h : ((areaParts 0 1536).filterMap (·.2.2)).map (fun v => v / 65536 * 65536) = List.replicate 1536 0 := by decide +kernel
  rw [pagesOf, h, List.replicate_dedup (by decide)]
theorem witness_SaveResults_load : (sysRow 9).runs areaState h0 loadF = true ∧ (areaState.rf.rs 5).toNat = 0x1000 ∧
    areaState.m.acqPending areaState.uid = false ∧ areaState.pagesReady (pagesOf ((areaParts 0 1536).filterMap (·.2.2))) = true ∧
    ((areaState.reached (pagesOf ((areaParts 0 1536).filterMap (·.2.2)))).loadGroup [areaBytes0]).isSome = true ∧ areaEnded areaBytes0 = false ∧
    ∃ hd, areaState.peek 1 0x1000 512 = .ok hd ∧
      areaState.readGroup (bitsN (wordAt hd.bytes 2) 8 2) (wordAt hd.bytes 3) (bitsN (wordAt hd.bytes 2) 8 2 + 1) 0 0x1000 =
        .ok ([areaBytes0], (areaParts 0 1536).filterMap (·.2.2)) := by
  obtain ⟨hd, h, -, -, w2, w3⟩ := area_head
  rw [area_pages]
  refine ⟨by decide +kernel, by decide +kernel, by decide +kernel, by decide +kernel, ?_, area_rest.2.2.2.2.2.2, hd, h, ?_⟩
  · rw [area_whole]
    decide +kernel
  · rw [w2, w3]
    exact area_group
/-- No area stands at 0x1000; and no core is free for the one that does. -/
theorem witness_SaveResults_load_not :
    (let s := saving .brk 0x1000 5
     (sysRow 9).runs s h0 loadF = true ∧ okIs (s.peek 1 0x1000 512) (fun hd =>
       !(okIs (s.readGroup (bitsN (wordAt hd.bytes 2) 8 2) (wordAt hd.bytes 3) (bitsN (wordAt hd.bytes 2) 8 2 + 1) 0 0x1000) (fun _ => true))) = true) := by
  decide +kernel

theorem witness_SaveResults_faults :
    (sysRow 8).runs (saving .brk 0x1001 5) h0 saveF = true ∧ (sysRow 9).runs (saving .brk 0x1001 5) h0 loadF = true ∧
    (sysRow 8).runs (saving .brk 0x1000 6) h0 saveF = true ∧ (saving .brk 0x1000 6).savable 6 = none ∧
    ({ saveState with mem := { saveState.mem with msgs := [⟨0, ⟨2 ^ 32 + 5, 0⟩, 0, 1, 0, { val := 0 }, 1, false⟩] } } : State).mayDepart awayWu = false ∧
    (({ areaState with plat := { areaState.plat with fenced := [0, 1, 2, 3] } } : State).restoreGroup [awayWu]).isNone = true := by decide +kernel
/-- Two stressed workgroups on core 1, or one that stands alone. -/
def stressed : State :=
  { saveState with wgs := [{ stoppedWu .running with stress := 65536 }, { stoppedWu .running with wu := 2 ^ 32 + 6, group := [2 ^ 32 + 6], stress := 65536 }] }
theorem witness_SaveResults_moves :
    (let s := saving .preempt 0 0
     let w := stoppedWu .preempt
     s.findWu w.wu = some w ∧ (s.liveGroup w).all (fun x => x.stop != .running) = true ∧ s.mayDepart w = true) ∧
    (let w := { stoppedWu .running with stress := 65536 }
     stressed.findWu w.wu = some w ∧ stressed.mayMigrate w 2 = true ∧ stressed.mayMigrate w 256 = false ∧ w.group = [w.wu] ∧ stressed.eng.saves = []) := by
  decide +kernel
/-- FIPS 180-4's example of one block; twice the base point of P-256. -/
theorem test_crypto :
    sha256 [0x61, 0x62, 0x63] = 0xBA7816BF8F01CFEA414140DE5DAE2223B00361A396177A9CB410FF61F20015AD ∧
    ecMul (some ecG) 2 2 = some (0x7CF27B188D034F7E8A52380304B51AC3C08969E277F21B35A60B48FC47669978,
      0x07775510DB8ED040293D9AC69F7430DBBA7DADE63CE982299E04B79D227873D1) := by decide +kernel
theorem test_saves :
    ((after (.saveComplete (2 ^ 32 + 5)) (saving .preempt 0 0)).eng.saves.map (·.wu) = [2 ^ 32 + 5]) ∧
    ((after (.saveComplete (2 ^ 32 + 5)) (saving .preempt 0 0)).plat.forwards.map (fun g => (g.wu, g.core, g.toCore)) = [(2 ^ 32 + 5, 1, none)]) ∧
    ((after (.workgroupMigration (2 ^ 32 + 5) 2) stressed).wgs.map (fun x => (x.wu, x.core))).contains (2 ^ 32 + 5, 2) = true := by decide +kernel

/-! ### Witnesses: the schedulers -/

/-- Queue 0 of context 1: four entries at 0x50000; the head one launches what 0x2000 holds, the next has a reserved bit, EVT and tag 7 set. -/
def queued (head : W64) (withdrawn : List Nat) : State :=
  let lq : LQueue := { base := 0x50000, size := 4, head := head, tail := 3, withdrawn := withdrawn }
  { base with
    ctxs := smPut {} base.ctxs 1 { (smGet {} base.ctxs 1) with root := 0x10000, lq := [(0, lq)] }
    mem := { base.mem with
      pm := cells 0x2000 launchRec ++ mapped ++ cells 0x50000 (leBytes 8 0x2000 ++ leBytes 8 (7 * 2 ^ 32 + 2) ++ leBytes 8 0x2000 ++ leBytes 8 4) } }
def headOf (s : State) : Nat × Nat := s.lqEntry (smGet {} (smGet {} s.ctxs 1).lq 0) (smGet {} (smGet {} s.ctxs 1).lq 0).head.toNat
/-- The entry before the head one is a node that has not launched. -/
def queueWaits : State :=
  let s := queued 0 []
  let c := smGet {} s.ctxs 1
  { s with
    ctxs := smPut {} s.ctxs 1 { c with lq := [(0, { smGet {} c.lq 0 with prev := some ⟨1, 0, 9⟩ })] }
    eng := { s.eng with nodes := [{ ref := ⟨1, 0, 9⟩, gen := 0, st := .armed }] } }
theorem witness_SchedulerEvents_take :
    (smFind (queued 0 []).ctxs 1).isSome = true ∧ (smGet {} (smGet {} (queued 3 []).ctxs 1).lq 0).head = 3 ∧
    (smGet {} (smGet {} (queued 0 [0]).ctxs 1).lq 0).withdrawn.contains 0 = true ∧
    (smGet {} (smGet {} (queued 0 []).ctxs 1).lq 0).withdrawn.contains 0 = false ∧
    queueWaits.prevDone (smGet {} (smGet {} queueWaits.ctxs 1).lq 0) false = false ∧
    (let s := queued 0 []
     let c := smGet {} s.ctxs 1
     s.prevDone (smGet {} c.lq 0) (bitN (headOf s).2 0) = true ∧ okIs (s.entryLaunch c 1 0 (headOf s)) (fun _ => true) = true ∧
     (s.freeSlot 1 (s.queueDie c 0)).isSome = true ∧ (headOf s).2 / 2 ^ 32 = 7) ∧
    (let s := queued 1 []
     let c := smGet {} s.ctxs 1
     s.prevDone (smGet {} c.lq 0) (bitN (headOf s).2 0) = true ∧ okIs (s.entryLaunch c 1 0 (headOf s)) (fun _ => true) = false) := by decide +kernel
theorem test_launchEntryTake :
    (let t := after (.launchEntryTake 1 0) (queued 0 [])
     t.eng.nodes.map (fun n => (n.ref, n.st, n.tag, n.evt, n.kind)) = [(⟨1, 0, 1⟩, .armed, 7, true, 1)]) ∧
    (let t := after (.launchEntryTake 1 0) (queued 1 [])
     t.eng.nodes = [] ∧ smGet 0 t.plat.dieSeq 0 = 1) := by decide +kernel
/-- A kernel of one workgroup, a node before it, and what stands of it. -/
def nodeIn (f : Node → Node) : State :=
  let n : Node := { ref := ⟨1, 0, 3⟩, gen := 2, st := .armed, kind := 1, launch := { gx := 1, gy := 1, gz := 1 }, succs := [(⟨1, 0, 4⟩, 1)] }
  { base with
    eng := { base.eng with nodes := [f n, { ref := ⟨1, 0, 4⟩, gen := 1, st := .armed, pred := 1 }] } }
def theNode (s : State) : Node := (s.findNode ⟨1, 0, 3⟩).getD { ref := ⟨0, 0, 0⟩, gen := 0, st := .held }
/-- Launched with nothing dealt; with its group dealt to die 0; with all ended. -/
def launchedIn : State := nodeIn ({ · with st := .launched })
def dealtIn : State := nodeIn ({ · with st := .launched, nextGroup := 1, dealt := [(0, 0)] })
def overIn : State := nodeIn ({ · with st := .launched, nextGroup := 1, ended := 1 })
theorem witness_SchedulerEvents_nodes :
    (nodeIn id).findNode ⟨1, 0, 3⟩ = some (theNode (nodeIn id)) ∧
    [0, 1, 2].all (fun k => (theNode (nodeIn ({ · with kind := k }))).ready) = true ∧ (theNode (nodeIn ({ · with bytes := 1 }))).ready = false ∧
    (theNode (nodeIn id)).succs = [(⟨1, 0, 4⟩, 1)] ∧ ((nodeIn id).findNode ⟨1, 0, 4⟩).map (fun y => (y.gen, y.pred)) = some (1, 1) ∧
    dealtIn.kernelOver (theNode dealtIn) = false ∧ overIn.kernelOver (theNode overIn) = true ∧
    dealtIn.mayDeal (theNode dealtIn) = false ∧ launchedIn.mayDeal (theNode launchedIn) = true ∧ (launchedIn.dealDie (theNode launchedIn)).isSome = true := by
  decide +kernel
/-- A copy node of die 0, with its engine free or full. -/
def copyIn (busy : Bool) : State :=
  let s := nodeIn ({ · with kind := 2 })
  { s with eng := { s.eng with ops := if busy then engBusy.eng.ops else [] } }
theorem witness_SchedulerEvents_copy :
    [false, true].all (fun b => let s := copyIn b
      let n := theNode s
      n.ready && decide (2 ≤ n.kind) && s.unitsFull (s.copyUnits n.ref.die (n.engMoves.flatMap (·.locs))) == b) = true := by decide +kernel
theorem witness_SchedulerEvents_place :
    (dealtIn.nextSaved 0 = none ∧ launchedIn.nextDealt 0 = none ∧ (dealtIn.nextDealt 0).any (fun x => x.2 == 0) = true ∧
      codeRanks (theNode dealtIn).launch 0 = [0] ∧ (dealtIn.choose 1 { (theNode dealtIn).launch with clus := 1 } 0).isSome = true ∧
      (({ dealtIn with plat := { dealtIn.plat with fenced := [0] } } : State).choose 1 { (theNode dealtIn).launch with clus := 1 } 0).isNone = true) := by
  decide +kernel
def awayIn : State := { base with eng := { base.eng with saves := [stoppedWu .running] } }
/-- An ended workgroup that is not in focus, with nothing outstanding, or with a message on its way. -/
def endedIn (k : Nat) : State :=
  { base with
    wgs := [stoppedWu .ended]
    mem := { base.mem with msgs := List.replicate k ⟨0, ⟨2 ^ 32 + 5, 0⟩, 0, 1, 0, { val := 0 }, 1, false⟩ } }
theorem witness_SchedulerEvents_ends :
    awayIn.nextSaved 0 = some [stoppedWu .running] ∧ (awayIn.chooseFor [stoppedWu .running] 0).any (fun r => r.1.length == 1) = true ∧
    (endedIn 0).findWu (2 ^ 32 + 5) = some (stoppedWu .ended) ∧ (endedIn 0).spent (stoppedWu .ended) = true ∧ (endedIn 1).spent (stoppedWu .ended) = false ∧
    ({ base with wg := { base.wg with stop := .ended } } : State).spent { base.wg with stop := .ended } = true := by decide +kernel
theorem test_schedulers :
    ((after (.nodeLaunch ⟨1, 0, 3⟩) (nodeIn id)).eng.nodes.map (·.st) = [.launched, .armed]) ∧
    ((after (.nodeLaunch ⟨1, 0, 3⟩) (nodeIn ({ · with kind := 0 }))).eng.nodes.map (fun n => (n.ref.slot, n.pred)) = [(4, 0)]) ∧
    ((after (.nodeFinish ⟨1, 0, 3⟩) overIn).eng.nodes.map (fun n => (n.ref.slot, n.pred)) = [(4, 0)]) ∧
    ((theNode (after (.chunkDeal ⟨1, 0, 3⟩) launchedIn)).dealt.map (·.2) = [0]) ∧
    ((after (.workgroupPlace 0) dealtIn).wgs.map (fun w => (w.ctx, w.stop)) = [(1, .running)]) ∧
    ((after (.workgroupPlace 0) awayIn).wgs.map (·.wu) = [2 ^ 32 + 5]) ∧
    ((after (.resourceRelease (2 ^ 32 + 5)) (endedIn 0)).wgs = []) := by decide +kernel

/-! ### Witnesses: fences, links -/

theorem witness_FenceEvents :
    ({ base with plat := { base.plat with fenced := [1] } } : State).plat.fenced.contains 1 = true ∧ base.plat.fenced.contains 1 = false ∧
    State.reset.ctxs = [] ∧ State.reset.eng.nodes = [] ∧ State.reset.plat.fenced = [] ∧
    (let w := { stoppedWu (.fault true) with launch := { policy := 0 } }
     let s := { base with wgs := [w] }
     s.findWu w.wu = some w ∧ w.stop = .fault true ∧ w.launch.policy = 0) ∧
    (let w := stoppedWu .brk
     ({ base with wgs := [w] } : State).findWu w.wu = some w) := by decide +kernel
theorem test_fences :
    (let t := after (.diefence 3 2) State.reset
     t.plat.fenced = [3] ∧ smGet 0 t.plat.dieSeq 4 = 1) ∧
    (let t := after (.thermalTrip 300) base
     (smGet {} t.cores 300).margin = 0 ∧ t.plat.fenced = [1]) ∧
    ((after (.declareUnhandled (2 ^ 32 + 5)) { base with wgs := [stoppedWu (.fault true)] }).wgs.map (·.stop) = [.ended]) ∧
    ((smGet {} (after (.voltageDroop 3 0) base).cores 3).droops = [0]) ∧ ((smGet {} (after (.powerGating 3 true) base).cores 3).gated = true) := by
  decide +kernel
/-- Die links 0 to 2: with a window and two failures, with a window, at the end of a period. Optical links 0 to 6: with a window open and two
failures; down; with flits not acknowledged both ways, one of them late and the other damaged; at the end of a period, with wavelengths
back; at the end of one, at a quarter; with light on its lost wavelengths for long enough; with a flit on its way in. -/
def linked : State :=
  { base with
    plat := { base.plat with dieLinks := [(0, { window := true, fails := 2 }), (1, { window := true }), (2, { pcyc := 65536 })] }
    fab := { base.fab with
      links := [(0, { window := true, fails := 2 }), (1, { down := true }),
        (2, { up := { seq := 2, got := 2, acked := 4094, age := 40960 }, dn := { seq := 6, got := 5, acked := 5, nak := true } }),
        (3, { waves := 0x0FFF, pendUp := 0xF000, pcyc := 65536 }), (4, { rate := 2, pcyc := 65536 }),
        (5, { waves := 0x0FFF, light := 0xF000, lit := 2 ^ 20 }), (6, { dn := { seq := 6, got := 5, acked := 5 } })]
      laser := [{ die := 0, links := 2, wold := 16, modules := 8, cause := 0 }, { die := 1, links := 1, wold := 16, modules := 8, cause := 1 }] } }
theorem witness_LinkEvents_rates :
    (linked.dieLink 0).pcyc < 65536 ∧ 65536 ≤ (linked.dieLink 2).pcyc ∧ (linked.dieLink 0).window = true ∧ (linked.dieLink 2).window = false ∧
    (linked.link 0).pcyc < 65536 ∧ 65536 ≤ (linked.link 3).pcyc ∧ 65536 ≤ (linked.link 4).pcyc ∧ (linked.link 3).pendUp ≠ 0 ∧
    (linked.link 4).pendUp = 0 ∧ (linked.link 0).window = true ∧ (linked.link 47).window = false ∧ linked.noneHeld = true := by decide +kernel
theorem witness_LinkEvents_replay :
    ((linked.link 6).open && decide (((linked.link 6).dir false).seq ≠ ((linked.link 6).dir false).got)) = true ∧
    ((linked.link 47).open && decide (((linked.link 47).dir true).seq ≠ ((linked.link 47).dir true).got)) = false ∧
    (linked.dieLink 2).open = true ∧ (linked.dieLink 0).open = false ∧ (linked.link 0).open = false ∧ (linked.link 2).open = true ∧
    ((linked.link 2).dir true).got = 2 ∧ ((linked.link 2).dir false).nak = true ∧ ((linked.link 2).dir true).nak = false ∧
    ((linked.link 47).dir true).pending = 0 ∧ ((linked.link 2).dir true).pending = 4 ∧
    ackLimit (widthOf (linked.link 2).waves) ≤ ((linked.link 2).dir true).age ∧ ((linked.link 2).dir false).age < ackLimit (widthOf (linked.link 2).waves) := by
  decide +kernel
theorem witness_LinkEvents_waves :
    base.lossLinks 1 0xF000 0x800001 true ≠ [] ∧ base.lossLinks 0 0 0x800001 false = [] ∧ linked.litLinks 0 0xF000 0x20 = [5] ∧
    base.litLinks 0 0xF000 0x20 = [] ∧ base.fab.laser.find? (fun r => r.die = 0) = none ∧
    (linked.fab.laser.find? (fun x => x.die = 0)).any linked.laserDue = true ∧
    (linked.fab.laser.find? (fun x => x.die = 1)).any (fun r => !(linked.laserDue r)) = true := by decide +kernel
theorem test_links :
    ((after (.dieLinkRetrain 0 false) linked).plat.fenced = [1]) ∧
    ((after (.dieLinkRateStep 2 24) linked).dieLink 2 = { rate := 1, window := true, stepped := true }) ∧
    ((after (.linkRetrain 0 true) linked).link 0 = {}) ∧ (((after (.linkRetrain 0 false) linked).link 0).down = true) ∧
    ((after (.linkRateStep 3 50) linked).link 3 = { window := true, stepped := true }) ∧ (((after (.linkRateStep 4 76) linked).link 4).rate = 1) ∧
    (((after (.linkControl 4 2) linked).link 2).up.acked = 2) ∧ (((after (.linkControl 5 5) linked).link 2).dn.replayFrom = some 5) ∧
    (((after (.ackTimeout 4) linked).link 2).up.replayFrom = some 4094) ∧ (((after (.flitCrcFailure 13) linked).link 6).dn.nak = true) := by
  decide +kernel
/-- R364 to R366: a monitor's loss is that of all 24 links, a receiver's that of its own link. -/
theorem test_wavelengths :
    (let t := after (.wavelengthLoss 1 0xF000 0x800001 true) base
     (t.link 24).waves = 0x0FFF ∧ (t.link 25).window = true ∧ t.fab.laser.map (fun r => (r.die, r.links, r.wold, r.modules, r.cause)) =
       [(1, 0xFFFFFF, 16, 8, 0)]) ∧
    (let t := after (.wavelengthLoss 1 0xF000 0x800001 false) base
     (t.link 47).window = true ∧ t.link 25 = {} ∧ t.fab.laser.map (fun r => (r.die, r.links, r.wold, r.modules, r.cause)) = [(1, 0x800001, 16, 8, 1)]) ∧
    (let t := after (.wavelengthRestore 0 0xF000 0x20) linked
     (t.link 5).pendUp = 0xF000 ∧ t.fab.laser.map (·.cause) = [0, 1, 2]) ∧
    (let t := after (.laserloss 0) linked
     t.fab.laser.map (·.die) = [1] ∧ smGet 0 t.plat.dieSeq 4 = 1) := by decide +kernel
/-- R359: the polynomial is the CRC of a one; R383: windows and timeouts at W = 12; a message goes over the wire and back. -/
theorem test_flits :
    crc64 [1] = 0x42F0E1EBA9EA3693 ∧ creditWindow 12 = 192 ∧ ackLimit 12 = 54614 ∧ scaledTime (2 ^ 20) 12 = 1398102 ∧
    wavesUsed 0xFFEF = [0, 1, 2, 3, 5, 6, 7, 8, 9, 10, 11, 12] ∧
    (let m : FabMsg := { kind := 6, src := 4, dst := 2, tag := 9, line := 77, data := [(8, 3), (9, 4)], op := 5, size := 2, opa := 6, opb := 7, seq := some 40 }
     let fs := (onWire { waves := 0x0FFF } m).filterMap (unstripe 0x0FFF)
     fs.length = 2 ∧ (fs.zipIdx).all (fun f => flitGood (f.2 == 0) f.1) = true ∧ msgIn (fun _ => 0) fs = m) := by decide +kernel

/-! ### Witnesses: the fabric -/

/-- The switches' entries: line 1 shared by 2 and 3, line 2 modified at 4, lines 3 and 4 with a transaction in progress; messages on their
way. -/
def fabric (ms : List FabMsg) : State :=
  { base with
    mem := { base.mem with writes := [] }
    fab := { base.fab with
      net := ms
      dir := [(1, { st := 1, sharers := [2, 3] }), (2, { st := 3, owner := 4 }), (3, { st := 1, sharers := [2] })]
      trans := [{ line := 3, req := some { kind := 3, src := 2, line := 3 }, acks := [2, 5] }, { line := 4, req := some { kind := 2, src := 4, line := 4 }, acks := [5] }]
      peer := [(7, 2), (8, 3)]
      evict := [(9, 3)]
      kept := [(4, 6, 1)] } }
def reqOf (k line : Nat) : FabMsg := { kind := k, src := 4, dst := 0, line := line, seq := some 0 }
/-- A message has its turn: whether it waited, and what is asked of the state without it. -/
def turns (s : State) (k : Nat) (w : Bool) (p : FabMsg → State → Bool) : Bool := (s.turn k).any (fun x => x.1 == w && p x.2.1 x.2.2)
theorem witness_RequestEvents_lines :
    [1, 2, 3, 4, 5, 6].all (fun k => (fabric []).turn k == none && turns (fabric [reqOf k 3]) k false (fun m u => u.lineQueued m.line)) = true ∧
    requests.all (fun r => let f := fabric [reqOf r.2 0]
      turns f r.2 false (fun m u => u.upNow false m.line && !(u.setFull 0) && (f.entryOf 0).asks r.2 m.src == []) &&
      turns (fabric [reqOf r.2 1]) r.2 false (fun m u => u.upNow false m.line && (u.entryOf 1).st == 1 && (f.entryOf 1).asks r.2 m.src != [])) = true ∧
    turns { fabric [] with fab := { (fabric []).fab with waiting := [reqOf 4 0] } } 4 true (fun m u => u.upNow true m.line) = true := by decide +kernel
/-- Some line finds its set full, wherever the directory's sets lie (R368, R375). -/
theorem full_set : ∃ (line : Nat) (d : SMap DirEntry), ∀ u : State, u.fab.dir = d → u.fab.remap = [] → u.setFull line = true := by
  obtain ⟨y, hy⟩ := Finite.exists_infinite_fiber (fun k : Nat => (⟨Machine.setOf (2 ^ 50 * k), Nat.mod_lt _ (by decide)⟩ : Fin (2 ^ 20)))
  obtain ⟨t, ht, hc⟩ := (Set.infinite_coe_iff.mp hy).exists_subset_card_eq 17
  obtain ⟨k0, hk0⟩ : t.Nonempty := Finset.card_pos.mp (by omega)
  have hs : ∀ k ∈ t, Machine.setOf (2 ^ 50 * k) = y.val := fun k hk => by
    have := ht hk
    simp only [Set.mem_preimage, Set.mem_singleton_iff] at this
    exact congrArg Fin.val this
  have hh : ∀ k, hashOf (128 * (2 ^ 50 * k)) = 0 := fun k => by
    have h1 : bitsN (128 * (2 ^ 50 * k)) 7 12 = 0 ∧ bitsN (128 * (2 ^ 50 * k)) 19 12 = 0 ∧ bitsN (128 * (2 ^ 50 * k)) 31 12 = 0 ∧
        bitsN (128 * (2 ^ 50 * k)) 43 12 = 0 ∧ bitsN (128 * (2 ^ 50 * k)) 55 2 = 0 := by unfold bitsN; omega
    simp only [hashOf, h1, Nat.xor_self]
  refine ⟨2 ^ 50 * k0, (t.erase k0).toList.map (fun k => (2 ^ 50 * k, { st := 1, sharers := [2] })), fun u hd _ => ?_⟩
  have hp : ∀ k, u.planeOf (2 ^ 50 * k) = u.remapAt 0 := fun k => by rw [State.planeOf, hh]
  have he : ∀ (l : List Nat), k0 ∉ l → smGet ({} : DirEntry) (l.map (fun k => (2 ^ 50 * k, { st := 1, sharers := [2] }))) (2 ^ 50 * k0) = {} := by
    intro l hl
    induction l with
    | nil => rfl
    | cons k l ih =>
      simp only [List.mem_cons, not_or] at hl
      rw [List.map_cons, smGet, if_neg (by omega), ih hl.2]
  have hf : u.setLines (2 ^ 50 * k0) = u.fab.dir := by
    unfold State.setLines
    rw [List.filter_eq_self]
    intro e he
    rw [hd, List.mem_map] at he
    obtain ⟨k, hk, rfl⟩ := he
    have hk1 := Finset.mem_of_mem_erase (Finset.mem_toList.mp hk)
    simp only [hp, hs k hk1, hs k0 hk0, beq_self_eq_true, Bool.and_self]
  unfold State.setFull State.entryOf
  rw [hf, hd, he _ (by simp), List.length_map, Finset.length_toList, Finset.card_erase_of_mem hk0, hc]
  rfl
/-- The only message on its way, another package's request, has its turn. -/
theorem turn_one {s : State} {m : FabMsg} (hw : s.fab.waiting = []) (hn : s.fab.net = [m]) (hb : s.fab.barNet = []) (hs : m.seq = some 0)
    (hp : (m.src == s.plat.pkg) = false) (hk : (s.crossing m).down = false) :
    s.turn m.kind = some (false, m, { s with fab := { s.fab with net := [] } }) := by
  have hd : ∀ t : State, t.plat = s.plat → t.dirsOf (s.crossing m) = [] := fun t ht => by
    have e : (s.crossing m).src = m.src := rfl
    simp [State.dirsOf, hk, e, ht, hp]
  have ha : s.arrives (s.crossing m) = true := by simp [State.arrives, hd]
  simp [State.turn, hw, State.firstWaiting, State.takeMsg, State.firstMsg, hn, hs, ha, dropFirst, State.received, hd, State.pump, hb]
/-- The states of `full_set` with a request of kind k for the line on its way. -/
def crowded (k line : Nat) (d : SMap DirEntry) : State := { base with fab := { base.fab with net := [reqOf k line], dir := d } }
theorem witness_RequestEvents_full : ∀ r ∈ requests, ∃ (s : State) (w : Bool) (m : FabMsg) (u : State), s.turn r.2 = some (w, m, u) ∧
    u.upNow w m.line = true ∧ u.setFull m.line = true := by
  obtain ⟨line, d, h⟩ := full_set
  intro r hr
  have hr : r.2 = 1 ∨ r.2 = 2 ∨ r.2 = 3 := by
    simp only [requests, List.mem_cons, List.not_mem_nil, or_false] at hr
    rcases hr with rfl | rfl | rfl <;> simp
  have hk : ((crowded r.2 line d).crossing (reqOf r.2 line)).down = false := by
    rcases hr with e | e | e <;> rw [e] <;> rfl
  have z : base.fab.waiting = [] ∧ base.fab.barNet = [] ∧ base.plat.pkg = 0 ∧ base.fab.trans = [] ∧ base.fab.remap = [] := by decide +kernel
  refine ⟨_, _, _, _, turn_one (s := crowded r.2 line d) (m := reqOf r.2 line) z.1 rfl z.2.1 rfl ?_ hk, ?_, h _ rfl z.2.2.2.2⟩
  · rw [show (crowded r.2 line d).plat.pkg = 0 from z.2.2.1]
    rfl
  · simp [State.upNow, State.lineQueued, State.lineBusy, show (crowded r.2 line d).fab.trans = [] from z.2.2.2.1,
      show (crowded r.2 line d).fab.waiting = [] from z.1]
def atomMsg : FabMsg := { kind := 6, src := 4, dst := 0, tag := 9, line := 0, data := [(8, 0)], op := 0, size := 4, opa := 5, seq := some 0 }
theorem witness_RequestEvents_home :
    turns (fabric [atomMsg]) 6 false (fun m u => u.upNow false m.line && (u.entryOf m.line).holders == [] && u.keptOf m == none &&
      decide (((m.data.head?).map (·.1)).getD 0 + m.size ≤ 128)) = true ∧
    turns (fabric [reqOf 4 2]) 4 false (fun m u => u.upNow false m.line && m.op == 0 && ((fabric []).entryOf 2).st == 3 && ((fabric []).entryOf 2).owner == m.src) = true ∧
    turns (fabric [reqOf 4 0]) 4 false (fun m u => u.upNow false m.line && m.op == 0 && ((fabric []).entryOf 0).st == 0) = true ∧
    turns (fabric [{ reqOf 4 0 with op := 1 }]) 4 false (fun m u => u.upNow false m.line && m.op == 1 && ((fabric []).entryOf 0).holders == []) = true ∧
    turns (fabric [reqOf 5 1]) 5 false (fun m u => u.upNow false m.line) = true := by decide +kernel
theorem test_requests :
    (let t := after .readShared (fabric [reqOf 1 0])
     t.entryOf 0 = { st := 2, owner := 4 } ∧ t.fab.net.map (fun x => (x.kind, x.dst, x.op)) = [(10, 4, 0), (12, 4, 2)]) ∧
    (let t := after .readExclusive (fabric [reqOf 2 1])
     t.fab.trans.map (fun x => (x.line, x.acks)) = [(3, [2, 5]), (4, [5]), (1, [2, 3])] ∧ t.fab.net.map (fun x => (x.kind, x.dst)) = [(7, 2), (8, 3)]) ∧
    (let t := after .readShared (fabric [reqOf 1 3])
     t.fab.waiting.map (·.line) = [3] ∧ t.fab.net = []) ∧
    (let t := after .atomic (fabric [atomMsg])
     t.gmByte 8 = 5 ∧ t.keptOf atomMsg = some 0 ∧ t.fab.net.map (fun x => (x.kind, x.dst, x.opa)) = [(10, 4, 0)]) ∧
    (let t := after .writeBack (fabric [reqOf 4 2])
     t.entryOf 2 = {} ∧ t.fab.net.map (fun x => (x.kind, x.dst)) = [(11, 4)]) ∧
    ((after .cleanEviction (fabric [{ reqOf 5 1 with src := 3 }])).entryOf 1).sharers = [2] := by decide +kernel
def toMe (k line op : Nat) : FabMsg := { kind := k, src := 4, dst := 0, line := line, op := op, seq := some 0 }
/-- Data of line 6. -/
def dataMsg : FabMsg := { toMe 10 6 0 with data := (List.range 128).map (fun i => (i, BitVec.ofNat 8 (i + 1))) }
/-- The next message of a kind, with what is asked of it. -/
def nextMsg (s : State) (k : Nat) (p : FabMsg → Bool) : Bool := (s.takeMsg k).any (fun x => p x.1)
theorem witness_HolderEvents :
    base.plat.pkg = 0 ∧ [7, 8, 9, 10, 11, 12, 13].all (fun k => (fabric []).takeMsg k == none) = true ∧
    [(7, 7, 1), (8, 8, 0), (9, 1, 0), (10, 7, 0), (13, 7, 0), (12, 7, 2), (11, 9, 1), (11, 7, 2)].all (fun x =>
      nextMsg (fabric [toMe x.1 x.2.1 x.2.2]) x.1 (fun m => m.dst == 0) &&
      nextMsg (fabric [{ toMe x.1 x.2.1 x.2.2 with dst := 6 }]) x.1 (fun m => m.dst != 0)) = true ∧
    (fabric []).mem.writes = [] ∧ nextMsg (fabric [{ toMe 11 3 0 with src := 5 }]) 11 (fun m => ((fabric []).findTrans m.line).any (fun tr =>
      tr.acks.erase m.src != [] && tr.recallCause == none)) = true ∧
    nextMsg (fabric [{ toMe 11 4 0 with src := 5 }]) 11 (fun m => ((fabric []).findTrans m.line).any (fun tr =>
      tr.acks.erase m.src == [] && tr.recallCause == none && tr.req.any (fun q => q.kind == 2))) = true ∧
    nextMsg (fabric [{ toMe 11 3 3 with src := 5 }]) 11 (fun m => m.op == 3) = true ∧
    (fabric []).fab.arrived = [] ∧ (after .data (fabric [dataMsg])).fab.arrived = [dataMsg] := by decide +kernel
/-- A recall of line 1 under way, and one whose window has run out. -/
def recalling : State := after (.lineRecall 1 2) (fabric [])
def overdueRecall : State := { recalling with fab := { recalling.fab with trans := recalling.fab.trans.map (fun x => { x with age := 2 ^ 40 }) } }
theorem witness_HolderEvents_recall :
    (fabric []).possible 6 = [] ∧ (fabric []).possible 1 = [2, 3] ∧ ((fabric []).findTrans 3).bind (·.recallCause) = none ∧
    (recalling.findTrans 1).any (fun tr => tr.recallCause == some 2 && decide (tr.age < recalling.recallLimit (recalling.planeOf 1))) = true ∧
    (overdueRecall.findTrans 1).any (fun tr => tr.recallCause == some 2 && decide (overdueRecall.recallLimit (overdueRecall.planeOf 1) ≤ tr.age) &&
      !(overdueRecall.owesAnswer 1 tr)) = true ∧
    (let s : State := { overdueRecall with plat := { overdueRecall.plat with pkg := 2 } }
     (s.findTrans 1).any (fun tr => s.owesAnswer 1 tr) = true) := by
  decide +kernel
theorem test_holders :
    (let t := after .forward (fabric [toMe 7 8 1])
     smGet 0 t.fab.peer 8 = 4 ∧ t.fab.net.map (fun x => (x.kind, x.dst)) = [(10, 4), (11, 0)]) ∧
    ((after .invalidate (fabric [toMe 8 8 0])).holding 8 = 0) ∧
    ((after .recallReq (fabric [toMe 9 8 0])).fab.net.map (fun x => (x.kind, x.op, x.size)) = [(11, 3, 3)]) ∧
    (let t := after .grant (after .data (fabric [dataMsg, toMe 12 6 3]))
     smGet 0 t.fab.peer 6 = 3 ∧ memGet t.mem.pm (128 * 6) = 1 ∧ memGet t.mem.pm (128 * 6 + 127) = 128) ∧
    (smGet 0 (after .acknowledgement (fabric [toMe 11 9 1])).fab.evict 9 = 0) ∧
    ((after .acknowledgement (fabric [{ toMe 11 3 0 with src := 5 }])).fab.trans.map (·.acks) = [[2], [5]]) ∧
    (recalling.fab.net.map (fun x => (x.kind, x.dst)) = [(9, 2), (9, 3)]) ∧
    ((after (.recallWindowExpiry 1) overdueRecall).fab.trans.map (·.line) = [3, 4]) := by decide +kernel
/-- What PLANEDOWN asks. -/
def planeOk (s : State) (plane cause : Nat) : Bool :=
  decide (plane < 48) && !(s.fab.lost.contains plane) && decide (s.livePlanes.filter (· != plane) ≠ []) && decide (cause < 3) &&
    !(decide (cause = 1) && !((s.link plane).down))
/-- An increment, a complete one, and a completion of a barrier for which nothing has arrived. -/
def barMsg (n expect : Nat) : BarMsg :=
  { pkg := 0, die := 1, part := 0, ctxid := 1, node := 3 * 4096, bar := 2, phase := 0, n := n, expect := expect, src := 5, seq := some 0 }
def doneMsg : BarMsg := { barMsg 0 0 with op := 1, src := 0, dst := 0 }
def barState (m : BarMsg) : State := { base with fab := { base.fab with barNet := [m] } }
theorem witness_PlaneAndBarrierEvents :
    planeOk base 47 0 = true ∧ planeOk base 47 1 = false ∧ planeOk linked 1 1 = true ∧ planeOk base 48 0 = false ∧
    (base.takeBar (fun m => m.op != 1 && base.barRoom m)).isNone = true ∧ [1, 2].all (fun n => let s := barState (barMsg n 2)
      (s.takeBar (fun m => m.op != 1 && s.barRoom m)).any (fun x => x.1 == barMsg n 2)) = true ∧
    base.fab.bars.find? (fun b => sameBar b.ident (barMsg 1 2)) = none ∧ (base.takeBar (fun m => m.op == 1)).isNone = true ∧
    ((barState doneMsg).takeBar (fun m => m.op == 1)).any (fun x => x.1 == doneMsg) = true ∧
    ((barState doneMsg).wideBar (podKey doneMsg)).phase = 0 ∧
    ((barState { doneMsg with phase := 1 }).takeBar (fun m => m.op == 1)).isSome = true := by decide +kernel
theorem test_barriers :
    (let t := after .barrierIncrement (barState (barMsg 1 2))
     t.fab.bars.map (fun b => (b.phase, b.count, b.expect)) = [(0, 1, 2)]) ∧
    (let t := after .barrierIncrement (barState (barMsg 2 2))
     t.fab.bars = [] ∧ t.fab.barNet.map (fun x => (x.dst, x.op, x.n)) = [(5, 1, 2)]) ∧
    ((after .barrierCompletion (barState doneMsg)).wideBar (podKey doneMsg)).phase = 1 := by decide +kernel
/-- R379: REMAP names no lost plane afterwards; a record is posted at the far die. -/
theorem test_planedown :
    (let t := after (.planedown 47 0 0) base
     t.remapAt 47 = 0 ∧ t.remapAt 95 = 1 ∧ t.remapAt 46 = 46 ∧ t.fab.lost = [47] ∧ smGet 0 t.plat.dieSeq 5 = 1) := by decide +kernel

/-! ### Witnesses: the host, the mailbox, SPDM, start and power -/

/-- The device serves commands; partition 0 exists, queue 1 of context 1 is of 4 entries; the command given is at the head of the ring. -/
def mbox (ws : List Nat) : State :=
  let lq : LQueue := { base := 0x50000, size := 4, head := 1, tail := 2 }
  { base with
    ctxs := [(1, { (smGet {} base.ctxs 1) with lq := [(1, lq)], stopped := true })]
    wgs := [{ stoppedWu .brk with wu := 2 ^ 32 + 6, group := [2 ^ 32 + 6] }, stoppedWu .running]
    mem := { base.mem with
      pm := cells 0x60000 (ws.flatMap (leBytes 8)) ++ cells 0x61000 ([0x10000, 0, 0, 1, 0x7000, 4].flatMap (leBytes 8)) ++ cells 0x62000 (leBytes 8 (4 * 2 ^ 32 + 1) ++ leBytes 4 9) ++
        cells 0x63000 (leBytes 8 0x80000) }
    host := { base.host with mb := { base := 0x60000, size := 4, head := 0, tail := 1, vec := 0x803 }, featoff := 1, doeReq := [1] }
    plat := { base.plat with started := true, step5 := true, full := true, parts := [0], hbmStacks := [], flash := [{ gen := 1, valid := true }, {}] } }
/-- What `atHead` asks. -/
def headMet (s : State) (op : Nat) : Bool := s.plat.started && s.plat.step5 && s.mbHead.any (fun ws => ws.getD 0 0 == op)
theorem headMet_atHead (s : State) (op : Nat) (h : headMet s op = true) : ∃ w, s.atHead op w := by
  simp only [headMet, Bool.and_eq_true, Option.any_eq_true, beq_iff_eq] at h
  obtain ⟨⟨h1, h2⟩, ws, h3, h4⟩ := h
  exact ⟨fun i => ws.getD i 0, h1, h2, ws, h3, h4, fun _ => rfl⟩
theorem witness_HostAccess :
    base.plat.step5 = false ∧ (mbox []).plat.step5 = true ∧ (mbox []).hdmPa 0 5 = some 5 ∧ (mbox []).hdmOk 0 5 = true ∧ (mbox []).fencedByte 5 = false ∧
    (smFind (mbox []).ctxs 1).isSome = true ∧ (mbox []).ctxs ≠ [] ∧ State.reset.ctxs = [] := by decide +kernel
theorem test_host :
    ((after (.hostMemAccess 0 5 (some [7]) 1) (mbox [])).gmByte 5 = 7) ∧
    ((after (.hostMemAccess 0 0x60000 none 2) (mbox [9])).host.memResp = [some 9, some 0]) ∧
    ([(5, 5), (6, 2), (0, 2), (1, 2)].all (fun x => decide ((smGet {} (smGet {} (after (.lqtail 1 1 (BitVec.ofNat 64 x.1)) (mbox [])).ctxs 1).lq 1).tail =
      BitVec.ofNat 64 x.2))) = true ∧
    ((after (.featacc false 3) { State.reset with host := { State.reset.host with featoff := 1 } }).host.featacc = 1) ∧
    ((smGet {} (after (.hostRegisterWrite (some 1) 0xA0 0xFFFFF) (mbox [])).ctxs 1).eq.vec = 0xFFF) := by decide +kernel
theorem witness_MailboxResults_head :
    mailbox.all (fun r => headMet (mbox [r.2]) r.2) = true ∧ State.reset.mbHead = none ∧ base.plat.started = true ∧ State.reset.plat.started = false ∧
    (mbox [13]).mbHead.any (fun ws => decide (12 < ws.getD 0 0)) = true ∧ bitN (mbox [1]).host.mb.vec.toNat 11 = true := by decide +kernel
/-- The workgroup in focus is stopped with a timeout under way, and is to be resumed. -/
def resting (st : Stop) : State :=
  let s := mbox [4, 0, 1, 9]
  { s with wg := { s.wg with stop := st, wu := 2 ^ 32 + 9 }, m := { s.m with wt := [⟨false, some 7, 0⟩] } }
/-- Each command with operands that meet what its clause asks. -/
theorem witness_MailboxResults_commands :
    (let s := mbox [1, 0, 0x61000]
     let d (i : Nat) : Nat := s.pmNat (0x61000 + 8 * i) 8
     headMet s 1 = true ∧ (s.rangePoison 0x61000 64 || s.badCtx 0 d) = false ∧ d 0 % 4 = 0 ∧ s.newCtxid 0 = some 2) ∧
    (let s := mbox [2, 0, 1]
     okIs (s.mbCtx 0 1) (· == 1) = true ∧ okIs (s.mbCtx 0 2) (· == 1) = false) ∧
    (let s := mbox [3, 0, 1, 5]
     s.liveWu 1 5 = some (stoppedWu .running) ∧ s.here (2 ^ 32 + 5) = true) ∧
    (let s := mbox [4, 0, 1, 6]
     (s.liveWu 1 6).any (fun x => decide (s.findWu x.wu = some x) && decide (x.stop = .brk)) = true) ∧
    (let s := resting (.fault true)
     (s.liveWu 1 9).any (fun x => decide (s.findWu x.wu = some x) && decide (x.stop = .fault true) && x.wu == s.wg.wu) = true) ∧
    (let s := mbox [5, 0, 1, 15, 0x62000]
     let hd := s.pmNat 0x62000 8
     (decide (15 < 16) && bitsN hd 53 11 == 0 && bitsN hd 21 11 == 0 && bitsN hd 32 21 != 0 && decide (bitsN hd 32 21 ≤ 2 ^ 20) &&
       decide (bitsN hd 0 21 ≤ bitsN hd 32 21) && !(s.rangePoison 0x62000 (8 + 4 * bitsN hd 0 21))) = true) ∧
    (let s := mbox [6, 0, 0, 0x63000, 1]
     let fs := (List.range 1).map (fun i => s.pmNat (0x63000 + 8 * i) 8)
     (s.rangePoison 0x63000 8 || !(fs.all (s.frameOk 0 0))) = false ∧ fs = [0x80000]) ∧
    (let s := { mbox [7, 0x70000] with ctxs := [] }
     headMet s 7 = true ∧ s.rangePoison 0x70000 4096 = false ∧ (List.range 4096).all (fun e => decide (s.pmNat (0x70000 + e) 1 ≤ 47)) = true) ∧
    ((mbox [8, 1]).plat.parts.contains 1 = false ∧ ({ mbox [9, 0] with ctxs := [] } : State).ctxs.any (fun c => partOf c.1 = 0) = false) ∧
    (smGet {} (mbox []).ctxs 1).stopped = true ∧ (validCopy (mbox []).plat.flash).isSome = true := by decide +kernel
/-- Step 3 has failed: the host port works, and no service has opened. -/
def portOnly (ws : List Nat) : State := { mbox ws with plat := { (mbox ws).plat with started := false, step5 := false, full := false, startStep := 11 } }
theorem witness_MailboxResults_readstart :
    (portOnly [10]).serves 10 = true ∧ (portOnly [10]).serves 11 = false ∧ (portOnly [10]).mbHead.any (fun ws => ws.getD 0 0 == 10) = true ∧
    (validCopy (portOnly [10]).plat.flash).any (fun c => decide ((c.steps.getD 1 {}).outcome = 0)) = true ∧
    State.reset.serves 10 = false ∧ State.reset.plat.startStep < 2 := by decide +kernel
theorem test_mailbox :
    ((after .create (mbox [1, 0, 0x61000])).ctxs.map (fun c => (c.1, c.2.htbase, c.2.htsize)) = [(1, 0, 0), (2, 0x7000, 4)]) ∧
    ((after .destroy (mbox [2, 0, 1])).ctxs.length = 0) ∧
    ((after .preempt (mbox [3, 0, 1, 5])).wgs.map (·.stop) = [.brk, .preempt]) ∧ ((after .resume (mbox [4, 0, 1, 6])).wgs.map (·.stop) = [.running, .running]) ∧
    ((after .resume (resting .preempt)).m.wt.length = 0 ∧ (after .resume (resting .brk)).m.wt.length = 1) ∧
    ((smGet {} (after .setpool (mbox [5, 0, 1, 15, 0x62000])).ctxs 1).pools = [(15, { cap := 4, pages := [9] })]) ∧
    (smGet [] (after .setreserve (mbox [6, 0, 0, 0x63000, 1])).plat.nearRes 0 = [0x80000]) ∧
    ((after .partnew (mbox [8, 1])).plat.parts = [0, 1]) ∧ ((after .partfree { mbox [9, 0] with ctxs := [] }).plat.parts = []) ∧
    ((smGet {} (after .resetctx (mbox [12, 0, 1])).ctxs 1).stopped = false) ∧
    (let t := after .malformedCommand (mbox [13])
     t.gmByte 0x60001 = 1 ∧ t.gmByte 0x60007 = 1 ∧ t.host.mb.head = 1) := by decide +kernel
/-- R404: an hour of twilight counts, and one of the lasers once the fabric is offered; R400: bit 0 of FEATOFF is set at reset. -/
theorem test_hour :
    (portOnly []).hour.plat.almanac.twilight = 0 ∧ ({ base with plat := { base.plat with started := true, full := false } } : State).hour.plat.almanac.twilight = 1 ∧
    ({ base with host := { base.host with featoff := 2 } } : State).hour.plat.almanac.laser.length = 8 ∧ State.reset.host.featoff.getLsbD 0 = true := by decide +kernel
theorem witness_SpdmResults : spdmRows.length = 7 ∧ State.reset.host.doeReq = [] ∧ (mbox []).host.doeReq ≠ [] := by decide +kernel
/-- Before start step k; the step fails or not; what it finds. -/
def starting (k : Nat) (ok : Bool) : State :=
  { State.reset with plat := { State.reset.plat with startStep := k - 1, startRes := List.replicate 10 { primary := ok, alternate := ok, found := [4, 13] } } }
theorem witness_StartAndPower :
    (takeStep 4 ((starting 4 true).stepRec 4) ((starting 4 true).stepRes 4)).2.2 = (true, false) ∧
    (takeStep 5 ((starting 5 true).stepRec 5) ((starting 5 true).stepRes 5)).2.2.1 = true ∧
    (takeStep 10 ((starting 10 true).stepRec 10) ((starting 10 true).stepRes 10)).2.2.1 = true ∧
    (takeStep 1 ((starting 1 false).stepRec 1) ((starting 1 false).stepRes 1)).2.2.2 = true ∧
    base.plat.startStep = 11 ∧ 39000 < ({ base.plat with powerDW := 39001 } : Platform).powerDW ∧ base.plat.powerDW < 37000 ∧
    (mbox []).plat.flash.length = 2 := by decide +kernel
theorem test_start :
    ((after .powerOn (starting 4 true)).plat.clockMHz = 500) ∧ ((after .powerOn (starting 5 true)).plat.hbmStacks = [4]) ∧
    ((after .powerOn (starting 10 true)).plat.full = true) ∧ ((after .powerOn (starting 1 false)).plat.startStep = 11) ∧
    ((after .powerCap { base with plat := { base.plat with powerDW := 39001, clockMHz := 520 } }).plat.clockMHz = 500) ∧
    ((after (.powerLoss (some 1)) { State.reset with plat := { State.reset.plat with flash := [{ valid := true }, { valid := true }] } }).plat.flash.map (·.valid) =
      [true, false]) := by decide +kernel

/-! ### Witnesses: encodings, the step, faults -/

theorem witness_EncodingsAgree :
    wellFormed (.iadd h0 { a0 with dst := 8, sa := 9, sb := 511, ty := 12, imm := 1 }) = true ∧
    (encode (.iadd h0 { a0 with dst := 8, sa := 9, sb := 511, ty := 12, imm := 1 })).isSome = true := by decide +kernel
/-- A step of the placed line; and of one whose slots are of role 3. -/
def otherRole : State :=
  let s := teamOf { teamRec with roles := [(1, 1), (3, 1)] }
  { s with mem := { s.mem with icache := smIns s.mem.icache (icKey 0 0) (codeLine 0 [nopW ||| 0x300#96, nopW] 9) } }
theorem witness_StepIssuesDecoded :
    [(base, false), (otherRole, true)].all (fun x => let s := x.1
      let sf := ({ s with sched := [] } : State).slotOf r0 false
      let p := sf.picking
      let v := p.teamStep.1.touchFetch (p.teamStep.1.m.path.pc.line.toNat * 64)
      s.sched == [.issue r0 false] && (({ s with sched := [] } : State).findMem r0).isSome && !(sf.portBusy r0) && !(sf.m.slicesApart) &&
      p.mayIssue false && !(p.m.mxreset) && p.teamStep.2 && !v.2 && (x.2 || decide (p.wg.team = none)) &&
      okIs (v.1.fetch v.1.m.path.pc.line) (fun bs => let u := v.1.keepLine bs
        lineParityOk bs && lineOk v.1.wg.declared bs && !(u.skipsLine bs) && !(pairFirst bs u.m.path.pc.slot.toNat) &&
        u.skipsSlot bs u.m.path.pc.slot.toNat == x.2)) = true := by decide +kernel
/-- A context whose event queue has one entry free, at 0x50000. -/
def recording : State :=
  { base with ctxs := smPut {} base.ctxs 1 { (smGet {} base.ctxs 1) with eq := { base := 0x50000, baseSet := true, size := 4, head := 5, tail := 8 } } }
theorem witness_FaultsTaken :
    recording.wg.stop = .running ∧ ({ code := XLATE, lanes := 1 } : Flt).replayable = true ∧ ({ code := ILLOP, lanes := 1 } : Flt).replayable = false ∧
    State.reset.wg.stop ≠ .running ∧ State.reset.wg.stopping = false ∧ recording.host.held = [] ∧ recording.holdFull 0 = false ∧ heldUp.holdFull 0 = true ∧
    heldUp.wg.core = 0 ∧ recording.wg.core = 0 ∧
    (let s := recording.modW (fun w => { w with stop := .fault true, stopping := true })
     s.wg.stop ≠ .running ∧ s.wg.stopping = true ∧ s.holdFull (dieOf s.wg.core) = false) ∧
    (smFind recording.ctxs recording.wg.ctx).any (fun x => x.eq.baseSet && x.eq.size != 0 && decide ((x.eq.tail - x.eq.head).toNat < x.eq.size.toNat)) = true ∧
    (List.range 64).all (fun i => recording.homed (0x50000 + i) && !(recording.remoteHeld (0x50000 + i))) = true := by decide +kernel
/-- R341: the record of a fault: code, DETAIL and lanes in its third word, the queue's tail one further. -/
theorem test_record :
    (let t := recording.postFault ⟨1, 2⟩ { code := XLATE, detail := 3, lanes := 9, addr := 0x1234 } false
     memNat t.mem.pm 0x50010 8 = 3 * 2 ^ 48 + XLATE * 2 ^ 40 + 9 ∧ memNat t.mem.pm 0x50018 8 = 64 + 2 ∧ memNat t.mem.pm 0x50020 8 = 0x1234 ∧
     (smGet {} t.ctxs 1).eq.tail = 9) := by decide +kernel
theorem witness_StepKeepsCanonical : Canonical State.reset := by
  constructor <;> decide

end Sys2Proof.Tests
end

section
/-!
PROOFS. Reduction and scan (R73, R74, R163, R164).
-/
namespace Sys2Proof.Machine

/-- `red` in the dispatch. -/
theorem exec_red (h : Hdr) (f : FA) (s : State) : exec (.red h f) s = execRed h f s := rfl
/-- `scan` in the dispatch. -/
theorem exec_scan (h : Hdr) (f : FA) (s : State) : exec (.scan h f) s = execScan h f s := rfl

/-- A slot that stalls for its registers alone, whatever receive queues hold, has its entry's effect once it issues. -/
theorem runSlot_goes_of_issues {s : State} {h : Hdr} {c : Bool} {uses : List SpecUse} {field : Option Nat} {go : State → State}
    {p : State → Prop} (hi : Issues s h c uses field = true) (hp : p (go s)) :
    Goes (runSlot s (issueFault s h c uses field) (s.hazard uses) go) p := by
  obtain ⟨hf, hh⟩ := issues_iff.1 hi
  exact ⟨go s, runSlot_go hf hh, hp⟩

/-- A slot that issues under the field check of its shape has a destination that is no team register (R136). -/
theorem dst_not_team_of_issues {s : State} {h : Hdr} {c : Bool} {uses : List SpecUse} {sh : AShape} {f : FA} {sc : Bool}
    (hi : Issues s h c uses (sh.field f sc) = true) : ¬ (320 ≤ f.dst.toNat ∧ f.dst.toNat < 336) :=
  field_dst (issueFault_field (issues_iff.1 hi).1)

/-- A source lane is one of the 32. -/
theorem guarded_lt {s : State} {h : Hdr} {l : Nat} (hl : l ∈ s.guarded h) : l < 32 :=
  mem_lanesOf (List.mem_filter.1 hl).1

/-- No source is marked where no register is named. -/
@[simp] theorem marked_nil_uses (s : State) (ls : List Nat) : s.marked [] ls = false := rfl

/-- R163: `red` executes once, as lane 0, after the poison check of its source lanes. -/
theorem red_completes {h : Hdr} {f : FA} {s : State}
    (hi : Issues s h (classOk s .flt false h.role.toNat && !s.m.scalar) ((redShape f .scalar).uses f)
      ((redShape f .scalar).field f s.m.scalar) = true)
    (hc : s.marked ((redShape f .scalar).uses f) (s.guarded h) = false) :
    Completes (.red h f) s (fun t => Wrote s t [] f.dst false (signedT f.ty.toNat) [0] (fun _ =>
      resF ((redNode (redOp f.sub.toNat f.ty.toNat f.rnd.toNat) (redLeaf s f (s.guarded h)) 5 0).getD
        (redIdent f.sub.toNat f.ty.toNat, 0)))) := by
  rw [Completes, exec_red, execRed]
  refine runSlot_goes_of_issues hi ?_
  rw [if_neg (by simp [hc])]
  exact wrote_effectA _ _ _ _ _ _ _ (by simp) (dst_not_team_of_issues hi) (marked_nil_uses s [0])

/-- R164: `scan` executes in every source lane. -/
theorem scan_completes {h : Hdr} {f : FA} {s : State}
    (hi : Issues s h (classOk s .flt false h.role.toNat && !s.m.scalar) ((redShape f .vector).uses f)
      ((redShape f .vector).field f s.m.scalar) = true)
    (hc : s.marked ((redShape f .vector).uses f) (s.guarded h) = false) :
    Completes (.scan h f) s (fun t => Wrote s t ((redShape f .vector).uses f) f.dst false false (s.guarded h) (fun l =>
      resF ((scanVal (redOp f.sub.toNat f.ty.toNat f.rnd.toNat) (redLeaf s f (s.guarded h)) l).getD
        (redIdent f.sub.toNat f.ty.toNat, 0)))) := by
  rw [Completes, exec_scan, execScan]
  exact runSlot_goes_of_issues hi
    (wrote_effectA _ _ _ _ _ _ _ (fun _ => guarded_lt) (dst_not_team_of_issues hi) hc)

/-- Settles O6: the slot issues and meets no poison, so `red` leaves the root of the tree in its scalar destination and `scan` each
source lane's prefix in its vector destination. -/
theorem reductionResults : Obligations.ReductionResults := by
  intro h f s
  exact ⟨red_completes, scan_completes⟩

end Sys2Proof.Machine
end

section
/-!
PROOFS. Control flow: the uniform branches (R117, R127, R128), the traps and `brk` (R108, R130, R131).
-/
namespace Sys2Proof.Machine

/-! ### Control slots -/

/-- `trap.ill` in the dispatch. -/
theorem exec_trapIll (h : Hdr) (f : FB) (s : State) : exec (.trapIll h f) s = .next (s.fault ILLOP) := rfl
/-- An unassigned opcode in the dispatch. -/
theorem exec_unassignedOpcode (opc : BitVec 8) (rest : BitVec 88) (s : State) :
    exec (.unassignedOpcode opc rest) s = .next (s.fault ILLOP) := rfl
/-- `bru` in the dispatch. -/
theorem exec_bru (h : Hdr) (f : FB) (s : State) : exec (.bru h f) s = execBru h f s := rfl
/-- `brx` in the dispatch. -/
theorem exec_brx (h : Hdr) (f : FB) (s : State) : exec (.brx h f) s = execBrx h f s := rfl
/-- `loop` in the dispatch. -/
theorem exec_iloop (h : Hdr) (f : FB) (s : State) : exec (.iloop h f) s = execIloop h f s := rfl
/-- `trap` in the dispatch. -/
theorem exec_trap (h : Hdr) (f : FB) (s : State) : exec (.trap h f) s = execTrap h f s := rfl
/-- `brk` in the dispatch. -/
theorem exec_brk (h : Hdr) (f : FB) (s : State) : exec (.brk h f) s = execBrk h f s := rfl

/-- A next state is an answer of which holds what holds of that state. -/
theorem goes_next {t : State} {p : State → Prop} (hp : p t) : Goes (.next t) p := ⟨t, rfl, hp⟩

/-- A control slot that issues and reads no poison has its entry's effect. -/
theorem runB_of_issuesB {s : State} {h : Hdr} {light : Bool} {uses : List SpecUse} {ok : Bool} {go : State → State}
    (hi : IssuesB s h light uses ok = true) : runB s h light uses ok go = .next (go s) := by
  simp only [IssuesB, Bool.and_eq_true, Bool.not_eq_true'] at hi
  obtain ⟨hiss, hmark⟩ := hi
  obtain ⟨hf, hh⟩ := issues_iff.1 hiss
  rw [runB, runSlot_go hf hh, if_neg (by simp [hmark])]

/-! ### A path that moves -/

@[simp] theorem Member.movedTo_r (m : Member) (p : Pc) (r : RegFile) : (m.movedTo p r).r = r := rfl
@[simp] theorem Member.movedTo_pool (m : Member) (p : Pc) (r : RegFile) : (m.movedTo p r).pool = m.pool := by simp [Member.movedTo]
@[simp] theorem Member.movedTo_exited (m : Member) (p : Pc) (r : RegFile) : (m.movedTo p r).exited = m.exited := by
  simp [Member.movedTo]
@[simp] theorem Member.movedTo_priv (m : Member) (p : Pc) (r : RegFile) : (m.movedTo p r).priv = m.priv := by simp [Member.movedTo]
@[simp] theorem Member.movedTo_outs (m : Member) (p : Pc) (r : RegFile) : (m.movedTo p r).outs = m.outs := by simp [Member.movedTo]
@[simp] theorem Member.movedTo_path (m : Member) (p : Pc) (r : RegFile) : (m.movedTo p r).path = { m.path with pc := p } :=
  Member.setPath_path m { m.path with pc := p }
@[simp] theorem Member.movedTo_other (m : Member) (p : Pc) (r : RegFile) : (m.movedTo p r).other = m.other := by
  unfold Member.movedTo Member.setPath Member.other; split <;> simp_all

/-- Registers written before a move are those after it. -/
theorem Member.movedTo_withR (m : Member) (p : Pc) (r r' : RegFile) : ({ m with r := r' } : Member).movedTo p r = m.movedTo p r := by
  unfold Member.movedTo Member.setPath; split <;> rfl
/-- Replacing the program counter of the executing path is a move that leaves the registers. -/
theorem Member.setPath_pc (m : Member) (p : Pc) : m.setPath (some { m.path with pc := p }) = m.movedTo p m.r := by
  unfold Member.movedTo Member.setPath; split <;> rfl

/-- Nothing beside the member in focus differs where that member alone is replaced. -/
theorem sameBeside_member (s : State) (m : Member) : SameBeside s { s with m := m } :=
  ⟨⟨rfl, rfl, rfl, rfl, rfl, rfl, rfl, rfl, rfl, rfl, rfl⟩, rfl⟩
theorem SameBeside.trans {s t u : State} (h : SameBeside s t) (k : SameBeside t u) : SameBeside s u :=
  ⟨h.out.trans k.out, k.wg.trans h.wg⟩

/-- R235: after a transfer a team's member has its own stream from there on (`priv`), and nothing else changes. -/
theorem goPrivate_eq (s : State) : s.goPrivate = s.modM (fun m => { m with priv := m.priv || s.wg.team.isSome }) := by
  unfold State.goPrivate
  cases s.wg.team.isSome <;> simp [State.modM]

/-- A slot that only moves on leaves its path at the next slot. -/
theorem advance_advanced (s : State) : Advanced s s.advance :=
  ⟨sameBeside_member s _, by rw [State.advance_m, Member.setPath_pc]⟩
/-- A transfer moves the whole path. -/
theorem transfer_moved (s : State) (p : Pc) : Moved s (s.transfer p) p := by
  rw [State.transfer, goPrivate_eq]
  exact ⟨sameBeside_member s _, by simp [Member.setPath_pc]⟩

/-! ### `bru` and `brx` (R117, R127) -/

/-- R117: `bru` is a uniform transfer on guard and condition of the lowest lane. -/
theorem bru_uniformTo {h : Hdr} {f : FB} {s : State}
    (hi : IssuesB s h false [] (codesB f && zerosB f true true false false false) = true) :
    UniformTo (.bru h f) s (s.guardIn h (lowLane s.active) && s.condIn f (lowLane s.active)) f.tofs f.tslot := by
  unfold UniformTo Completes
  rw [exec_bru, execBru, runB_of_issuesB hi]
  dsimp only
  generalize (s.guardIn h (lowLane s.active) && s.condIn f (lowLane s.active)) = go
  refine ⟨?_, ?_, ?_, ?_⟩
  · rintro rfl
    exact goes_next (advance_advanced s)
  · rintro rfl hl
    simp [hl]
  · rintro rfl hl hr
    simpa [hl, hr] using goes_next (transfer_moved s _)
  · rintro rfl hl hr
    simp [hl, hr]

section Brx
variable {h : Hdr} {f : FB} {s : State}
  (hi : IssuesB s h false [{ spec := f.reg }] (codesB f && zerosB f false false false true false && isS f.reg) = true)
include hi

/-- R127: a `brx` whose guard fails in the lowest lane only moves on. -/
theorem brx_falls_through (hg : s.guardLow h = false) : Completes (.brx h f) s (Advanced s) := by
  rw [Completes, exec_brx, execBrx, runB_of_issuesB hi, hg]
  exact goes_next (advance_advanced s)
/-- R86, R127: a word that is no code pointer raises ILLTARGET. -/
theorem brx_no_code_pointer (hg : s.guardLow h = true) (hp : pcOf (s.rf.rs (f.reg.toNat - 256)) = none) :
    exec (.brx h f) s = .next (s.fault ILLTARGET) := by
  rw [exec_brx, execBrx, runB_of_issuesB hi, hg, hp]; rfl
/-- R127: a code pointer that may be reached is where the whole path goes. -/
theorem brx_moves {p : Pc} (hg : s.guardLow h = true) (hp : pcOf (s.rf.rs (f.reg.toNat - 256)) = some p) (hr : s.mayReach p = true) :
    Completes (.brx h f) s (fun t => Moved s t p) := by
  rw [Completes, exec_brx, execBrx, runB_of_issuesB hi, hg, hp]
  simpa [hr] using goes_next (transfer_moved s p)
/-- R90, R127: a code pointer that may not be reached gives its fault. -/
theorem brx_no_reach {p : Pc} (hg : s.guardLow h = true) (hp : pcOf (s.rf.rs (f.reg.toNat - 256)) = some p) (hr : s.mayReach p = false) :
    exec (.brx h f) s = .next (s.noReach p) := by
  rw [exec_brx, execBrx, runB_of_issuesB hi, hg, hp]
  simp [hr]

end Brx

/-! ### `loop` (R128) -/

/-- What a `loop` that executes leaves: its s register written, its path at a code pointer, every other register and field as it was. -/
def Looped (s : State) (k : Nat) (x : W64) (p : Pc) (t : State) : Prop :=
  SameBeside s t ∧ t.m.path = { s.m.path with pc := p } ∧ t.m.other = s.m.other ∧ t.m.r = s.m.r.ws k x ∧
  t.m.pool = s.m.pool ∧ t.m.exited = s.m.exited ∧ t.m.outs = s.m.outs

/-- Registers written and the executing path moved, whatever becomes of `priv`, is what a `loop` leaves. -/
theorem looped_of_member {s t : State} {k : Nat} {x : W64} {p : Pc} {pv : Bool} (hb : SameBeside s t)
    (hm : t.m = { s.m.movedTo p (s.m.r.ws k x) with priv := pv }) : Looped s k x p t := by
  refine ⟨hb, ?_⟩
  rw [hm]
  exact ⟨s.m.movedTo_path p (s.m.r.ws k x), s.m.movedTo_other p (s.m.r.ws k x), rfl, s.m.movedTo_pool p (s.m.r.ws k x),
    s.m.movedTo_exited p (s.m.r.ws k x), s.m.movedTo_outs p (s.m.r.ws k x)⟩
/-- A count that has reached zero leaves the path at the next slot. -/
theorem looped_advance (s : State) (k : Nat) (x : W64) : Looped s k x s.m.path.pc.next (s.modR (·.ws k x)).advance := by
  obtain ⟨hb, hm⟩ := advance_advanced (s.modR (·.ws k x))
  exact looped_of_member ((sameBeside_member s _).trans hb) (hm.trans (Member.movedTo_withR ..))
/-- A count that has not reached zero leaves the path at the target. -/
theorem looped_transfer (s : State) (k : Nat) (x : W64) (p : Pc) : Looped s k x p ((s.modR (·.ws k x)).transfer p) := by
  obtain ⟨hb, hm⟩ := transfer_moved (s.modR (·.ws k x)) p
  rw [State.modR_m, Member.movedTo_withR] at hm
  exact looped_of_member ((sameBeside_member s _).trans hb) hm

section Loop
variable {h : Hdr} {f : FB} {s : State}
  (hi : IssuesB s h false [{ spec := f.reg, wr := true }, { spec := f.reg }]
    (codesB f && zerosB f false true false true false && isS f.reg) = true)
include hi

/-- R128: a `loop` whose guard fails in the lowest lane only moves on. -/
theorem iloop_falls_through (hg : s.guardLow h = false) : Completes (.iloop h f) s (Advanced s) := by
  rw [Completes, exec_iloop, execIloop, runB_of_issuesB hi, hg]
  exact goes_next (advance_advanced s)
/-- R128: the count is one lower; at a count of one the path goes on at the next slot, else at the target, which it may reach. -/
theorem iloop_counts (hg : s.guardLow h = true)
    (ht : s.rf.rs (f.reg.toNat - 256) = 1 ∨ s.leaves f.tofs = false ∧ s.mayReach (s.target f.tofs f.tslot) = true) :
    Completes (.iloop h f) s (Looped s (f.reg.toNat - 256) (s.rf.rs (f.reg.toNat - 256) - 1)
      (if s.rf.rs (f.reg.toNat - 256) = 1 then s.m.path.pc.next else s.target f.tofs f.tslot)) := by
  rw [Completes, exec_iloop, execIloop, runB_of_issuesB hi]
  by_cases hone : s.rf.rs (f.reg.toNat - 256) = 1
  · simpa [hg, hone] using goes_next (looped_advance s _ _)
  · obtain ⟨hl, hr⟩ := ht.resolve_left hone
    have hnz : s.rf.rs (f.reg.toNat - 256) - 1 ≠ 0 := fun hz => hone (sub_eq_zero.1 hz)
    dsimp only
    rw [if_neg (by simp [hg]), if_neg hnz, if_neg (by simp [hl]), if_neg (by simp [hr]), if_neg hone]
    exact goes_next (looped_transfer ..)

end Loop

/-- Settles O8: `bru`, `brx` and `loop` each move the whole path or none of it, as guard, target and count say. -/
theorem uniformBranchResults : Obligations.UniformBranchResults := by
  intro h f s
  refine ⟨bru_uniformTo, fun hi => ⟨brx_falls_through hi, brx_no_code_pointer hi, fun _ => brx_moves hi, fun _ => brx_no_reach hi⟩,
    fun hi => ⟨iloop_falls_through hi, fun hg ht => ?_⟩⟩
  obtain ⟨t, he, hb, hpath, hother, hr, hpool, hexited, houts⟩ := iloop_counts hi hg ht
  refine ⟨t, he, hb, hpath, hother, fun n => ?_, ?_, ?_, ?_, ?_, hpool, hexited, houts⟩
  · rw [hr, RegFile.rs_ws]
    split
    · next hn => rw [hn]
    · rfl
  all_goals rw [hr]; rfl

/-! ### Posting a record (R340): what it leaves of the package -/

@[simp] theorem homePut_plat (s : State) (pa : Nat) (b : Byte) : (s.homePut pa b).plat = s.plat := by
  unfold State.homePut
  split
  · rfl
  · dsimp only; split <;> rfl
@[simp] theorem homePuts_plat (s : State) (pa : Nat) (bs : List Byte) : (s.homePuts pa bs).plat = s.plat := by
  induction bs generalizing s pa with
  | nil => rfl
  | cons b bs ih => rw [State.homePuts, ih, homePut_plat]
theorem ringPost_plat {s t : State} {r r' : HostRing} {bs : List Byte} (h : ringPost s r bs = some (t, r')) : t.plat = s.plat := by
  unfold ringPost at h
  split at h
  · cases h
  · dsimp only at h
    cases h
    split <;> exact homePuts_plat ..
@[simp] theorem deliver_plat (s : State) (r : HeldRec) : (deliver s r).1.plat = s.plat := by
  unfold deliver
  split
  · split
    · next hpost => exact (ringPost_plat hpost :)
    · rfl
  · split
    · rfl
    · split
      · next hpost => exact (ringPost_plat hpost :)
      · rfl
@[simp] theorem deliverHeld_plat (s : State) (rs kept : List HeldRec) : (deliverHeld s rs kept).plat = s.plat := by
  induction rs generalizing s kept with
  | nil => rfl
  | cons r rs ih =>
    have hd := deliver_plat s r
    unfold deliverHeld
    split
    · exact ih _ _
    · split <;> (next he => rw [he] at hd; exact (ih _ _).trans hd)
/-- R35, R340: a record posted is one more of its die's sequence, and the package is otherwise as it was. -/
theorem post_plat (s : State) (die kind hdie : Nat) (ctx : Option Nat) (part ctxid : Nat) (body : List Nat) :
    (s.post die kind hdie ctx part ctxid body).plat =
      { s.plat with dieSeq := smPut 0 s.plat.dieSeq die (smGet 0 s.plat.dieSeq die + 1) } := deliverHeld_plat _ _ _
/-- R341: a fault record raises the sequence number of the faulting member's die by one. -/
theorem postFault_dieSeq (s : State) (pc : Pc) (f : Flt) (policy : Bool) :
    smGet 0 (s.postFault pc f policy).plat.dieSeq (dieOf s.wg.core) = smGet 0 s.plat.dieSeq (dieOf s.wg.core) + 1 := by
  rw [State.postFault, State.postCtx, post_plat, smGet_smPut, if_pos rfl]
/-- A fault record changes no member and no workgroup. -/
theorem postFault_run (s : State) (pc : Pc) (f : Flt) (policy : Bool) : SameRun s (s.postFault pc f policy) := postCtx_run ..

/-! ### `trap` and `brk` (R130, R131) -/

section Trap
variable {h : Hdr} {f : FB} {s : State}
  (hi : IssuesB s h false [] (codesB f && zerosB f false false false false true) = true)
include hi

/-- R130: a `trap` that no lane executes only moves on. -/
theorem trap_falls_through (hg : maskOf (s.guarded h) = 0) : Completes (.trap h f) s (Advanced s) := by
  rw [Completes, exec_trap, execTrap, runB_of_issuesB hi]
  simpa [hg] using goes_next (advance_advanced s)
/-- R130: a `trap` raises PROGTRAP with its number as detail, naming the lanes that execute it. -/
theorem trap_raises (hg : maskOf (s.guarded h) ≠ 0) :
    exec (.trap h f) s = .next (s.raise { code := PROGTRAP, detail := f.timeout.toNat, lanes := maskOf (s.guarded h) }) := by
  rw [exec_trap, execTrap, runB_of_issuesB hi]
  dsimp only
  rw [if_neg hg]
/-- R131: a `brk` that no lane executes, or without debugging, only moves on. -/
theorem brk_falls_through (hg : maskOf (s.guarded h) = 0 ∨ s.ctx.dbg = false) : Completes (.brk h f) s (Advanced s) := by
  rw [Completes, exec_brk, execBrk, runB_of_issuesB hi]
  dsimp only
  rw [if_pos (by simpa using hg)]
  exact goes_next (advance_advanced s)
/-- R131: with debugging enabled `brk` posts its record, stops the workgroup and stands at the next slot. -/
theorem brk_stops (hg : maskOf (s.guarded h) ≠ 0) (hd : s.ctx.dbg = true) (hf : s.holdFull (dieOf s.wg.core) = false) :
    Completes (.brk h f) s (fun t => t.wg.stop = .brk ∧ t.m = s.m.movedTo s.m.path.pc.next s.m.r ∧
      smGet 0 t.plat.dieSeq (dieOf s.wg.core) = smGet 0 s.plat.dieSeq (dieOf s.wg.core) + 1) := by
  rw [Completes, exec_brk, execBrk, runB_of_issuesB hi]
  simp only [hg, hd, hf, decide_false, Bool.not_true, Bool.or_self, Bool.false_eq_true, if_false]
  refine goes_next ⟨rfl, ?_, ?_⟩
  · rw [State.advance_m, State.modW_m, (postFault_run ..).m, Member.setPath_pc]
  · rw [State.advance_plat, State.modW_plat, postFault_dieSeq]

end Trap

/-- Settles O13: the two illegal opcodes fault at once; `trap` and `brk` act by the lanes that execute them and by debugging. -/
theorem trapResults : Obligations.TrapResults := by
  intro h f s
  exact ⟨exec_trapIll h f s, fun opc rest => exec_unassignedOpcode opc rest s, fun hi =>
    ⟨fun hg => ⟨trap_falls_through hi hg, brk_falls_through hi (.inl hg)⟩,
      fun hg => ⟨trap_raises hi hg, fun hd => brk_falls_through hi (.inr hd), brk_stops hi hg⟩⟩⟩

end Sys2Proof.Machine
end

section
/-!
PROOFS. Division: `idiv`, `irem` and the integer trap (R140, R141).
-/
namespace Sys2Proof.Machine

/-- `idiv` in the dispatch. -/
theorem exec_idiv (h : Hdr) (f : FA) (s : State) : exec (.idiv h f) s = runDiv s h f false := rfl
/-- `irem` in the dispatch. -/
theorem exec_irem (h : Hdr) (f : FA) (s : State) : exec (.irem h f) s = runDiv s h f true := rfl
/-- `idiv` and `irem` are one division, of which they keep the quotient or the remainder. -/
theorem exec_division (h : Hdr) (f : FA) (s : State) (rem : Bool) :
    exec (if rem then .irem h f else .idiv h f) s = runDiv s h f rem := by
  cases rem with
  | false => exact exec_idiv h f s
  | true => exact exec_irem h f s

/-- Nothing holds back a slot that issues and whose sources can be read, whether or not a lane executes. -/
theorem stall_of_readable {s : State} {uses : List SpecUse} {ls : List Nat} (hh : s.hazard uses = false)
    (hr : Readable s uses ls = true) : (s.hazard uses || (ls != [] && s.iqEmpty uses)) = false := by
  obtain ⟨rfl | hq, -⟩ := readable_iff.1 hr
  · simp [hh]
  · simp [hh, hq]

/-! ### The integer trap (R30, R141) -/

/-- R141: the trap names the lanes whose condition the launch covers, with the covered conditions as its detail; there is none where no
lane meets one. -/
theorem divTrap_map (s : State) (ls : List Nat) (lane : Nat → LaneRes) :
    divTrap s (ls.map (fun l => (l, lane l))) =
      let hit := ls.filter (fun l => (lane l).istat &&& trapCover s.wg.launch.itrap != 0)
      if hit = [] then none
      else some { code := PROGTRAP, flags := 1, lanes := maskOf hit
                  detail := (hit.foldl (fun a l => a ||| ((lane l).istat &&& trapCover s.wg.launch.itrap)) (0 : W64)).toNat } := by
  simp only [divTrap, List.filter_map, List.map_eq_nil_iff, List.map_map, List.foldl_map, Function.comp_def, List.map_id']

/-- No lane is covered where each meets no covered condition. -/
theorem divTrap_eq_none {s : State} {ls : List Nat} {lane : Nat → LaneRes}
    (hc : ∀ l ∈ ls, (lane l).istat &&& trapCover s.wg.launch.itrap = 0) : divTrap s (ls.map (fun l => (l, lane l))) = none := by
  rw [divTrap_map]
  exact if_pos (List.filter_eq_nil_iff.2 (fun l hl => by simp [hc l hl]))

/-! ### The two ways a division ends -/

section Division
variable {h : Hdr} {f : FA} {s : State} {rem : Bool}
  (hi : Issues s h (classOk s .int false h.role.toNat) (divShape.uses f) (divShape.field f s.m.scalar) = true)
  (hr : Readable s (divShape.uses f) (s.execLanes h f.dst) = true)
include hi hr

/-- R140: a division that does not trap has the effect of any format A slot. -/
theorem runDiv_of_divTrap_none (ht : divTrap s ((s.execLanes h f.dst).map (fun l => (l, divLane s f rem l))) = none) :
    runDiv s h f rem =
      .next (s.effectA (divShape.uses f) f.dst (divShape.dstWide f) f.sg (s.execLanes h f.dst) (divLane s f rem)) := by
  obtain ⟨hf, hh⟩ := issues_iff.1 hi
  rw [runDiv, ← divShape]
  refine (runSlot_go hf (stall_of_readable hh hr)).trans ?_
  simp only [ht, ite_self]

/-- R141: a division that traps only raises its fault, since no source it reads is marked. -/
theorem runDiv_of_divTrap_some {t : Flt}
    (ht : divTrap s ((s.execLanes h f.dst).map (fun l => (l, divLane s f rem l))) = some t) :
    runDiv s h f rem = .next (s.raise t) := by
  obtain ⟨hf, hh⟩ := issues_iff.1 hi
  have hm : s.marked (divShape.uses f) (s.execLanes h f.dst) = false := (readable_iff.1 hr).2
  rw [runDiv, ← divShape]
  refine (runSlot_go hf (stall_of_readable hh hr)).trans ?_
  simp only [ht, hm, Bool.false_eq_true, if_false]

/-- R140: where no executing lane meets a covered condition, every lane's quotient or remainder and its sticky bits are written. -/
theorem division_completes
    (hc : ∀ l ∈ s.execLanes h f.dst, (divLane s f rem l).istat &&& trapCover s.wg.launch.itrap = 0) :
    Completes (if rem then .irem h f else .idiv h f) s (fun t =>
      Wrote s t (divShape.uses f) f.dst (divShape.dstWide f) f.sg (s.execLanes h f.dst) (divLane s f rem)) := by
  rw [Completes, exec_division, runDiv_of_divTrap_none hi hr (divTrap_eq_none hc)]
  exact goes_next (wrote_effectA _ _ _ _ _ _ _ (fun _ => execLanes_lt) (dst_not_team_of_issues hi) (readable_iff.1 hr).2)

/-- R141: where some executing lane meets a covered condition, the slot only raises PROGTRAP, naming those lanes and conditions. -/
theorem division_traps :
    let hit := (s.execLanes h f.dst).filter (fun l => (divLane s f rem l).istat &&& trapCover s.wg.launch.itrap != 0)
    hit ≠ [] →
    exec (if rem then .irem h f else .idiv h f) s =
      .next (s.raise { code := PROGTRAP, flags := 1, lanes := maskOf hit
                       detail := (hit.foldl (fun a l => a ||| ((divLane s f rem l).istat &&& trapCover s.wg.launch.itrap)) (0 : W64)).toNat }) := by
  intro hit hne
  rw [exec_division]
  exact runDiv_of_divTrap_some hi hr ((divTrap_map s _ _).trans (if_neg hne))

end Division

/-- Settles O4: by whether `divTrap` finds a covered condition (`divTrap_map`), the slot writes its results or raises the trap. -/
theorem divisionResults : Obligations.DivisionResults := by
  exact ⟨fun h f s rem => division_completes, fun h f s rem => division_traps⟩

end Sys2Proof.Machine
end

section
/-!
PROOFS. Messages: `snd`, `rcv` and MESSAGE_APPEND (R189 to R192).
-/
namespace Sys2Proof.Machine

/-- `snd` in the dispatch. -/
theorem exec_snd (h : Hdr) (f : FM) (s : State) : exec (.snd h f) s = execSnd h f s := rfl
/-- `rcv` in the dispatch. -/
theorem exec_rcv (h : Hdr) (f : FM) (s : State) : exec (.rcv h f) s = execRcv h f s := rfl
/-- MESSAGE_APPEND in the dispatch. -/
theorem exec_messageAppend (msg : Nat) (s : State) : exec (.messageAppend msg) s = execMessageAppend msg s := rfl

/-! ### Memory slots that issue (R96, R166, R171) -/

/-- A memory slot that issues moves on where no lane executes, and otherwise has its entry's effect. -/
theorem runM_of_issuesM {s : State} {h : Hdr} {light : Bool} {uses : List SpecUse} {ok : Bool} {cls : Option Nat} {ls : List Nat}
    {go : State → State} (hi : IssuesM s h light uses ok cls ls = true) :
    runM s h light uses ok cls ls go = .next (if ls = [] then s.advance else go s) := by
  simp only [IssuesM, Bool.and_eq_true, Bool.not_eq_true'] at hi
  obtain ⟨⟨hiss, hroom⟩, hmark⟩ := hi
  obtain ⟨hf, hh⟩ := issues_iff.1 hiss
  have hstall : (s.hazard uses || (ls != [] && (cls.map s.full).getD false)) = false := by
    rw [hh, Bool.false_or]
    by_cases hls : ls = []
    · simp [hls]
    · simpa [hls] using hroom
  rw [runM, runSlot_go hf hstall, if_neg (c := s.marked uses ls = true) (by simp [hmark])]
/-- A memory slot that issues and that no lane executes only moves on. -/
theorem runM_advances {s : State} {h : Hdr} {light : Bool} {uses : List SpecUse} {ok : Bool} {cls : Option Nat} {ls : List Nat}
    {go : State → State} (hi : IssuesM s h light uses ok cls ls = true) (hls : ls = []) :
    Goes (runM s h light uses ok cls ls go) (Advanced s) := by
  rw [runM_of_issuesM hi, if_pos hls]
  exact goes_next (advance_advanced s)
/-- A memory slot that issues and that some lane executes has its entry's effect. -/
theorem runM_acts {s : State} {h : Hdr} {light : Bool} {uses : List SpecUse} {ok : Bool} {cls : Option Nat} {ls : List Nat}
    {go : State → State} (hi : IssuesM s h light uses ok cls ls = true) (hls : ls ≠ []) :
    runM s h light uses ok cls ls go = .next (go s) := by
  rw [runM_of_issuesM hi, if_neg hls]

/-- Operations left outstanding before a move are those after it. -/
theorem Member.movedTo_withOuts (m : Member) (p : Pc) (os : List OutOp) :
    ({ m with outs := os } : Member).movedTo p m.r = { m.movedTo p m.r with outs := os } := by
  unfold Member.movedTo Member.setPath; split <;> rfl
/-- R182: a slot that leaves an operation outstanding, draws its number and moves on leaves just that. -/
theorem issued_addOut (u : State) (o : OutOp) : Issued u (u.addOut o).tick.advance o := by
  refine ⟨?_, rfl, rfl, rfl, rfl, rfl, rfl, rfl, rfl, rfl, rfl, rfl, rfl⟩
  exact (Member.setPath_pc _ _).trans (Member.movedTo_withOuts u.m _ _)

/-! ### `snd` (R189) -/

section Snd
variable {h : Hdr} {f : FM} {s : State}

/-- The descriptor that names the receiver's rank and queue: OFS where BASE is 511, else the s register in BASE (R189). -/
def State.sndTarget (s : State) (f : FM) : Nat := if f.base.toNat = 511 then f.ofs.toNat else (s.rf.rs (f.base.toNat - 256)).toNat
/-- The operation that a `snd` leaves outstanding (R182, R189). -/
def State.sndOp (s : State) (f : FM) : OutOp :=
  { id := s.uid, cls := 1, kind := .message s.uid, scope := f.scope.toNat, rel := f.order == 2 }
/-- The message that a `snd` puts on its way to a workgroup (R189, R326). -/
def State.sndMsg (s : State) (f : FM) (w : Workgroup) : Msg :=
  ⟨s.uid, s.ref, s.uid, w.wu, s.sndTarget f % 4, ⟨smGet 0 s.shared.sq (f.data.toNat - 336), f.order == 2⟩, f.scope.toNat,
    s.plat.forwards.any (·.takes w.wu (2 * s.wg.wu + 1))⟩

variable (hi : IssuesM s h false [{ spec := f.data }, { spec := f.base, ok511 := true }] (sndFields s f) (some 1) (s.memLanes h true) = true)
include hi

/-- A `snd` that no lane executes only moves on. -/
theorem snd_advances (hls : s.memLanes h true = []) : Completes (.snd h f) s (Advanced s) := by
  rw [Completes, exec_snd, execSnd]
  exact runM_advances hi hls
/-- R189: a descriptor with a bit beyond the rank set raises ILLOP. -/
theorem snd_illop (hls : s.memLanes h true ≠ []) (ht : 16 ≤ s.sndTarget f) : exec (.snd h f) s = .next (s.fault ILLOP) := by
  rw [exec_snd, execSnd]
  exact (runM_acts hi hls).trans (congrArg _ (if_pos ht))
/-- R189: a `snd` to a rank that the cluster group has leaves its operation outstanding and its message behind those on their way. -/
theorem snd_sends {w : Workgroup} (hls : s.memLanes h true ≠ []) (ht : s.sndTarget f < 16) (hw : s.rankWg (s.sndTarget f / 4) = some w) :
    Completes (.snd h f) s (fun t => t.m.r = s.m.r ∧ t.wg = s.wg ∧ t.m.path = { s.m.path with pc := s.m.path.pc.next } ∧
      t.m.outs = s.m.outs ++ [s.sndOp f] ∧ t.mem = { s.mem with msgs := s.mem.msgs ++ [s.sndMsg f w] }) := by
  have hnext : exec (.snd h f) s = .next (({ (s.addOut (s.sndOp f)).tick with
      mem := { s.mem with msgs := s.mem.msgs ++ [s.sndMsg f w] } } : State).advance) := by
    rw [exec_snd, execSnd]
    refine (runM_acts hi hls).trans ?_
    unfold State.sndTarget at ht hw
    simp only [if_neg (Nat.not_le.2 ht), hw]
    rfl
  rw [Completes, hnext]
  refine goes_next ⟨?_, rfl, ?_, ?_, rfl⟩
  · simp
  · exact Member.setPath_path _ _
  · simp

end Snd

/-! ### `rcv` (R14, R192) -/

section Rcv
variable {h : Hdr} {f : FM} {s : State}

/-- The operation that a `rcv` leaves outstanding, whose value is already known (R182, R192). -/
def State.rcvOp (s : State) (h : Hdr) (f : FM) (v : W64) : OutOp :=
  { id := s.uid, cls := 0, kind := .value v { spec := f.data, size := 8, mask := maskOf (s.memLanes h (isS f.data)) }, scope := f.scope.toNat
    acq := f.order == 1, done := true }

variable (hi : IssuesM s h false [{ spec := f.data, pair := isV f.data, wr := true }, { spec := f.base }] (rcvFields s f) (some 0)
  (s.memLanes h (isS f.data)) = true)
include hi

/-- A `rcv` that no lane executes only moves on. -/
theorem rcv_advances (hls : s.memLanes h (isS f.data) = []) : Completes (.rcv h f) s (Advanced s) := by
  rw [Completes, exec_rcv, execRcv]
  exact runM_advances hi hls
/-- R192: `rcv.cnt` leaves the number of waiting entries outstanding as its value, and pops none. -/
theorem rcv_counts (hls : s.memLanes h (isS f.data) ≠ []) (hsub : f.sub = 1) :
    Completes (.rcv h f) s (fun t => Issued s t (s.rcvOp h f (BitVec.ofNat 64 (smGet [] s.wg.iq (f.base.toNat - 340)).length))) := by
  have hnext : exec (.rcv h f) s =
      .next (s.addOut (s.rcvOp h f (BitVec.ofNat 64 (smGet [] s.wg.iq (f.base.toNat - 340)).length))).tick.advance := by
    rw [exec_rcv, execRcv]
    refine (runM_acts hi hls).trans ?_
    simp only [hsub, beq_self_eq_true, if_true]
    rfl
  rw [Completes, hnext]
  exact goes_next (issued_addOut _ _)
/-- R192: `rcv` of an empty queue waits. -/
theorem rcv_waits (hls : s.memLanes h (isS f.data) ≠ []) (hsub : f.sub = 0) (hq : s.iqHead (f.base.toNat - 340) = none) :
    exec (.rcv h f) s = .next s := by
  rw [exec_rcv, execRcv]
  refine (runM_acts hi hls).trans ?_
  simp [hsub, hq]
/-- R192: `rcv` pops the head entry of its queue and leaves it outstanding as its value. -/
theorem rcv_takes {e : QEntry} (hls : s.memLanes h (isS f.data) ≠ []) (hsub : f.sub = 0) (hq : s.iqHead (f.base.toNat - 340) = some e) :
    Completes (.rcv h f) s (fun t => Issued (s.iqPop (f.base.toNat - 340)) t (s.rcvOp h f e.val)) := by
  have hnext : exec (.rcv h f) s = .next ((s.iqPop (f.base.toNat - 340)).addOut (s.rcvOp h f e.val)).tick.advance := by
    rw [exec_rcv, execRcv]
    refine (runM_acts hi hls).trans ?_
    simp only [hsub, hq]
    rfl
  rw [Completes, hnext]
  exact goes_next (issued_addOut _ _)

end Rcv

/-! ### MESSAGE_APPEND (R190, R191) -/

/-- Where a queue has room for one more entry, a message stands behind those that wait there (R191). -/
theorem appendMsg_of_room {w : Workgroup} {k : Nat} (e : QEntry) (hroom : (smGet [] w.iq k).length < 32) :
    w.appendMsg k e = some { w with iq := smPut [] w.iq k (smGet [] w.iq k ++ [e]) } :=
  if_neg (Nat.not_le.2 hroom)
/-- A queue in which 32 entries wait takes no message (R191). -/
theorem appendMsg_of_full {w : Workgroup} {k : Nat} (e : QEntry) (hfull : ¬ (smGet [] w.iq k).length < 32) : w.appendMsg k e = none :=
  if_pos (Nat.not_lt.1 hfull)

/-- The state once a message has left those on their way, and the forwarding entry it went by knows of it (R326). -/
def State.dropMsg (s : State) (q : Msg) : State :=
  ({ s with mem := { s.mem with msgs := dropFirst (fun x => x.id = q.id) s.mem.msgs } } : State).noteTraffic q.toWu (2 * q.owner.wu + 1) q.via
@[simp] theorem State.dropMsg_m (s : State) (q : Msg) : (s.dropMsg q).m = s.m := rfl
@[simp] theorem State.dropMsg_wg (s : State) (q : Msg) : (s.dropMsg q).wg = s.wg := rfl
@[simp] theorem State.dropMsg_mem (s : State) (q : Msg) :
    (s.dropMsg q).mem = { s.mem with msgs := dropFirst (fun x => x.id = q.id) s.mem.msgs } := rfl

/-- The workgroup in focus is the one of its own name. -/
theorem State.findWu_focus {s : State} {wu : Nat} (hwu : s.wg.wu = wu) : s.findWu wu = some s.wg := if_pos hwu
/-- Changing the workgroup of the name of the one in focus changes that one. -/
theorem State.modWu_focus {s : State} {wu : Nat} (f : Workgroup → Workgroup) (hwu : s.wg.wu = wu) : s.modWu wu f = s.modW f := if_pos hwu
/-- The `snd` that ends is the member in focus's own where that member sent the message. -/
theorem State.sndDone_focus {s : State} {q : Msg} (report : Option Nat) (hown : q.owner = s.ref) :
    s.sndDone q report =
      s.modM (fun m => { m with outs := replaceFirst (fun o => o.id = q.op) (fun o => { o with done := true, report }) m.outs }) := by
  rw [State.sndDone, State.modMem, hown]
  exact (if_pos rfl).trans (if_pos rfl)

section Append
variable {s : State} {q : Msg} (hq : s.mem.msgs.find? (fun x => x.id = q.id) = some q)
include hq

/-- R190, R191: until it may be appended, a message waits, and nothing changes. -/
theorem messageAppend_waits (hmay : s.mayAppend q = false) : exec (.messageAppend q.id) s = .next s := by
  rw [exec_messageAppend, execMessageAppend, hq]
  simp only [hmay, Bool.not_false, if_true]
/-- R191: a message to a workgroup whose queue has room goes behind the entries that wait there, and its `snd` ends without a report. -/
theorem messageAppend_of_room {w : Workgroup} (hmay : s.mayAppend q = true) (hw : (s.dropMsg q).findWu q.toWu = some w)
    (hroom : (smGet [] w.iq q.queue).length < 32) :
    exec (.messageAppend q.id) s = .next (((s.dropMsg q).modWu q.toWu
      (fun x => { x with iq := smPut [] w.iq q.queue (smGet [] w.iq q.queue ++ [q.entry]) })).sndDone q none) := by
  rw [exec_messageAppend, execMessageAppend, hq]
  unfold State.dropMsg at hw ⊢
  simp only [hmay, Bool.not_true, Bool.false_eq_true, if_false, hw, appendMsg_of_room _ hroom]
/-- R191: a message to a workgroup whose queue is full is refused, and its `snd` ends with QFULL as its report. -/
theorem messageAppend_of_full {w : Workgroup} (hmay : s.mayAppend q = true) (hw : (s.dropMsg q).findWu q.toWu = some w)
    (hfull : ¬ (smGet [] w.iq q.queue).length < 32) :
    exec (.messageAppend q.id) s = .next ((s.dropMsg q).sndDone q (some QFULL)) := by
  rw [exec_messageAppend, execMessageAppend, hq]
  unfold State.dropMsg at hw ⊢
  simp only [hmay, Bool.not_true, Bool.false_eq_true, if_false, hw, appendMsg_of_full _ hfull]

/-- R191: a message of the member in focus to its own workgroup is appended or refused as its queue has room or not; no other queue and no
register changes. -/
theorem messageAppend_own (hmay : s.mayAppend q = true) (hwu : s.wg.wu = q.toWu) (hown : q.owner = s.ref) :
    Completes (.messageAppend q.id) s (fun t => t.m.r = s.m.r ∧ t.wg = { s.wg with iq := t.wg.iq } ∧
      t.mem = { s.mem with msgs := dropFirst (fun x => x.id = q.id) s.mem.msgs } ∧
      t.m.outs = replaceFirst (fun o => o.id = q.op)
        (fun o => { o with done := true, report := if (smGet [] s.wg.iq q.queue).length < 32 then none else some QFULL }) s.m.outs ∧
      (∀ k, smGet [] t.wg.iq k =
        if k = q.queue ∧ (smGet [] s.wg.iq k).length < 32 then smGet [] s.wg.iq k ++ [q.entry] else smGet [] s.wg.iq k)) := by
  have hw : (s.dropMsg q).findWu q.toWu = some s.wg := State.findWu_focus hwu
  by_cases hroom : (smGet [] s.wg.iq q.queue).length < 32
  · rw [Completes, messageAppend_of_room hq hmay hw hroom, State.modWu_focus (s := s.dropMsg q) _ hwu,
      State.sndDone_focus (s := (s.dropMsg q).modW _) _ hown]
    refine goes_next ⟨rfl, rfl, rfl, by simp [hroom], fun k => ?_⟩
    by_cases hk : k = q.queue
    · simp [hk, hroom]
    · simp [hk]
  · rw [Completes, messageAppend_of_full hq hmay hw hroom, State.sndDone_focus (s := s.dropMsg q) _ hown]
    refine goes_next ⟨rfl, rfl, rfl, by simp [hroom], fun k => ?_⟩
    rw [if_neg fun ⟨hk, hlt⟩ => hroom (hk ▸ hlt)]
    rfl

end Append

/-- Settles O29: `snd` and `rcv` issue and act by their operands and the queue's head; MESSAGE_APPEND acts by whether the message may be
appended and whether its queue has room. -/
theorem messageResults : Obligations.MessageResults := by
  refine ⟨fun h f s => ⟨fun hi => ?_, fun hi => ?_⟩, fun s q hq => ?_⟩
  · exact ⟨snd_advances hi, snd_illop hi, fun w => snd_sends hi⟩
  · exact ⟨rcv_advances hi, rcv_counts hi, rcv_waits hi, fun e => rcv_takes hi⟩
  · exact ⟨messageAppend_waits hq, messageAppend_own hq⟩

end Sys2Proof.Machine
end

section
/-!
PROOFS. System instructions: `csrr`, `csrw`, `svc`, `eret`, `tlbi`, `halt` and `hint` (R277 to R281, R283, R284).
-/
namespace Sys2Proof.Machine

/-- `csrr` in the dispatch. -/
theorem exec_csrr (h : Hdr) (f : FS) (s : State) : exec (.csrr h f) s = execCsrr h f s := rfl
/-- `csrw` in the dispatch. -/
theorem exec_csrw (h : Hdr) (f : FS) (s : State) : exec (.csrw h f) s = execCsrw h f s := rfl
/-- `svc` in the dispatch. -/
theorem exec_svc (h : Hdr) (f : FS) (s : State) : exec (.svc h f) s = execSvc h f s := rfl
/-- `eret` in the dispatch. -/
theorem exec_eret (h : Hdr) (f : FS) (s : State) : exec (.eret h f) s = execEret h f s := rfl
/-- `tlbi.all` in the dispatch. -/
theorem exec_tlbiAll (h : Hdr) (f : FS) (s : State) : exec (.tlbiAll h f) s = execTlbiAll h f s := rfl
/-- `tlbi.page` in the dispatch. -/
theorem exec_tlbiPage (h : Hdr) (f : FS) (s : State) : exec (.tlbiPage h f) s = execTlbiPage h f s := rfl
/-- `halt` in the dispatch. -/
theorem exec_halt (h : Hdr) (f : FS) (s : State) : exec (.halt h f) s = execHalt h f s := rfl
/-- `hint` in the dispatch. -/
theorem exec_hint (h : Hdr) (f : FS) (s : State) : exec (.hint h f) s = execHint h f s := rfl
/-- `ctxsv` in the dispatch. -/
theorem exec_ctxsv (h : Hdr) (f : FS) (s : State) : exec (.ctxsv h f) s = execCtxsv h f s := rfl
/-- `ctxld` in the dispatch. -/
theorem exec_ctxld (h : Hdr) (f : FS) (s : State) : exec (.ctxld h f) s = execCtxld h f s := rfl

/-! ### System slots (R277, R278) -/

/-- Every instruction of the table is a system slot with its row's register uses, field checks and level. -/
theorem exec_of_systemRow {r : SRow} (hr : r ∈ systemRows) (h : Hdr) (f : FS) (s : State) :
    ∃ go, exec (r.ctor h f) s = runS s h (r.uses f) (r.ok f) (r.lvl f) go := by
  simp only [systemRows, List.mem_cons, List.not_mem_nil, or_false] at hr
  rcases hr with rfl | rfl | rfl | rfl | rfl | rfl | rfl | rfl | rfl | rfl
  exacts [⟨_, exec_csrr ..⟩, ⟨_, exec_csrw ..⟩, ⟨_, exec_svc ..⟩, ⟨_, exec_eret ..⟩, ⟨_, exec_tlbiAll ..⟩, ⟨_, exec_tlbiPage ..⟩,
    ⟨_, exec_halt ..⟩, ⟨_, exec_hint ..⟩, ⟨_, exec_ctxsv ..⟩, ⟨_, exec_ctxld ..⟩]

section Slot
variable {s : State} {h : Hdr} {uses : List SpecUse} {ok : Bool} {lvl : Nat} {go : State → State}

/-- A system slot that nothing holds back acts by its guard and its level before it looks at its sources. -/
theorem runS_of_issues (hf : issueFault s h (classOk s .sys false h.role.toNat) uses (needs ok) = none) (hh : s.hazard uses = false) :
    runS s h uses ok lvl go = .next (if !(s.guardLow h) then s.advance
      else if s.m.level < lvl then s.fault PRIV
      else if s.marked uses [lowLane s.active] then s.fault POISON else go s) :=
  runSlot_go hf hh
/-- A system slot whose guard fails in the lowest lane only moves on. -/
theorem runS_falls_through (hf : issueFault s h (classOk s .sys false h.role.toNat) uses (needs ok) = none) (hh : s.hazard uses = false)
    (hg : s.guardLow h = false) : runS s h uses ok lvl go = .next s.advance := by
  rw [runS_of_issues hf hh, if_pos (by simp [hg])]
/-- R277: a system slot below its level raises PRIV. -/
theorem runS_below_level (hf : issueFault s h (classOk s .sys false h.role.toNat) uses (needs ok) = none) (hh : s.hazard uses = false)
    (hg : s.guardLow h = true) (hl : s.m.level < lvl) : runS s h uses ok lvl go = .next (s.fault PRIV) := by
  rw [runS_of_issues hf hh, if_neg (by simp [hg]), if_pos hl]
/-- A slot of a row that executes at the level it needs has its entry's effect. -/
theorem runS_of_runs {r : SRow} {f : FS} (hi : r.runs s h f = true) : runS s h (r.uses f) (r.ok f) (r.lvl f) go = .next (go s) := by
  simp only [SRow.runs, IssuesS, Bool.and_eq_true, Bool.not_eq_true', decide_eq_true_eq] at hi
  obtain ⟨⟨⟨hiss, hg⟩, hmark⟩, hl⟩ := hi
  obtain ⟨hf, hh⟩ := issues_iff.1 hiss
  rw [runS_of_issues hf hh, if_neg (by simp [hg]), if_neg (Nat.not_lt.2 hl), if_neg (by simp [hmark])]

end Slot

/-- A move changes the registers as given and the path that the member executes; no other field takes part in it. -/
theorem Member.movedTo_eq (m : Member) (p : Pc) (r : RegFile) : m.movedTo p r = { m with
    r
    a := if m.curB then m.a else some { m.path with pc := p }
    b := if m.curB then some { m.path with pc := p } else m.b } := by
  unfold Member.movedTo Member.setPath; split <;> rfl

section SystemSlots
variable {h : Hdr} {f : FS} {s : State}

/-! ### Control and status registers (R279) -/

/-- R279: `csrr` leaves the contents of the register it reads in the s register that it names. -/
theorem csrr_reads (hi : (sysRow 0).runs s h f = true) :
    Completes (.csrr h f) s (fun t => SameBeside s t ∧
      t.m = s.m.movedTo s.m.path.pc.next (s.m.r.ws (f.dst.toNat - 256) (s.csrRead f.csr.toNat))) := by
  have hnext : exec (.csrr h f) s = .next (s.modR (·.ws (f.dst.toNat - 256) (s.csrRead f.csr.toNat))).advance :=
    (exec_csrr h f s).trans (runS_of_runs hi)
  rw [Completes, hnext]
  exact goes_next ⟨sameBeside_member s _, (Member.setPath_pc _ _).trans (Member.movedTo_withR ..)⟩

/-- R8, R279: a write of a control and status register is a write of that register alone, a status register keeping the bits it
defines. -/
theorem csrWrite_eq (s : State) (n : Nat) (x : W64) :
    s.csrWrite n x = s.modM (fun m => { m with
      r := { m.r with istat := if n = 1 then x &&& 0x3 else m.r.istat, fstat := if n = 2 then x &&& 0x3F else m.r.fstat }
      epc := if n = 0x100 then x else m.epc
      escr := if n = 0x102 then x else m.escr }) := by
  unfold State.csrWrite
  split
  case h_5 h1 h2 h3 h4 => simp only [if_neg h1, if_neg h2, if_neg h3, if_neg h4]; rfl
  all_goals rfl

/-- R279: `csrw` writes its operand into the register that it names. -/
theorem csrw_writes (hi : (sysRow 1).runs s h f = true) :
    let x := s.rd64 f.src f.imm false (lowLane s.active)
    Completes (.csrw h f) s (fun t => SameBeside s t ∧
      t.m = { s.m.movedTo s.m.path.pc.next t.m.r with
        epc := if f.csr.toNat = 0x100 then x else s.m.epc
        escr := if f.csr.toNat = 0x102 then x else s.m.escr } ∧
      t.m.r = { s.m.r with
        istat := if f.csr.toNat = 1 then x &&& 0x3 else s.m.r.istat
        fstat := if f.csr.toNat = 2 then x &&& 0x3F else s.m.r.fstat }) := by
  intro x
  have hnext : exec (.csrw h f) s = .next (s.csrWrite f.csr.toNat x).advance := (exec_csrw h f s).trans (runS_of_runs hi)
  rw [Completes, hnext, csrWrite_eq]
  refine goes_next ⟨sameBeside_member s _, ?_, Member.setPath_r _ _⟩
  rw [State.advance_m, Member.setPath_pc, Member.movedTo_eq, Member.movedTo_eq]
  rfl

/-! ### The handler (R280) -/

section Svc
variable (hi : (sysRow 2).runs s h f = true)
include hi

/-- R277: `svc` at level 1 raises PRIV. -/
theorem svc_priv (hl : s.m.level ≠ 0) : exec (.svc h f) s = .next (s.fault PRIV) := by
  refine ((exec_svc h f s).trans (runS_of_runs hi)).trans ?_
  rw [if_pos hl]
/-- R280: `svc` of a path that does not hold every lane that has not exited raises ILLOP. -/
theorem svc_illop (hl : s.m.level = 0) (hw : s.m.whole = false) : exec (.svc h f) s = .next (s.fault ILLOP) := by
  refine ((exec_svc h f s).trans (runS_of_runs hi)).trans ?_
  simp [hl, hw]
/-- R30, R280: `svc` without a handler raises PROGTRAP with its number as detail. -/
theorem svc_without_handler (hl : s.m.level = 0) (hw : s.m.whole = true) (he : s.ctx.evbase = 0) :
    exec (.svc h f) s =
      .next (s.raise { code := PROGTRAP, detail := f.imm.toNat, lanes := if s.m.scalar then 1 else s.active, flags := 4 }) := by
  refine ((exec_svc h f s).trans (runS_of_runs hi)).trans ?_
  simp [hl, hw, he]
/-- R86, R280: a handler entry that is no code pointer raises ILLTARGET. -/
theorem svc_no_code_pointer (hl : s.m.level = 0) (hw : s.m.whole = true) (he : s.ctx.evbase ≠ 0) (hp : pcOf s.ctx.evbase = none) :
    exec (.svc h f) s = .next (s.fault ILLTARGET) := by
  refine ((exec_svc h f s).trans (runS_of_runs hi)).trans ?_
  rw [if_neg (by simp [hl]), if_neg (by simp [hw]), if_neg he, hp]
/-- R280: `svc` saves the next slot and its number, and goes to the handler's entry at level 1. -/
theorem svc_enters {p : Pc} (hl : s.m.level = 0) (hw : s.m.whole = true) (he : s.ctx.evbase ≠ 0) (hp : pcOf s.ctx.evbase = some p)
    (ht : s.tgt p = true) :
    Completes (.svc h f) s (fun t => SameBeside s t ∧ t.m = { s.m.movedTo p s.m.r with
      epc := s.m.path.pc.next.word, ecause := BitVec.ofNat 64 f.imm.toNat, level := 1, priv := s.m.priv || s.wg.team.isSome }) := by
  have hnext : exec (.svc h f) s = .next (((s.modM (fun m => { m with
      epc := m.path.pc.next.word, ecause := BitVec.ofNat 64 f.imm.toNat, level := 1 })).setPc p).goPrivate) := by
    refine ((exec_svc h f s).trans (runS_of_runs hi)).trans ?_
    simp only [hp]
    rw [if_neg (by simp [hl]), if_neg (by simp [hw]), if_neg he, if_neg (by simp [ht])]
  rw [Completes, hnext, goPrivate_eq]
  refine goes_next ⟨sameBeside_member s _, ?_⟩
  rw [State.modM_m, State.setPc_m, Member.setPath_pc, Member.movedTo_eq, Member.movedTo_eq]
  rfl

end Svc

section Eret
variable (hi : (sysRow 3).runs s h f = true)
include hi

/-- R86, R280: `eret` to a word that is no code pointer raises ILLTARGET. -/
theorem eret_no_code_pointer (hp : pcOf s.m.epc = none) : exec (.eret h f) s = .next (s.fault ILLTARGET) := by
  refine ((exec_eret h f s).trans (runS_of_runs hi)).trans ?_
  rw [hp]
/-- R280: `eret` goes to the saved code pointer at level 0. -/
theorem eret_returns {p : Pc} (hp : pcOf s.m.epc = some p) :
    Completes (.eret h f) s (fun t => SameBeside s t ∧ t.m = { s.m.movedTo p s.m.r with level := 0 }) := by
  have hnext : exec (.eret h f) s = .next ((s.modM (fun m => { m with level := 0 })).setPc p) := by
    refine ((exec_eret h f s).trans (runS_of_runs hi)).trans ?_
    rw [hp]
  rw [Completes, hnext]
  refine goes_next ⟨sameBeside_member s _, ?_⟩
  rw [State.setPc_m, Member.setPath_pc, Member.movedTo_eq, Member.movedTo_eq]
  rfl

end Eret

/-! ### Translation (R281) -/

/-- R281: translations of the issuer's context dropped before the slot moves on are all that differs. -/
theorem sameTlb_tlbDrop (s : State) (drop : TlbEntry → Bool) : SameTlb s (s.tlbDrop drop).advance drop :=
  ⟨Member.setPath_pc s.m _, rfl, rfl, rfl, rfl, rfl, rfl, rfl, rfl, rfl⟩
/-- R281: `tlbi.all` drops every translation of the issuer's context. -/
theorem tlbiAll_drops (hi : (sysRow 4).runs s h f = true) : Completes (.tlbiAll h f) s (fun t => SameTlb s t (fun _ => true)) :=
  ⟨_, (exec_tlbiAll h f s).trans (runS_of_runs hi), sameTlb_tlbDrop s _⟩
/-- R281: `tlbi.page` drops those that cover the address in its s register. -/
theorem tlbiPage_drops (hi : (sysRow 5).runs s h f = true) :
    Completes (.tlbiPage h f) s (fun t => SameTlb s t (·.holds (s.rf.rs (f.src.toNat - 256)).toNat)) :=
  ⟨_, (exec_tlbiPage h f s).trans (runS_of_runs hi), sameTlb_tlbDrop s _⟩

/-! ### `halt` and `hint` (R283, R284) -/

section Halt
variable (hi : (sysRow 6).runs s h f = true)
include hi

/-- R340: while its die cannot hold another record, `halt` waits. -/
theorem halt_waits (hf : s.holdFull (dieOf s.wg.core) = true) : exec (.halt h f) s = .next s := by
  refine ((exec_halt h f s).trans (runS_of_runs hi)).trans ?_
  rw [if_pos hf]
/-- R283: `halt` posts its record, stops the workgroup and stands at the next slot. -/
theorem halt_stops (hf : s.holdFull (dieOf s.wg.core) = false) :
    Completes (.halt h f) s (fun t => t.m = s.m.movedTo s.m.path.pc.next s.m.r ∧ t.wg = { s.wg with stop := .halt } ∧
      smGet 0 t.plat.dieSeq (dieOf s.wg.core) = smGet 0 s.plat.dieSeq (dieOf s.wg.core) + 1) := by
  have hnext : exec (.halt h f) s = .next ((s.postFault s.m.path.pc
      { code := PROGTRAP, lanes := if s.m.scalar then 1 else s.active, flags := 8 } false).modW (fun w => { w with stop := .halt })).advance := by
    refine ((exec_halt h f s).trans (runS_of_runs hi)).trans ?_
    rw [if_neg (by simp [hf])]
  rw [Completes, hnext]
  refine goes_next ⟨?_, ?_, ?_⟩
  · rw [State.advance_m, State.modW_m, (postFault_run ..).m, Member.setPath_pc]
  · rw [State.advance_wg, State.modW_wg, (postFault_run ..).wg]
  · rw [State.advance_plat, State.modW_plat, postFault_dieSeq]

end Halt

/-- R284: `hint` only moves on. -/
theorem hint_advances (hi : (sysRow 7).runs s h f = true) : Completes (.hint h f) s (Advanced s) :=
  ⟨_, (exec_hint h f s).trans (runS_of_runs hi), advance_advanced s⟩

end SystemSlots

/-- Settles O48: every row of the table acts by its guard and its level (`exec_of_systemRow`); one that executes has its own entry's
effect on registers, translations, workgroup or path. -/
theorem systemResults : Obligations.SystemResults := by
  refine ⟨fun h f s => ⟨fun r hr hf hh => ?_, fun hi => ?_, csrw_writes, tlbiAll_drops, tlbiPage_drops, halt_waits, halt_stops, hint_advances⟩,
    fun h f s => ⟨fun hi => ?_, fun hi => ⟨eret_no_code_pointer hi, fun _ => eret_returns hi⟩⟩⟩
  · obtain ⟨go, hgo⟩ := exec_of_systemRow hr h f s
    exact ⟨fun hg => ⟨_, hgo.trans (runS_falls_through hf hh hg), advance_advanced s⟩,
      fun hg hl => hgo.trans (runS_below_level hf hh hg hl)⟩
  · obtain ⟨t, he, hb, hm⟩ := csrr_reads hi
    refine ⟨t, he, hb, by rw [hm, Member.movedTo_r], fun n => ?_, ?_, ?_, ?_, ?_⟩
    · rw [hm, Member.movedTo_r, RegFile.rs_ws]
    all_goals rw [hm]; rfl
  · exact ⟨svc_priv hi, svc_illop hi, svc_without_handler hi, svc_no_code_pointer hi, fun _ => svc_enters hi⟩

end Sys2Proof.Machine
end
